-- ==== Sys2Proof/Word.lean ====
section
/-! DEFINITION. The word types of the FN8: bytes of a frame, 16-bit fields, 32-bit table and data words. -/

namespace Sys2Proof

/-- One byte of a frame (R180). -/
abbrev Byte := BitVec 8

/-- A two-byte field: a pitch serial, a position, a check (R180). -/
abbrev Half := BitVec 16

/-- A table word or a data word of the management slot (R52, R180). -/
abbrev Word := BitVec 32

/-- A time in ticks of 0.1 µs (R117), the finest time base of the node. -/
abbrev Ticks := Nat

end Sys2Proof
end

