-- ==== Sys2Proof/Syntax.lean ====
section
/-! DEFINITION. The commands of the block: one constructor for each row of spec/opcode_table.json, with its operands.
A frame is held as the record of its fields; Machine/Format.lean lays it out in the 158 bytes of R180 and back. -/

namespace Sys2Proof

/-- A head of the node, 0 to 7. -/
abbrev HeadId := Fin 8

/-- The two meter channels of a head (R114). -/
inductive Meter where
  | main
  | additive
  deriving DecidableEq, Repr

/-- The five valves of a head (R145). -/
inductive ValveId where
  | gas
  | fast
  | slow
  | add
  | snift
  deriving DecidableEq, Repr

/-- The two causes of a power-on reset (R1): power-up, or the RESET input being asserted. -/
inductive ResetCause where
  | powerUp
  | resetInput
  deriving DecidableEq, Repr

/-- An assignment slot (R180), field by field. -/
structure AssignSlot where
  kind : Byte
  node : Byte
  serial : Half
  position : Half
  recipe : Byte
  flags : Byte
  deriving DecidableEq, Repr

/-- The six data words of the management slot (R180). -/
structure DataWords where
  d0 : Word
  d1 : Word
  d2 : Word
  d3 : Word
  d4 : Word
  d5 : Word
  deriving DecidableEq, Repr

/-- The management slot (R180): slot state and destination share byte 0, request kind and LOAD DATA word count
share byte 1. -/
structure MgmtSlot where
  state : BitVec 2
  dest : BitVec 6
  kind : BitVec 5
  count : BitVec 3
  tag : Byte
  result : Byte
  ack : Byte
  refuse : Byte
  param : Half
  data : DataWords
  deriving DecidableEq, Repr

/-- A result slot (R180). -/
structure ResultSlot where
  kind : Byte
  node : Byte
  head : Byte
  serial : Half
  recipe : Byte
  code : Byte
  flags : Byte
  valueA : Word
  valueB : BitVec 24
  deriving DecidableEq, Repr

/-- A whole frame of 158 bytes (R180): header, six assignment slots, the management slot, four result slots and
the frame check. -/
structure Frame where
  kind : Byte
  hop : Byte
  serial : Half
  position : Half
  carousel : Byte
  damage : Byte
  attention : Word
  spare : Word
  a0 : AssignSlot
  a1 : AssignSlot
  a2 : AssignSlot
  a3 : AssignSlot
  a4 : AssignSlot
  a5 : AssignSlot
  mgmt : MgmtSlot
  r0 : ResultSlot
  r1 : ResultSlot
  r2 : ResultSlot
  r3 : ResultSlot
  check : Half
  deriving DecidableEq, Repr

/-- What a request row carries beside its own arguments: the time at which the frame that holds it passes, and the
fields of the management slot that the master writes for every request (R172). -/
structure Envelope where
  time : Ticks
  dest : BitVec 6
  tag : Byte
  result : Byte
  ack : Byte
  refuse : Byte
  param : Half
  deriving DecidableEq, Repr

/-- The commands: one constructor for each row of spec/opcode_table.json, in the table's order. A `time` is the moment,
in ticks of 0.1 µs, at which an event that comes from outside a timer happens (log 1); an expiry carries no time, since
it happens when the time it waits for is reached (log 2). -/
inductive Instr where
  | powerOnReset (time : Ticks) (cause : ResetCause)
  | selfTestEnd (time : Ticks) (passed : Bool)
  | pitchFrame (time : Ticks) (frame : Frame)
  | serviceFrame (time : Ticks) (frame : Frame)
  | pitchWindowExpiry
  | containerAssignment (time : Ticks) (node : Byte) (serial position : Half) (recipe flags : Byte)
  | gapAssignment (time : Ticks) (node : Byte) (serial position : Half) (recipe flags : Byte)
  | segmentDefine (q : Envelope) (segment base length kind : Word)
  | segmentDelete (q : Envelope) (segment : Word)
  | loadOpen (q : Envelope) (segment : Word)
  | loadData (q : Envelope) (pointer : Half) (count : BitVec 3) (words : DataWords)
  | loadClose (q : Envelope) (check : Word)
  | checkComplete (time : Ticks)
  | segmentStatus (q : Envelope) (segment : Word)
  | tableRead (q : Envelope) (segment index count : Word)
  | directorySet (q : Envelope) (recipe action segment index : Word)
  | headSetPlace (q : Envelope) (head position : Word) (offset gain : Half) (gas fast slow add : Byte) (snift : Word)
  | headSetMeters (q : Envelope) (head wMain wAdd : Word) (mainSegment mainRecord addSegment addRecord : Half)
  | headSetAfterflow (q : Envelope) (head mainMax addMax : Word)
  | nodeSet (q : Envelope) (nPos depth holdover : Word) (presence feedback : Half) (bowlOffset bowlGain : Word)
  | queueClear (q : Envelope)
  | headControlOn (q : Envelope) (head : Word)
  | headControlOff (q : Envelope) (head : Word)
  | headControlClear (q : Envelope) (head : Word)
  | headControlForget (q : Envelope) (head : Word)
  | headControlStepOn (q : Envelope) (head : Word)
  | headControlStepOff (q : Envelope) (head : Word)
  | headControlStep (q : Envelope) (head : Word)
  | countersRead (q : Envelope) (clear : Word)
  | totalsRead (q : Envelope) (recipe clear : Word)
  | traceArm (q : Envelope) (descriptor head signal divider length : Word) (link trigger : Half)
  | traceStop (q : Envelope) (descriptor : Word)
  | traceRead (q : Envelope) (descriptor offset : Word)
  | nodeStatus (q : Envelope)
  | headStatusCycle (q : Envelope) (head : Word)
  | headStatusValves (q : Envelope) (head : Word)
  | headStatusMetering (q : Envelope) (head : Word)
  | nodeReset (q : Envelope)
  | softReset (time : Ticks)
  | testDamageNext (q : Envelope)
  | testForceRail (q : Envelope) (head : Word)
  | undefinedRequest (time : Ticks) (slot : MgmtSlot)
  | resolutionStep (time : Ticks)
  | resolutionComplete (time : Ticks)
  | phaseTimeLimitExpiry (head : HeadId)
  | sniftHoldExpiry (head : HeadId)
  | conversionComplete (raw : BitVec 12)
  | meterPulse (time : Ticks) (head : HeadId) (meter : Meter)
  | settleWindowExpiry (head : HeadId) (meter : Meter)
  | settleLimitExpiry (head : HeadId) (meter : Meter)
  | feedbackInputChange (time : Ticks) (head : HeadId) (valve : ValveId) (active : Bool)
  | feedbackDebounceExpiry (head : HeadId) (valve : ValveId)
  | strokeExpiry (head : HeadId) (valve : ValveId)
  | containerPresentChange (time : Ticks) (head : HeadId) (active : Bool)
  | containerDebounceExpiry (head : HeadId)
  | frameOfUndefinedKind (time : Ticks) (frame : Frame)
  | assignmentOfUndefinedKind (time : Ticks) (slot : AssignSlot)
  | resetRelease (time : Ticks)
  deriving DecidableEq, Repr

end Sys2Proof
end

