-- ==== Sys2Proof/Config.lean ====
section
/-! DEFINITION. The sizes, times and limits that the manual fixes for every FN8. Nothing here is open: the manual
leaves no value of this machine to the implementation, so there is no free value (INVENTORY.md). -/

namespace Sys2Proof.Config

/-- Words of table memory (R52). -/
def tableWords : Nat := 16384

/-- Words of one recipe record and of one curve record (R54). -/
def recipeWords : Nat := 32
def curveWords : Nat := 16

/-- Records plus reservations that the Outbound Record Queue holds (R154). -/
def orqPlaces : Nat := 48

/-- The broadcast address (chapter "The part in its setting", R9). -/
def broadcast : Nat := 63

/-- Ticks of 0.1 µs in one microsecond and in one millisecond. -/
def ticksPerUs : Nat := 10
def ticksPerMs : Nat := 10000

/-- Length of one conversion, 25 µs (R134), in ticks. -/
def conversionTicks : Nat := 250

/-- Range of the interval estimate, in µs (R28). -/
def estimateMin : Nat := 1000
def estimateMax : Nat := 2000000

/-- The most serials an assignment may lie ahead (R40). -/
def maxLead : Nat := 4095

/-- Largest volume, and largest 32-bit count (R114, R163). -/
def maxVolume : Nat := 4294967295

/-- Largest volume sum of a totals row, in µL (R163). -/
def maxSum : Nat := 281474976710655

/-- The longest interval that measures a rate, in ticks (R117), and the largest rate. -/
def maxInterval : Nat := 16777215
def maxRate : Nat := 65535

/-- The total correction is clamped to plus or minus this many ppm (R119). -/
def maxCorrection : Int := 50000

/-- Largest pressure, in mbar (R138), and the converter's full scale in counts. -/
def maxPressure : Nat := 16000
def fullScale : Nat := 4095

/-- The longest chain of recipe records (R79). -/
def maxChain : Nat := 4

/-- Places of one trace buffer (R165). -/
def tracePlaces : Nat := 512

end Sys2Proof.Config
end

