-- ==== Sys2Proof/Machine/State.lean ====
section
/-! DEFINITION. All the state that the manual gives the FN8, block by block, as plain data, and the state right after a
power-on reset. Each type names the rule that gives it. -/

namespace Sys2Proof.Machine

/-! ### One item for each meter, one for each valve -/

/-- One item for each of a head's two meters. -/
structure PerMeter (α : Type) where
  main : α
  additive : α
  deriving DecidableEq, Repr

/-- One item for each of a head's five valves. -/
structure PerValve (α : Type) where
  gas : α
  fast : α
  slow : α
  add : α
  snift : α
  deriving DecidableEq, Repr

/-! ### Ring Port (R1) -/

/-- The ring state (R1). -/
inductive RingState where
  | bypass
  | joining
  | locked
  | holdover
  | blind
  | failed
  deriving DecidableEq, Repr

/-- The run of good PITCH frames without a gap, with the serial and position of its last frame (R1, R15). -/
structure LockRun where
  length : Nat
  serial : Half
  position : Nat
  deriving DecidableEq, Repr

/-- The Ring Port (R1). -/
structure RingPort where
  state : RingState
  address : Option (Fin 32)
  badCount : Nat
  run : LockRun
  damagePending : Bool
  deriving DecidableEq, Repr

/-! ### Pitch Timer (R23) -/

/-- The carousel state, with NONE for a copy that no header has set (R23). -/
inductive Carousel where
  | none
  | stopped
  | jog
  | running
  deriving DecidableEq, Repr

/-- The kind of a pitch event (R25). -/
inductive EventKind where
  | received
  | estimated
  deriving DecidableEq, Repr

/-- The sequence of pitch events: last serial, last infeed position, last event kind and last event time in µs (R23). -/
structure PitchSequence where
  serial : Half
  position : Nat
  kind : EventKind
  time : Nat
  deriving DecidableEq, Repr

/-- The PITCH frame against which the next may be measured in JOINING; its arrival is in µs (R23, R26). -/
structure JoinReference where
  serial : Half
  position : Nat
  arrival : Nat
  shown : Carousel
  deriving DecidableEq, Repr

/-- The Pitch Timer (R23). The estimate and the window deadline are in µs. `lastBeyond` is the model's own item: a NODE SET
has put N_pos at or below the last position, so the next PITCH frame fails its position test (R36, log 32). -/
structure PitchTimer where
  carousel : Carousel
  estimate : Option Nat
  sequence : Option PitchSequence
  joinRef : Option JoinReference
  measureValid : Bool
  window : Option Nat
  lastBeyond : Bool
  deriving DecidableEq, Repr

/-! ### Assignment Queue (R37) -/

/-- The kind of an entry (R37). -/
inductive AssignKind where
  | container
  | gap
  deriving DecidableEq, Repr

/-- An entry of the Assignment Queue, also a head's infeed entry (R37, R89). -/
structure QueueEntry where
  serial : Half
  position : Nat
  recipe : Nat
  kind : AssignKind
  trace : Bool
  deriving DecidableEq, Repr

/-- The Assignment Queue (R37), oldest entry first. Its configured depth stands in the node settings (R70). -/
structure AssignQueue where
  entries : List QueueEntry
  armed : Bool
  deriving DecidableEq, Repr

/-! ### Table memory and segment map (R52 to R62) -/

/-- One listed word of table memory: its number and its content (R52). -/
abbrev TableCell := Nat × Word

/-- The state of a segment (R54, R55). -/
inductive SegState where
  | undefined
  | empty
  | loading
  | checking
  | valid
  | bad
  deriving DecidableEq, Repr

/-- The kind of the records of a segment (R54). -/
inductive SegKind where
  | recipe
  | curve
  deriving DecidableEq, Repr

/-- A segment entry (R54). An UNDEFINED entry has no kind, and its base, length and checks are 0. -/
structure Segment where
  state : SegState
  kind : Option SegKind
  base : Nat
  length : Nat
  expected : Half
  computed : Half
  deriving DecidableEq, Repr

/-- An UNDEFINED segment entry (R54). -/
def Segment.none : Segment := ⟨.undefined, .none, 0, 0, 0, 0⟩

/-- The segment that the check engine is checking and the word it has reached (R62). -/
structure CheckRun where
  segment : Fin 32
  reached : Nat
  deriving DecidableEq, Repr

/-- Table memory, the segment map, the load pointer and the check engine (R52, R54, R58, R62). -/
structure Tables where
  words : List TableCell
  segments : Vector Segment 32
  openSegment : Option (Fin 32)
  pointer : Nat
  check : Option CheckRun
  deriving DecidableEq, Repr

/-- A present directory entry (R66). -/
structure DirEntry where
  segment : Fin 32
  index : Nat
  deriving DecidableEq, Repr

/-! ### Head table and node settings (R67, R70) -/

/-- A curve reference: segment and record index (R67). -/
structure CurveRef where
  segment : Nat
  index : Nat
  deriving DecidableEq, Repr

/-- A head record: the configuration fields of R67 and its three runtime fields. Stroke times are in ms, pulse
weights and afterflows in nL. -/
structure HeadRecord where
  position : Nat
  offset : Nat
  gain : Nat
  strokes : PerValve Nat
  weight : PerMeter Nat
  curve : PerMeter CurveRef
  afterflowMax : PerMeter Nat
  learned : PerMeter Nat
  lastRecipe : Option Nat
  deriving DecidableEq, Repr

/-- The node settings (R70). Debounces are in ms. -/
structure Settings where
  nPos : Nat
  depth : Nat
  holdover : Nat
  presence : Nat
  feedback : Nat
  bowlOffset : Nat
  bowlGain : Nat
  deriving DecidableEq, Repr

/-! ### Recipes, curves, cycle records and the Resolver (R72 to R88) -/

/-- The kind of a phase entry (R74). -/
inductive PhaseKind where
  | purge
  | pressurise
  | additive
  | fill
  | rest
  | snift
  deriving DecidableEq, Repr

/-- A phase entry of a validated plan (R74). Times are in ms, the pressure parameter in mbar. -/
structure PhaseEntry where
  kind : PhaseKind
  continues : Bool
  debounce : Nat
  timeLimit : Nat
  pressure : Nat
  hold : Nat
  deriving DecidableEq, Repr

/-- A phase entry as its two words hold it, before validation: the kind is a code (R74, R184). -/
structure RawEntry where
  kindCode : Nat
  continues : Bool
  debounce : Nat
  timeLimit : Nat
  pressure : Nat
  hold : Nat
  deriving DecidableEq, Repr

/-- The three deadlines of a recipe, in pitches (R73). -/
structure Deadlines where
  dFill : Nat
  dSnift : Nat
  dRelease : Nat
  deriving DecidableEq, Repr

/-- The fields of R73 except the plan. Volumes are in nL, pressures in mbar, times in ms, the factor in ppm. -/
structure Recipe where
  vMain : Nat
  tolUnder : Nat
  tolOver : Nat
  startBand : Nat
  slowBand : Nat
  ratio : Nat
  addTol : Nat
  factor : Int
  smoothing : Nat
  gain : Nat
  seed : PerMeter Nat
  settleWindow : Nat
  settleLimit : Nat
  bowlMin : Nat
  bowlMax : Nat
  burstDelta : Nat
  burstDebounce : Nat
  deadlines : Deadlines
  deriving DecidableEq, Repr

/-- A merged recipe with its plan, before validation (R79). -/
structure Merged where
  recipe : Recipe
  planCount : Nat
  plan : List RawEntry
  deriving DecidableEq, Repr

/-- The overridable fields that the VARIANT records of a chain have fixed so far (R75, R79). -/
structure Fixed where
  target : Option Nat
  tolUnder : Option Nat
  tolOver : Option Nat
  ratio : Option Nat
  factor : Option Int
  deadlines : Option Deadlines
  deriving DecidableEq, Repr

/-- One point of a curve: rate in rate units, correction in ppm (R76). -/
structure CurvePoint where
  rate : Nat
  corr : Int
  deriving DecidableEq, Repr

/-- The snapshot from which a head runs its cycle (R84). The additive curve is absent when the ratio is 0. -/
structure CycleRecord where
  recipe : Recipe
  vAdd : Nat
  plan : List PhaseEntry
  mainCurve : List CurvePoint
  addCurve : Option (List CurvePoint)
  deriving DecidableEq, Repr

/-- The faults that end a resolution (R88). -/
inductive ResFault where
  | noRecipe
  | wrongKind
  | segmentNotReady
  | indexRange
  | chainTooLong
  | fieldRange
  | planInvalid
  | deadlinesInvalid
  | curveInvalid
  deriving DecidableEq, Repr

/-- How far a resolution has come: following a recipe number (R78); at the root with the merged recipe (R79); main
curve read; both curves read (R82); or ended with a fault and its detail (R88). -/
inductive Stage where
  | following (number : Nat)
  | merged (m : Merged)
  | mainRead (m : Merged) (main : List CurvePoint)
  | curvesRead (m : Merged) (main : List CurvePoint) (additive : Option (List CurvePoint))
  | failed (fault : ResFault) (detail : Nat)
  deriving DecidableEq, Repr

/-- The resolution in progress (R77), with the overtaken mark of R86. -/
structure Resolution where
  head : HeadId
  named : Nat
  chainLength : Nat
  fixed : Fixed
  stage : Stage
  readSet : List (Fin 32)
  wordsRead : Nat
  overtaken : Bool
  deriving DecidableEq, Repr

/-- A request in the Resolver's list (R77), with the overtaken mark of R86. -/
structure ResRequest where
  head : HeadId
  recipe : Nat
  overtaken : Bool
  deriving DecidableEq, Repr

/-- The Resolver (R77), oldest request first. -/
structure Resolver where
  requests : List ResRequest
  current : Option Resolution
  deriving DecidableEq, Repr

/-! ### Head sequencers (R89) -/

/-- The head state (R89). -/
inductive HeadState where
  | off
  | idle
  | resolving
  | running
  | forcedSnift
  | stepHold
  | fault
  | held
  deriving DecidableEq, Repr

/-- The entry progress (R89). -/
inductive Progress where
  | none
  | active
  | settling
  | holding
  deriving DecidableEq, Repr

/-- The cycle flags of R89, which the FILL record carries. -/
structure CycleFlags where
  deadline : Bool
  timeout : Bool
  addErr : Bool
  learnSkipped : Bool
  ringLoss : Bool
  sniftIncomplete : Bool
  stepMode : Bool
  deriving DecidableEq, Repr

/-- No cycle flag set. -/
def CycleFlags.clear : CycleFlags := ⟨false, false, false, false, false, false, false⟩

/-- A head sequencer (R89), with the two debounce counts of R141 and the elapsed pitch count of R35. The entry timer
holds its time of expiry. -/
structure Sequencer where
  state : HeadState
  planIndex : Nat
  progress : Progress
  timer : Option Ticks
  equalised : Bool
  sniftBegun : Bool
  stepMode : Bool
  entry : Option QueueEntry
  reserved : Bool
  flags : CycleFlags
  faultPending : Bool
  condCount : Nat
  burstCount : Nat
  elapsed : Option Nat
  deriving DecidableEq, Repr

/-- A sequencer after power-on reset (R89, R35). That its two debounce counts are 0 is the model's choice (log 40). -/
def Sequencer.reset : Sequencer :=
  ⟨.off, 0, .none, .none, false, false, false, .none, false, CycleFlags.clear, false, 0, 0, .none⟩

/-! ### Metering channels (R114) -/

/-- The channel state (R114, R115). -/
inductive ChannelState where
  | idle
  | dosing
  | settling
  | ended
  deriving DecidableEq, Repr

/-- How a dose's valves were closed (R114). -/
inductive CloseKind where
  | none
  | cutoff
  | cut
  deriving DecidableEq, Repr

/-- How a dose's settle ended (R114). -/
inductive EndKind where
  | none
  | window
  | limit
  | frozen
  deriving DecidableEq, Repr

/-- What became of a dose's learning (R114). -/
inductive LearnResult where
  | none
  | learned
  | skipped
  deriving DecidableEq, Repr

/-- A metering channel (R114). The previous timestamp is on the 32-bit time base of 0.1 µs; settle start and last
pulse time are times of the millisecond time base, held in ticks (log 25). The held rate is the model's own item: the last
smoothed rate of the doses before, which Trace Capture goes on sampling from a cycle start to the next dose start (R132,
R167, log 34). -/
structure Channel where
  state : ChannelState
  target : Nat
  volume : Nat
  rem : Nat
  pulses : Nat
  prevStamp : Option Word
  rate : Nat
  closeKind : CloseKind
  closeVolume : Option Nat
  settleStart : Option Ticks
  lastPulse : Option Ticks
  endKind : EndKind
  final : Nat
  learn : LearnResult
  heldRate : Nat
  deriving DecidableEq, Repr

/-- A channel after reset (R114). -/
def Channel.reset : Channel := ⟨.idle, 0, 0, 0, 0, .none, 0, .none, .none, .none, .none, .none, 0, .none, 0⟩

/-! ### Pressure Scanner (R133) -/

/-- One of the nine converted channels (R133). -/
inductive ScanId where
  | head (h : HeadId)
  | bowl
  deriving DecidableEq, Repr

/-- The items that R133 keeps for each of the nine channels. -/
structure ScanChannel where
  value : Option Nat
  raw : Option (BitVec 12)
  fault : Bool
  runCount : Nat
  deriving DecidableEq, Repr

/-- A channel of the scanner after reset (R133). -/
def ScanChannel.reset : ScanChannel := ⟨.none, .none, false, 0⟩

/-- The conversion in flight (R133) and when it started; it has not started while RESET is held (R133). -/
structure Conversion where
  channel : ScanId
  byRequest : Bool
  started : Option Ticks
  deriving DecidableEq, Repr

/-- The scanner's own items (R133); those of a head channel stand with the head. -/
structure Scanner where
  conversion : Conversion
  pointer : ScanId
  request : Bool
  bowl : ScanChannel
  deriving DecidableEq, Repr

/-- The taken level of a container-present input (R133, R143). -/
inductive Presence where
  | none
  | present
  | absent
  deriving DecidableEq, Repr

/-- A debounce candidate: a level of the input and the time it began (R133, R145). -/
structure Candidate where
  level : Bool
  since : Ticks
  deriving DecidableEq, Repr

/-! ### Valve Drives (R145) -/

/-- The debounced feedback level (R145). -/
inductive Feedback where
  | none
  | opened
  | closed
  deriving DecidableEq, Repr

/-- The supervision state of a valve (R145). -/
inductive Supervision where
  | idle
  | stroking
  | faulted
  deriving DecidableEq, Repr

/-- A valve drive (R145). `request` and `output` are true for OPEN; `pin` is the level of the feedback input. -/
structure Valve where
  request : Bool
  output : Bool
  feedback : Feedback
  candidate : Candidate
  supervision : Supervision
  expiry : Option Ticks
  pin : Bool
  deriving DecidableEq, Repr

/-- A valve after a reset at time `t`, with its input at `pin` (R145, R152). -/
def Valve.reset (t : Ticks) (pin : Bool) : Valve := ⟨false, false, .none, ⟨pin, t⟩, .idle, .none, pin⟩

/-! ### A head: all that the blocks keep for it -/

/-- All that the blocks keep for one head: sequencer (R89), cycle record (R84), head table record (R67), channels and
stray count (R114), scanner items (R133), valves (R145), and the last additive volume (R176). `presentPin` is the
level of the container-present input. -/
structure Head where
  seq : Sequencer
  cycle : Option CycleRecord
  table : HeadRecord
  chan : PerMeter Channel
  stray : Nat
  scan : ScanChannel
  forced : Nat
  presence : Presence
  presenceCandidate : Candidate
  presentPin : Bool
  valves : PerValve Valve
  lastAdditive : Nat
  deriving DecidableEq, Repr

/-! ### Outbound Record Queue, counters and totals (R154 to R164) -/

/-- The kind of a record (R159). -/
inductive RecordKind where
  | fill
  | notServed
  | alarm
  deriving DecidableEq, Repr

/-- A record as the queue holds it; the node field is filled when it is written into a slot (R158, R159). -/
structure Record where
  kind : RecordKind
  head : Byte
  serial : Half
  recipe : Byte
  code : Byte
  flags : Byte
  valueA : Word
  valueB : BitVec 24
  deriving DecidableEq, Repr

/-- The Outbound Record Queue (R154), oldest record first. -/
structure Orq where
  records : List Record
  reservations : Nat
  lost : Bool
  deriving DecidableEq, Repr

/-- One row of totals (R163); `unservedCount` is its ABORTED-or-NOT_SERVED count. -/
structure TotalsRow where
  goodCount : Nat
  underCount : Nat
  overCount : Nat
  unservedCount : Nat
  volumeSum : Nat
  deriving DecidableEq, Repr

/-- A row of zeros. -/
def TotalsRow.zero : TotalsRow := ⟨0, 0, 0, 0, 0⟩

/-! ### Trace Capture (R165) -/

/-- The state of a descriptor (R165). -/
inductive TraceState where
  | idle
  | armed
  | running
  | done
  | stopped
  deriving DecidableEq, Repr

/-- The signal that a descriptor records (R165). -/
inductive Signal where
  | mainRate
  | addRate
  | headPressure
  | bowlPressure
  deriving DecidableEq, Repr

/-- The trigger of a descriptor (R165). -/
inductive Trigger where
  | immediate
  | markedFill
  deriving DecidableEq, Repr

/-- A trace descriptor with its sample buffer (R165). The link flag is B's alone. -/
structure Descriptor where
  state : TraceState
  head : HeadId
  signal : Signal
  divider : Nat
  length : Nat
  trigger : Trigger
  link : Bool
  ticks : Nat
  samples : Nat
  buffer : Vector Half 512
  deriving DecidableEq, Repr

/-- A descriptor after power-on reset (R165). -/
def Descriptor.reset : Descriptor :=
  ⟨.idle, 0, .mainRate, 1, 1, .immediate, false, 0, 0, Vector.replicate 512 0⟩

/-- Trace Capture (R165). -/
structure Trace where
  a : Descriptor
  b : Descriptor
  deriving DecidableEq, Repr

/-! ### The whole state -/

/-- The state of the node: every block's items, the time, the commands that wait, and what the node last sent on
ring OUT. -/
structure State where
  pending : List Instr
  now : Ticks
  resetHeld : Bool
  selfTest : Bool
  resetScheduled : Bool
  ring : RingPort
  pitch : PitchTimer
  queue : AssignQueue
  tables : Tables
  directory : Vector (Option DirEntry) 128
  settings : Settings
  resolver : Resolver
  heads : Vector Head 8
  scanner : Scanner
  orq : Orq
  counters : Vector Half 10
  totals : Vector TotalsRow 128
  trace : Trace
  frameOut : Option Frame
  assignOut : Option AssignSlot
  mgmtOut : Option MgmtSlot
  deriving DecidableEq, Repr

/-! ### Reset -/

/-- The Ring Port after power-on reset (R1). -/
def RingPort.reset : RingPort := ⟨.bypass, .none, 0, ⟨0, 0, 0⟩, false⟩

/-- The Pitch Timer after power-on and after soft reset (R23). -/
def PitchTimer.reset : PitchTimer := ⟨.none, .none, .none, .none, false, .none, false⟩

/-- The Assignment Queue after a reset (R37). -/
def AssignQueue.reset : AssignQueue := ⟨[], true⟩

/-- Table memory and segment map after power-on reset (R52, R54, R58, R62). -/
def Tables.reset : Tables := ⟨[], Vector.replicate 32 Segment.none, .none, 0, .none⟩

/-- The node settings after power-on reset (R70). -/
def Settings.reset : Settings := ⟨144, 32, 8, 5, 3, 0, 10000⟩

/-- The Resolver after a reset (R77). -/
def Resolver.reset : Resolver := ⟨[], .none⟩

/-- A head record after power-on reset: every configuration field 0, nothing learned, no last recipe (R67). -/
def HeadRecord.reset : HeadRecord :=
  ⟨0, 0, 0, ⟨0, 0, 0, 0, 0⟩, ⟨0, 0⟩, ⟨⟨0, 0⟩, ⟨0, 0⟩⟩, ⟨0, 0⟩, ⟨0, 0⟩, .none⟩

/-- A head after a power-on reset at time `t`, whose inputs keep the levels they have (R89, R84, R67, R114, R133,
R145, R176). -/
def Head.reset (t : Ticks) (presentPin : Bool) (pins : PerValve Bool) : Head :=
  { seq := Sequencer.reset
    cycle := .none
    table := HeadRecord.reset
    chan := ⟨Channel.reset, Channel.reset⟩
    stray := 0
    scan := ScanChannel.reset
    forced := 0
    presence := .none
    presenceCandidate := ⟨presentPin, t⟩
    presentPin := presentPin
    valves := ⟨Valve.reset t pins.gas, Valve.reset t pins.fast, Valve.reset t pins.slow, Valve.reset t pins.add,
      Valve.reset t pins.snift⟩
    lastAdditive := 0 }

/-- The scanner after a reset, its first bowl conversion started at `t` if there is one (R133). -/
def Scanner.reset (t : Option Ticks) : Scanner := ⟨⟨.bowl, false, t⟩, .bowl, false, ScanChannel.reset⟩

/-- The Outbound Record Queue after a reset (R154). -/
def Orq.reset : Orq := ⟨[], 0, false⟩

/-- Trace Capture after power-on reset (R165). -/
def Trace.reset : Trace := ⟨Descriptor.reset, Descriptor.reset⟩

/-- The machine right after a power-on reset: every item at the value of its own chapter, the ring state BYPASS with
the self-test running and the first bowl conversion started (R1, R10, R133). The input pins are inactive (log 6), RESET
is released (log 5), time is 0 (log 1) and no command waits. -/
def State.reset : State :=
  { pending := []
    now := 0
    resetHeld := false
    selfTest := true
    resetScheduled := false
    ring := RingPort.reset
    pitch := PitchTimer.reset
    queue := AssignQueue.reset
    tables := Tables.reset
    directory := Vector.replicate 128 .none
    settings := Settings.reset
    resolver := Resolver.reset
    heads := Vector.replicate 8 (Head.reset 0 false ⟨false, false, false, false, false⟩)
    scanner := Scanner.reset (some 0)
    orq := Orq.reset
    counters := Vector.replicate 10 0
    totals := Vector.replicate 128 TotalsRow.zero
    trace := Trace.reset
    frameOut := .none
    assignOut := .none
    mgmtOut := .none }

/-! ### Ways for a step to stop -/

/-- The faults that stop the machine: there is none. The block has no exception entry and the manual stops it nowhere;
what goes wrong is an alarm, a counter, a flag or a refusal code in its state. Safe: no run ends here. -/
inductive Fault where
  deriving DecidableEq, Repr

/-- The refusals: `notModelled` is raised by an arm of `exec` whose command has no meaning yet, and by no meaning.
Safe: nothing is claimed of such a command. -/
inductive Refusal where
  | notModelled (mnemonic : String)
  deriving DecidableEq, Repr

end Sys2Proof.Machine
end

