-- ==== Sys2Proof/Machine/Operands.lean ====
section
/-! DEFINITION. Operand forms: serial arithmetic (R22), bit fields and the composing of words (R181), signed and clamped
arithmetic, and the code values of R182. -/

namespace Sys2Proof.Machine

/-! ### Serials and positions -/

/-- The distance from serial `a` to serial `b` (R22). -/
def serialDistance (a b : Half) : Nat := (b - a).toNat

/-- `b` is ahead of `a` (R22). -/
def isAhead (a b : Half) : Bool := 1 ≤ serialDistance a b && serialDistance a b ≤ 32767

/-- `b` is behind `a` (R22): the distance 32,768 counts as behind. -/
def isBehind (a b : Half) : Bool := 32768 ≤ serialDistance a b

/-- The next serial after `a` (R22). -/
def nextSerial (a : Half) : Half := a + 1#16

/-- The position that stands at the infeed `d` pitches after position `p` (R25, R40). -/
def positionAfter (nPos p d : Nat) : Nat := (p + d) % nPos

/-- The elapsed pitch count of a head at position `pos` when `p` stands at the infeed (R35). -/
def elapsedCount (nPos p pos : Nat) : Nat := (((p : Int) - (pos : Int)) % (nPos : Int)).toNat

/-! ### Bit fields -/

/-- The field at bits `hi` to `lo` of a word, unsigned (R183, R184). -/
def bits (w : Word) (hi lo : Nat) : Nat := w.toNat / 2 ^ lo % 2 ^ (hi + 1 - lo)

/-- The upper and the lower half of a word (R183). -/
def upperHalf (w : Word) : Half := w.extractLsb' 16 16
def lowerHalf (w : Word) : Half := w.extractLsb' 0 16

/-- A word of two halves, the first in bits 31-16 (R183). -/
def wordOfHalves (hi lo : Half) : Word := hi ++ lo

/-- A word of four bytes, bytes 3 to 0 (R183). -/
def wordOfBytes (b3 b2 b1 b0 : Byte) : Word := b3 ++ b2 ++ b1 ++ b0

/-- The bit that a flag gives, 0 or 1. -/
def bitOf (b : Bool) : Nat := if b then 1 else 0

/-- A head number as the head byte of a record, and the head byte of a record of the node as a whole (R159). -/
def headByte (h : HeadId) : Byte := BitVec.ofNat 8 h.val
def nodeByte : Byte := 255#8

/-- The head that an argument names, if it is 0 to 7. -/
def headOf (w : Word) : Option HeadId := if h : w.toNat < 8 then some ⟨w.toNat, h⟩ else none

/-- The segment that an argument names, if it is 0 to 31. -/
def segmentOf (w : Word) : Option (Fin 32) := if h : w.toNat < 32 then some ⟨w.toNat, h⟩ else none

/-- The address that a received hop count stands for, if it is 0 to 31 (R6). -/
def addressOf (hop : Byte) : Option (Fin 32) := if h : hop.toNat < 32 then some ⟨hop.toNat, h⟩ else none

/-! ### Arithmetic -/

/-- An integer clamped to a range: the nearer end when it falls outside (00_scope.md, Integer arithmetic). -/
def clampInt (lo hi x : Int) : Int := max lo (min hi x)

/-- A natural number clamped to a range. -/
def clampNat (lo hi x : Nat) : Nat := max lo (min hi x)

/-- A count that saturates (R163). -/
def satAdd (limit x d : Nat) : Nat := min limit (x + d)

/-- Milliseconds in ticks. -/
def msTicks (ms : Nat) : Ticks := ms * Config.ticksPerMs

/-! ### Code values (R182) -/

/-- The alarm codes (R159, R182). -/
inductive AlarmCode where
  | valveStuckOpen
  | valveNoOpen
  | valveDrift
  | interlock
  | sensorFault
  | bowlSensorFault
  | burst
  | sniftIncomplete
  | releaseOverrun
  | afterflowImplausible
  | queueNearFull
  | counterWrap
  | ringHoldover
  | ringBlind
  | pitchDiscontinuity
  | addressChanged
  deriving DecidableEq, Repr

/-- The reasons of a NOT_SERVED record (R159, R182). -/
inductive NotServedReason where
  | stale
  | headUnavailable
  | holdover
  | queueCleared
  | ringLoss
  | missingContainer
  | unassignedContainer
  | recipeFault
  | late
  | bowlSensor
  | bowlPressure
  deriving DecidableEq, Repr

/-- The outcome of a FILL record (R130, R182). -/
inductive FillOutcome where
  | good
  | underfilled
  | overfilled
  | aborted
  deriving DecidableEq, Repr

/-- The reasons for which an assignment slot is refused (R40, R182). -/
inductive SlotReason where
  | range
  | noHead
  | late
  | tooFar
  | mismatch
  | order
  | full
  deriving DecidableEq, Repr

/-- The result codes of a management request (R172, R182). -/
inductive ResultCode where
  | done
  | accepted
  | busy
  | refusedState
  | refusedRange
  | refusedSequence
  | unknownKind
  deriving DecidableEq, Repr

/-- The ten counters, in id order (R160). -/
inductive CounterId where
  | damagedFrames
  | missingPitches
  | assignRefused
  | assignStale
  | recordsLost
  | valveFaults
  | sensorFaults
  | bursts
  | unassigned
  | missingContainers
  deriving DecidableEq, Repr

/-- The kinds of valve fault (R151). -/
inductive ValveFault where
  | noOpen
  | stuckOpen
  | drift
  deriving DecidableEq, Repr

/-- Alarm codes (R182). -/
def AlarmCode.code : AlarmCode → Nat
  | .valveStuckOpen => 1
  | .valveNoOpen => 2
  | .valveDrift => 3
  | .interlock => 4
  | .sensorFault => 5
  | .bowlSensorFault => 6
  | .burst => 7
  | .sniftIncomplete => 8
  | .releaseOverrun => 9
  | .afterflowImplausible => 10
  | .queueNearFull => 11
  | .counterWrap => 12
  | .ringHoldover => 13
  | .ringBlind => 14
  | .pitchDiscontinuity => 15
  | .addressChanged => 16

/-- NOT_SERVED reasons (R182). -/
def NotServedReason.code : NotServedReason → Nat
  | .stale => 1
  | .headUnavailable => 2
  | .holdover => 3
  | .queueCleared => 4
  | .ringLoss => 5
  | .missingContainer => 6
  | .unassignedContainer => 7
  | .recipeFault => 8
  | .late => 9
  | .bowlSensor => 10
  | .bowlPressure => 11

/-- FILL outcomes (R182). -/
def FillOutcome.code : FillOutcome → Nat
  | .good => 0
  | .underfilled => 1
  | .overfilled => 2
  | .aborted => 3

/-- Refusal reasons of an assignment slot (R182). -/
def SlotReason.code : SlotReason → Nat
  | .range => 1
  | .noHead => 2
  | .late => 3
  | .tooFar => 4
  | .mismatch => 5
  | .order => 6
  | .full => 7

/-- Result codes (R182). -/
def ResultCode.code : ResultCode → Nat
  | .done => 0
  | .accepted => 1
  | .busy => 2
  | .refusedState => 3
  | .refusedRange => 4
  | .refusedSequence => 5
  | .unknownKind => 6

/-- The id of a counter (R160). -/
def CounterId.id : CounterId → Fin 10
  | .damagedFrames => 0
  | .missingPitches => 1
  | .assignRefused => 2
  | .assignStale => 3
  | .recordsLost => 4
  | .valveFaults => 5
  | .sensorFaults => 6
  | .bursts => 7
  | .unassigned => 8
  | .missingContainers => 9

/-- The alarm of a valve fault (R151). -/
def ValveFault.alarm : ValveFault → AlarmCode
  | .noOpen => .valveNoOpen
  | .stuckOpen => .valveStuckOpen
  | .drift => .valveDrift

/-- Resolution fault codes (R182). -/
def resFaultCode : ResFault → Nat
  | .noRecipe => 1
  | .wrongKind => 2
  | .segmentNotReady => 3
  | .indexRange => 4
  | .chainTooLong => 5
  | .fieldRange => 6
  | .planInvalid => 7
  | .deadlinesInvalid => 8
  | .curveInvalid => 9

/-- Record kinds (R182). -/
def recordKindCode : RecordKind → Nat
  | .fill => 1
  | .notServed => 2
  | .alarm => 3

/-- Valve codes (R182). -/
def valveCode : ValveId → Nat
  | .gas => 0
  | .fast => 1
  | .slow => 2
  | .add => 3
  | .snift => 4

/-- Ring state codes (R182). -/
def ringStateCode : RingState → Nat
  | .bypass => 0
  | .joining => 1
  | .locked => 2
  | .holdover => 3
  | .blind => 4
  | .failed => 5

/-- Head state codes (R182). -/
def headStateCode : HeadState → Nat
  | .off => 0
  | .idle => 1
  | .resolving => 2
  | .running => 3
  | .forcedSnift => 4
  | .stepHold => 5
  | .fault => 6
  | .held => 7

/-- Segment state codes (R182). -/
def segStateCode : SegState → Nat
  | .undefined => 0
  | .empty => 1
  | .loading => 2
  | .checking => 3
  | .valid => 4
  | .bad => 5

/-- Segment kind codes: 0 is reported for UNDEFINED (R182). -/
def segKindCode : Option SegKind → Nat
  | .none => 0
  | .some .recipe => 1
  | .some .curve => 2

/-- The segment kind of a code (R182). -/
def segKindOf (w : Word) : Option SegKind :=
  if w = 1#32 then some .recipe else if w = 2#32 then some .curve else none

/-- Phase kind codes (R182). -/
def phaseKindCode : PhaseKind → Nat
  | .purge => 1
  | .pressurise => 2
  | .additive => 3
  | .fill => 4
  | .rest => 5
  | .snift => 6

/-- The phase kind of a code (R182). -/
def phaseKindOf : Nat → Option PhaseKind
  | 1 => some .purge
  | 2 => some .pressurise
  | 3 => some .additive
  | 4 => some .fill
  | 5 => some .rest
  | 6 => some .snift
  | _ => none

/-- Entry progress codes (R183). -/
def progressCode : Progress → Nat
  | .none => 0
  | .active => 1
  | .settling => 2
  | .holding => 3

/-- Channel state codes (R183). -/
def channelStateCode : ChannelState → Nat
  | .idle => 0
  | .dosing => 1
  | .settling => 2
  | .ended => 3

/-- Trace state codes (R182). -/
def traceStateCode : TraceState → Nat
  | .idle => 0
  | .armed => 1
  | .running => 2
  | .done => 3
  | .stopped => 4

/-- Carousel state codes, 0 for NONE (R182). -/
def carouselCode : Carousel → Nat
  | .none => 0
  | .stopped => 1
  | .jog => 2
  | .running => 3

/-- The carousel state that a header byte shows, if it is one of the three that are defined (R4, R182). -/
def carouselOf (b : Byte) : Option Carousel :=
  if b = 1#8 then some .stopped else if b = 2#8 then some .jog else if b = 3#8 then some .running else none

/-- Feedback level codes and supervision codes of a valve byte (R183). -/
def feedbackCode : Feedback → Nat
  | .none => 0
  | .closed => 1
  | .opened => 2

def supervisionCode : Supervision → Nat
  | .idle => 0
  | .stroking => 1
  | .faulted => 2

/-- Container level codes (R183). -/
def presenceCode : Presence → Nat
  | .none => 0
  | .present => 1
  | .absent => 2

/-- The signal of a code (R183). -/
def signalOf (w : Word) : Option Signal :=
  if w = 0#32 then some .mainRate else if w = 1#32 then some .addRate
  else if w = 2#32 then some .headPressure else if w = 3#32 then some .bowlPressure else none

/-- The trigger of a code (R183). -/
def triggerOf (t : Half) : Option Trigger :=
  if t = 0#16 then some .immediate else if t = 1#16 then some .markedFill else none

/-- A clear option or a link flag: 0 or 1, and any other value is undefined (R181). -/
def optionOf (w : Word) : Option Bool := if w = 0#32 then some false else if w = 1#32 then some true else none

end Sys2Proof.Machine
end

