-- ==== Sys2Proof/Machine/Flags.lean ====
section
/-! DEFINITION. The flag bytes and bits that the node reads and writes: cycle flags and RECORD_LOST_BEFORE (R182),
TRACE_MARK (R181), attention bits (R8, R181), and the damage mark (R181). -/

namespace Sys2Proof.Machine

/-- The flags byte of a FILL record from the cycle flags, RECORD_LOST_BEFORE clear (R182). -/
def cycleFlagsByte (f : CycleFlags) : Byte :=
  BitVec.ofNat 8 (bitOf f.deadline + 2 * bitOf f.timeout + 4 * bitOf f.addErr + 8 * bitOf f.learnSkipped +
    32 * bitOf f.ringLoss + 64 * bitOf f.sniftIncomplete + 128 * bitOf f.stepMode)

/-- RECORD_LOST_BEFORE, flag bit 4 of every record kind (R182). -/
def lostBeforeBit : Byte := 16#8

/-- A record with RECORD_LOST_BEFORE set (R157). -/
def Record.markLost (r : Record) : Record := { r with flags := r.flags ||| lostBeforeBit }

/-- The slot's flags carry TRACE_MARK, bit 0 (R181). -/
def traceMark (flags : Byte) : Bool := flags.getLsbD 0

/-- The attention bit of address `a` (R181). -/
def attentionBit (a : Fin 32) : Word := 1#32 <<< a.val

/-- The attention bits with the bit of `a` set or cleared, the other bits kept (R8). -/
def writeAttention (bits : Word) (a : Fin 32) (on : Bool) : Word :=
  if on then bits ||| attentionBit a else bits &&& ~~~attentionBit a

/-- The damage mark is clear at 0 and set at any other value (R181). -/
def damageMarked (b : Byte) : Bool := b != 0#8

/-- The hop count as forwarded: one greater, and 255 stays 255 (R6). -/
def raisedHop (hop : Byte) : Byte := if hop = 255#8 then 255#8 else hop + 1#8

end Sys2Proof.Machine
end

