-- ==== Sys2Proof/Machine/Ops.lean ====
section
/-! DEFINITION. The named operations over the state that every block shares: time, heads and their valves and channels,
table memory, and the Outbound Record Queue with its counters and totals. -/

namespace Sys2Proof.Machine

/-! ### Time -/

/-- Time comes forward to `t`, and never goes back (log 1). -/
def State.advance (t : Ticks) (s : State) : State := { s with now := max s.now t }

/-- The time on the 1 µs base of the Pitch Timer (R23). -/
def State.nowUs (s : State) : Nat := s.now / Config.ticksPerUs

/-- The time on the wrapping 32-bit base of 0.1 µs (R117). -/
def State.stamp (s : State) : Word := BitVec.ofNat 32 s.now

/-! ### Items of one meter, of one valve, of one head -/

def PerMeter.get {α : Type} (p : PerMeter α) : Meter → α
  | .main => p.main
  | .additive => p.additive

def PerMeter.set {α : Type} (p : PerMeter α) (m : Meter) (x : α) : PerMeter α :=
  match m with
  | .main => { p with main := x }
  | .additive => { p with additive := x }

def PerValve.get {α : Type} (p : PerValve α) : ValveId → α
  | .gas => p.gas
  | .fast => p.fast
  | .slow => p.slow
  | .add => p.add
  | .snift => p.snift

def PerValve.set {α : Type} (p : PerValve α) (v : ValveId) (x : α) : PerValve α :=
  match v with
  | .gas => { p with gas := x }
  | .fast => { p with fast := x }
  | .slow => { p with slow := x }
  | .add => { p with add := x }
  | .snift => { p with snift := x }

/-- The five valves, in code order (R182), and the eight heads. -/
def allValves : List ValveId := [.gas, .fast, .slow, .add, .snift]

def allHeads : List HeadId := [0, 1, 2, 3, 4, 5, 6, 7]

/-- The items of head `h`. -/
def State.head (s : State) (h : HeadId) : Head := s.heads[h]

/-- Change the items of head `h`. -/
def State.modHead (h : HeadId) (f : Head → Head) (s : State) : State :=
  { s with heads := s.heads.set h.val (f s.heads[h]) h.isLt }

/-- The sequencer of head `h`. -/
def State.seq (s : State) (h : HeadId) : Sequencer := (s.head h).seq

/-- Change the sequencer of head `h`. -/
def State.modSeq (h : HeadId) (f : Sequencer → Sequencer) (s : State) : State :=
  s.modHead h fun x => { x with seq := f x.seq }

/-- Set cycle flags of head `h`. -/
def State.modFlags (h : HeadId) (f : CycleFlags → CycleFlags) (s : State) : State :=
  s.modSeq h fun q => { q with flags := f q.flags }

/-- Valve `v` of head `h`. -/
def State.valve (s : State) (h : HeadId) (v : ValveId) : Valve := (s.head h).valves.get v

/-- Change valve `v` of head `h`. -/
def State.modValve (h : HeadId) (v : ValveId) (f : Valve → Valve) (s : State) : State :=
  s.modHead h fun x => { x with valves := x.valves.set v (f (x.valves.get v)) }

/-- The channel of meter `m` of head `h`. -/
def State.chan (s : State) (h : HeadId) (m : Meter) : Channel := (s.head h).chan.get m

/-- Change a channel. -/
def State.modChan (h : HeadId) (m : Meter) (f : Channel → Channel) (s : State) : State :=
  s.modHead h fun x => { x with chan := x.chan.set m (f (x.chan.get m)) }

/-- The smoothed rate that stands at a channel: its own, or in IDLE the one held from the doses before (R132, R167,
log 34). -/
def Channel.standingRate (c : Channel) : Nat := if c.state = .idle then c.heldRate else c.rate

/-- Change the head table record of head `h`. -/
def State.modTable (h : HeadId) (f : HeadRecord → HeadRecord) (s : State) : State :=
  s.modHead h fun x => { x with table := f x.table }

/-- Take every head in turn, 0 to 7. -/
def forHeads (f : HeadId → State → State) (s : State) : State := allHeads.foldl (fun s h => f h s) s

/-- Take every valve of every head in turn. -/
def forValves (f : HeadId → ValveId → State → State) (s : State) : State :=
  forHeads (fun h s => allValves.foldl (fun s v => f h v s) s) s

/-! ### Table memory (R52) -/

namespace Memory

/-- The word with number `a`. An unlisted word reads 0, the power-on content of R52. -/
def read : List TableCell → Nat → Word
  | [], _ => 0#32
  | (b, w) :: rest, a => if a = b then w else read rest a

/-- The list with word `a` holding `w`, unlisted when `w` is 0, so that equal memories are equal lists. -/
def insert (a : Nat) (w : Word) : List TableCell → List TableCell
  | [] => if w = 0#32 then [] else [(a, w)]
  | (b, v) :: rest =>
    if a < b then (if w = 0#32 then (b, v) :: rest else (a, w) :: (b, v) :: rest)
    else if a = b then (if w = 0#32 then rest else (a, w) :: rest)
    else (b, v) :: insert a w rest

/-- Write word `a`. There is no word beyond the last of R52, and a write there changes nothing (log 22). -/
def write (m : List TableCell) (a : Nat) (w : Word) : List TableCell :=
  if a < Config.tableWords then insert a w m else m

/-- Write words in order from word `a` onward (R60). -/
def writeWords (m : List TableCell) (a : Nat) : List Word → List TableCell
  | [] => m
  | w :: rest => writeWords (write m a w) (a + 1) rest

/-- The `n` words from word `a` onward (R64). -/
def readWords (m : List TableCell) (a n : Nat) : List Word := (List.range n).map fun i => read m (a + i)

/-- The canonical form, with every listed number at least `lo`: numbers rising, below the last word, no entry 0. -/
def wfFrom (lo : Nat) : List TableCell → Bool
  | [] => true
  | (a, w) :: rest => decide (lo ≤ a) && decide (a < Config.tableWords) && decide (w ≠ 0#32) && wfFrom (a + 1) rest

/-- The canonical form of table memory. -/
def wf (m : List TableCell) : Bool := wfFrom 0 m

end Memory

/-! ### The Outbound Record Queue (R154 to R157) and the counters (R160, R161) -/

/-- The records plus the reservation count number fewer than 48 (R155, R157). -/
def orqRoom (s : State) : Bool := decide (s.orq.records.length + s.orq.reservations < Config.orqPlaces)

/-- A record enters at the newest end. With the lost flag set it takes RECORD_LOST_BEFORE, and the flag becomes clear
(R157). -/
def appendRecord (r : Record) (s : State) : State :=
  { s with orq := { s.orq with records := s.orq.records ++ [if s.orq.lost then r.markLost else r], lost := false } }

/-- Set one counter. -/
def setCounter (c : CounterId) (v : Half) (s : State) : State :=
  { s with counters := s.counters.set c.id.val v c.id.isLt }

/-- The value of one counter. -/
def State.counter (s : State) (c : CounterId) : Half := s.counters[c.id]

/-- The last processed serial of the sequence, 0 when no sequence is present: the serial of an ALARM record (R159). -/
def alarmSerial (s : State) : Half :=
  match s.pitch.sequence with
  | some q => q.serial
  | none => 0#16

/-- An ALARM record raised in state `s` (R159). -/
def alarmRecord (code : AlarmCode) (head : Byte) (a b : Nat) (s : State) : Record :=
  { kind := .alarm, head := head, serial := alarmSerial s, recipe := 255#8, code := BitVec.ofNat 8 code.code, flags := 0#8,
    valueA := BitVec.ofNat 32 a, valueB := BitVec.ofNat 24 b }

/-- A record is lost: RECORDS_LOST is counted and the lost flag is set (R157). When RECORDS_LOST wraps, its COUNTER_WRAP
alarm enters if there is room, and is counted as lost otherwise, which leaves RECORDS_LOST at 1 (R161). -/
def loseRecord (s : State) : State :=
  let s :=
    if s.counter .recordsLost = 65535#16 then
      let z := setCounter .recordsLost 0#16 s
      if orqRoom z then appendRecord (alarmRecord .counterWrap nodeByte CounterId.recordsLost.id 0 z) z
      else setCounter .recordsLost 1#16 z
    else setCounter .recordsLost (s.counter .recordsLost + 1#16) s
  { s with orq := { s.orq with lost := true } }

/-- An unreserved record enters when there is room, and is lost otherwise (R157). -/
def enterUnreserved (r : Record) (s : State) : State := if orqRoom s then appendRecord r s else loseRecord s

/-- Raise an ALARM, an unreserved record (R157, R159). -/
def raiseAlarm (code : AlarmCode) (head : Byte) (a b : Nat) (s : State) : State :=
  enterUnreserved (alarmRecord code head a b s) s

/-- Count an event. At 65,535 the counter becomes 0 and ALARM COUNTER_WRAP is raised (R160, R161). RECORDS_LOST is
counted by `loseRecord` alone. -/
def countEvent (c : CounterId) (s : State) : State :=
  if s.counter c = 65535#16 then raiseAlarm .counterWrap nodeByte c.id 0 (setCounter c 0#16 s)
  else setCounter c (s.counter c + 1#16) s

/-- A head asks for its reservation (R155): granted when it holds none and there is room. -/
def canReserve (h : HeadId) (s : State) : Bool := !(s.seq h).reserved && orqRoom s

/-- Grant a reservation to head `h` (R155). -/
def takeReservation (h : HeadId) (s : State) : State :=
  { s with orq := { s.orq with reservations := s.orq.reservations + 1 } }.modSeq h fun q => { q with reserved := true }

/-- A head places its record into its reservation (R156). With no reservation counted, which no run reaches, the record
is taken as an unreserved one (log 30). -/
def placeRecord (h : HeadId) (r : Record) (s : State) : State :=
  let freed := s.modSeq h fun q => { q with reserved := false }
  if s.orq.reservations = 0 then enterUnreserved r freed
  else appendRecord r { freed with orq := { freed.orq with reservations := freed.orq.reservations - 1 } }

/-! ### Totals (R163) -/

/-- Change the totals row of a recipe number; a number above 127 has no row. -/
def modTotals (recipe : Nat) (f : TotalsRow → TotalsRow) (s : State) : State :=
  if h : recipe < 128 then { s with totals := s.totals.set recipe (f s.totals[recipe]) h } else s

/-- One more ABORTED-or-NOT_SERVED of a recipe (R163). -/
def countUnserved (recipe : Nat) (s : State) : State :=
  modTotals recipe (fun t => { t with unservedCount := satAdd Config.maxVolume t.unservedCount 1 }) s

/-- A FILL record of a recipe: its outcome is counted and its volume in µL added (R163). -/
def countFill (recipe : Nat) (outcome : FillOutcome) (volume : Nat) (s : State) : State :=
  modTotals recipe
    (fun t =>
      let t := { t with volumeSum := satAdd Config.maxSum t.volumeSum volume }
      match outcome with
      | .good => { t with goodCount := satAdd Config.maxVolume t.goodCount 1 }
      | .underfilled => { t with underCount := satAdd Config.maxVolume t.underCount 1 }
      | .overfilled => { t with overCount := satAdd Config.maxVolume t.overCount 1 }
      | .aborted => { t with unservedCount := satAdd Config.maxVolume t.unservedCount 1 })
    s

/-! ### NOT_SERVED records (R47, R91, R159) -/

/-- A NOT_SERVED record (R159). A recipe number of 255 stands for none. -/
def notServedRecord (head : Byte) (serial : Half) (recipe : Nat) (reason : NotServedReason) (a b : Nat) : Record :=
  { kind := .notServed, head := head, serial := serial, recipe := BitVec.ofNat 8 recipe, code := BitVec.ofNat 8 reason.code,
    flags := 0#8, valueA := BitVec.ofNat 32 a, valueB := BitVec.ofNat 24 b }

/-- The totals that a NOT_SERVED record updates: none for UNASSIGNED_CONTAINER (R163). -/
def countNotServed (recipe : Nat) (reason : NotServedReason) (s : State) : State :=
  if reason = .unassignedContainer then s else countUnserved recipe s

end Sys2Proof.Machine
end

