-- ==== Sys2Proof/Machine/Metering.lean ====
section
/-! DEFINITION. The Metering Unit: dose start (R116), the four steps of a pulse (R117 to R120), the cutoff test (R122),
the cut (R124), the settle's end and learning (R125 to R128), the freeze (R126) and the record values (R130, R131). -/

namespace Sys2Proof.Machine

/-! ### The arithmetic of a pulse -/

/-- The interval between two timestamps of the wrapping time base (R117). -/
def interval (prev t : Word) : Nat := (t - prev).toNat

/-- The rate q from an interval, for pulse weight `w` (R117). -/
def rateOf (w interval : Nat) : Nat :=
  if interval = 0 then Config.maxRate
  else if interval ≤ Config.maxInterval then min (100 * w / interval) Config.maxRate
  else 0

/-- The smoothing of a later pulse: q_s + floor((q − q_s) / 2^k) (R118). -/
def smoothed (k qs q : Nat) : Nat := ((qs : Int) + ((q : Int) - (qs : Int)) / (2 ^ k : Int)).toNat

/-- The correction that a curve gives at rate `q`, in ppm (R119). -/
def curveAt (q : Nat) : List CurvePoint → Int
  | [] => 0
  | [p] => p.corr
  | p :: r :: rest =>
    if q ≤ p.rate then p.corr
    else if q < r.rate then
      p.corr + ((r.corr - p.corr) * ((q : Int) - (p.rate : Int))).tdiv ((r.rate : Int) - (p.rate : Int))
    else curveAt q (r :: rest)

/-- The total correction C, clamped (R119). -/
def totalCorrection (c f : Int) : Int := clampInt (-Config.maxCorrection) Config.maxCorrection (c + f)

/-- The volume step: the new V and remainder after a pulse of weight `w` at correction `c` (R120). -/
def volumeStep (w : Nat) (c : Int) (v rem : Nat) : Nat × Nat :=
  let n := ((w : Int) * (1000000 + c) + (rem : Int)).toNat
  if v + n / 1000000 ≤ Config.maxVolume ∧ v < Config.maxVolume then (v + n / 1000000, n % 1000000)
  else (Config.maxVolume, rem)

/-! ### What a channel reads while a dose runs (R116) -/

/-- The curve of a meter in the cycle record. -/
def meterCurve (h : HeadId) (m : Meter) (s : State) : List CurvePoint :=
  match (s.head h).cycle with
  | none => []
  | some c =>
    match m with
    | .main => c.mainCurve
    | .additive => c.addCurve.getD []

/-- The meter factor F: the merged product meter factor for the main channel, 0 for the additive channel. -/
def meterFactor (h : HeadId) (m : Meter) (s : State) : Int :=
  match m, (s.head h).cycle with
  | .main, some c => c.recipe.factor
  | _, _ => 0

/-- A number of the merged recipe in the head's cycle record, 0 while the record is empty. -/
def cycleField (h : HeadId) (f : Recipe → Nat) (s : State) : Nat :=
  match (s.head h).cycle with
  | some c => f c.recipe
  | none => 0

/-- The target of a channel's dose (R116). -/
def doseTarget (h : HeadId) (m : Meter) (s : State) : Nat :=
  match (s.head h).cycle, m with
  | some c, .main => c.recipe.vMain
  | some c, .additive => c.vAdd
  | none, _ => 0

/-! ### A pulse -/

/-- The four steps of a pulse taken in DOSING or SETTLING (R117 to R120), on the channel's items. -/
def Channel.pulse (t : Word) (w k : Nat) (curve : List CurvePoint) (factor : Int) (c : Channel) : Channel :=
  let rate :=
    match c.prevStamp with
    | none => c.rate
    | some p =>
      let q := rateOf w (interval p t)
      if c.pulses ≤ 1 then q else smoothed k c.rate q
  let step := volumeStep w (totalCorrection (curveAt rate curve) factor) c.volume c.rem
  { c with
    pulses := satAdd Config.maxVolume c.pulses 1
    prevStamp := some t
    rate := rate
    volume := step.1
    rem := step.2 }

/-- The four steps of a pulse at channel `m` of head `h`, now (R121). -/
def pulseSteps (h : HeadId) (m : Meter) (s : State) : State :=
  s.modChan h m (Channel.pulse s.stamp ((s.head h).table.weight.get m) (cycleField h Recipe.smoothing s)
    (meterCurve h m s) (meterFactor h m s))

/-- A stray pulse (R121). -/
def strayPulse (h : HeadId) (s : State) : State := s.modHead h fun x => { x with stray := satAdd 65535 x.stray 1 }

/-! ### Dose start, cutoff and cut -/

/-- The cutoff test: V plus the learned afterflow is at or above the target (R122). -/
def cutoffHolds (h : HeadId) (m : Meter) (s : State) : Bool :=
  decide ((s.chan h m).target ≤ (s.chan h m).volume + (s.head h).table.learned.get m)

/-- The channel closes and settles from now on, with the kind of its close (R122, R124). -/
def Channel.close (k : CloseKind) (t : Ticks) (c : Channel) : Channel :=
  { c with state := .settling, closeKind := k, closeVolume := some c.volume, settleStart := some t, lastPulse := none }

/-- The cutoff test, and its effect when it holds (R122). -/
def cutoffTest (h : HeadId) (m : Meter) (s : State) : State :=
  if cutoffHolds h m s then s.modChan h m (Channel.close .cutoff s.now) else s

/-- Dose start: target, cleared dose items, DOSING, then the cutoff test with V = 0 (R116). -/
def doseStart (h : HeadId) (m : Meter) (s : State) : State :=
  cutoffTest h m
    (s.modChan h m fun c =>
      { c with
        state := .dosing
        target := doseTarget h m s
        volume := 0
        rem := 0
        pulses := 0
        rate := 0
        heldRate := 0
        prevStamp := none
        closeKind := .none
        endKind := .none
        learn := .none })

/-- A cut: a channel in DOSING closes for a cause other than the cutoff; in any other state nothing changes (R124). -/
def cutChannel (h : HeadId) (m : Meter) (s : State) : State :=
  if (s.chan h m).state = .dosing then s.modChan h m (Channel.close .cut s.now) else s

/-- A cut of whichever dose of the head is before its cutoff. -/
def cutBoth (h : HeadId) (s : State) : State := cutChannel h .additive (cutChannel h .main s)

/-! ### Freeze and settle end -/

/-- A freeze on the channel's items: nothing in IDLE or ENDED (R126). -/
def Channel.freeze (c : Channel) : Channel :=
  match c.state with
  | .dosing => { c with state := .ended, final := c.volume, endKind := .frozen, learn := .skipped }
  | .settling => { c with state := .ended, final := c.volume, endKind := .frozen, learn := .skipped }
  | .idle => c
  | .ended => c

/-- Both channels of a head freeze (R126). -/
def freezeBoth (h : HeadId) (s : State) : State :=
  (s.modChan h .main Channel.freeze).modChan h .additive Channel.freeze

/-- A channel as a cycle starts: every item of R114 at its reset value (R115). The rate that stood is held for Trace Capture
until the next dose start (R132, R167, log 34). -/
def Channel.idle (c : Channel) : Channel := { Channel.reset with heldRate := c.standingRate }

/-- Both channels of a head return to IDLE, as a cycle starts (R115). -/
def resetChannels (h : HeadId) (s : State) : State :=
  s.modHead h fun x => { x with chan := ⟨x.chan.main.idle, x.chan.additive.idle⟩ }

/-- The learned afterflow after a measured one: a step of 1/2^g of the difference, truncated toward zero and clamped to
the maximum (R127). -/
def learnedAfter (a actual g maxA : Nat) : Nat :=
  (clampInt 0 maxA ((a : Int) + ((actual : Int) - (a : Int)).tdiv (2 ^ g : Int))).toNat

/-- The measured afterflow of a channel whose settle has ended: V_final less V_close (R127). -/
def Channel.afterflow (c : Channel) : Nat := c.final - c.closeVolume.getD 0

/-- The number of a meter in an alarm's value B (R128). -/
def meterCode : Meter → Nat
  | .main => 0
  | .additive => 1

/-- The learning of a channel at its settle end (R127, R128). -/
def judgeLearning (h : HeadId) (m : Meter) (s : State) : State :=
  let c := s.chan h m
  let maxA := (s.head h).table.afterflowMax.get m
  if c.closeKind = .cutoff ∧ c.endKind = .window then
    if 4 * maxA < c.afterflow then
      raiseAlarm .afterflowImplausible (headByte h) c.afterflow (meterCode m)
        (s.modChan h m fun c => { c with learn := .skipped })
    else
      (s.modTable h fun t =>
          { t with
            learned := t.learned.set m (learnedAfter (t.learned.get m) c.afterflow (cycleField h Recipe.gain s) maxA) })
        |>.modChan h m fun c => { c with learn := .learned }
  else s.modChan h m fun c => { c with learn := .skipped }

/-- The settle of a channel ends by its window or its limit, and its learning is judged (R125). -/
def settleEnd (h : HeadId) (m : Meter) (k : EndKind) (s : State) : State :=
  judgeLearning h m (s.modChan h m fun c => { c with state := .ended, final := c.volume, endKind := k })

/-- When the settle window expires: its length after the later of settle start and last pulse (R125). -/
def windowDue (h : HeadId) (m : Meter) (s : State) : Ticks :=
  max ((s.chan h m).settleStart.getD 0) ((s.chan h m).lastPulse.getD 0) + msTicks (cycleField h Recipe.settleWindow s)

/-- When the settle limit expires: its length after the settle start (R125). -/
def limitDue (h : HeadId) (m : Meter) (s : State) : Ticks :=
  (s.chan h m).settleStart.getD 0 + msTicks (cycleField h Recipe.settleLimit s)

/-! ### What the cycle end takes from the channels -/

/-- The additive error lies beyond the tolerance, judged when the cycle record carries an additive (R107). -/
def addErrHolds (c : CycleRecord) (finalVolume : Nat) : Bool :=
  c.addCurve.isSome && decide (c.recipe.addTol < ((finalVolume : Int) - (c.vAdd : Int)).natAbs)

/-- The main error e in nL (R130). -/
def mainError (c : CycleRecord) (finalVolume : Nat) : Int := (finalVolume : Int) - (c.recipe.vMain : Int)

/-- The outcome of a FILL record from the main channel; `stuck` says that a product valve stuck open (R130). -/
def fillOutcome (stuck : Bool) (c : CycleRecord) (m : Channel) : FillOutcome :=
  if stuck then .aborted
  else if m.state = .idle then .aborted
  else if m.endKind = .frozen ∧ m.closeKind = .none then .aborted
  else if mainError c m.final < -(c.recipe.tolUnder : Int) then .underfilled
  else if (c.recipe.tolOver : Int) < mainError c m.final then .overfilled
  else .good

/-- Value B of a FILL record: the error in µL, truncated toward zero and clamped (R131). -/
def fillError (c : CycleRecord) (m : Channel) : BitVec 24 :=
  BitVec.ofInt 24 (clampInt (-8388607) 8388607 ((mainError c m.final).tdiv 1000))

/-- The volume that HEAD STATUS reports of a channel (R132). -/
def currentVolume (c : Channel) : Nat :=
  match c.state with
  | .idle => 0
  | .dosing => c.volume
  | .settling => c.volume
  | .ended => c.final

end Sys2Proof.Machine
end

