-- ==== Sys2Proof/Machine/TraceCapture.lean ====
section
/-! DEFINITION. Trace Capture: sample ticks (R167), completion and the linked start (R168), marked fills (R169). -/

namespace Sys2Proof.Machine

/-- A descriptor starts with both counts at 0 (R166, R168, R169). -/
def Descriptor.start (d : Descriptor) : Descriptor := { d with state := .running, ticks := 0, samples := 0 }

/-- The conversions that a descriptor takes: those of its head's channel, or of the bowl for BOWL_PRESSURE (R167). -/
def Descriptor.takes (d : Descriptor) (c : ScanId) : Bool :=
  decide (d.state = .running) &&
    (match d.signal with
      | .bowlPressure => decide (c = .bowl)
      | .mainRate => decide (c = .head d.head)
      | .addRate => decide (c = .head d.head)
      | .headPressure => decide (c = .head d.head))

/-- The value of a descriptor's signal at a tick; an absent pressure is 0, and a rate is the one that stands (R167). -/
def sampleOf (d : Descriptor) (s : State) : Half :=
  match d.signal with
  | .mainRate => BitVec.ofNat 16 (s.chan d.head .main).standingRate
  | .addRate => BitVec.ofNat 16 (s.chan d.head .additive).standingRate
  | .headPressure => BitVec.ofNat 16 ((s.head d.head).scan.value.getD 0)
  | .bowlPressure => BitVec.ofNat 16 (s.scanner.bowl.value.getD 0)

/-- A buffer with one sample stored; there is no place beyond the last. -/
def storeSample (b : Vector Half 512) (i : Nat) (x : Half) : Vector Half 512 := if h : i < 512 then b.set i x h else b

/-- One tick of a descriptor: every divider-th tick stores a sample, and the length ends the run (R167, R168). -/
def Descriptor.tick (x : Half) (d : Descriptor) : Descriptor :=
  if d.divider ≤ d.ticks + 1 then
    { d with
      ticks := 0
      buffer := storeSample d.buffer d.samples x
      samples := d.samples + 1
      state := if d.length ≤ d.samples + 1 then .done else .running }
  else { d with ticks := d.ticks + 1 }

/-- A completed conversion ticks the descriptors that take it, as they stand at the tick. A linked B that waits starts
when A completes, and counts from the next tick (R167, R168). -/
def traceTick (c : ScanId) (s : State) : State :=
  let a := s.trace.a
  let b := s.trace.b
  let a' := if a.takes c then a.tick (sampleOf a s) else a
  let b' := if b.takes c then b.tick (sampleOf b s) else b
  let completed := a.takes c && decide (a'.state = .done)
  let b'' := if completed && decide (b'.state = .armed) && b'.link then b'.start else b'
  { s with trace := ⟨a', b''⟩ }

/-- A descriptor that a marked fill at head `h` may start (R169). -/
def Descriptor.awaits (h : HeadId) (d : Descriptor) : Bool :=
  decide (d.state = .armed) && decide (d.trigger = .markedFill) && decide (d.head = h) && !d.link

/-- A marked fill has begun at head `h`: A is taken before B, and neither starts while the other is RUNNING (R169). -/
def markedFill (h : HeadId) (s : State) : State :=
  let a := if s.trace.a.awaits h && decide (s.trace.b.state ≠ .running) then s.trace.a.start else s.trace.a
  let b := if s.trace.b.awaits h && decide (a.state ≠ .running) then s.trace.b.start else s.trace.b
  { s with trace := ⟨a, b⟩ }

end Sys2Proof.Machine
end

