-- ==== Sys2Proof/Machine/Valves.lean ====
section
/-! DEFINITION. Valve Drives: requests and commanded outputs (R145), the product interlock (R146), stroke supervision
(R148) and the alarm and count of a valve fault (R151). What the head sequencer does on a fault stands in Cycle.lean. -/

namespace Sys2Proof.Machine

/-- The feedback level agrees with an output (R148). -/
def agrees (f : Feedback) (opened : Bool) : Bool :=
  match f with
  | .none => false
  | .opened => opened
  | .closed => !opened

/-- A valve whose commanded output changes to `o` at time `t`, with stroke time `ms` (R148). -/
def Valve.change (o : Bool) (t : Ticks) (ms : Nat) (v : Valve) : Valve :=
  if agrees v.feedback o then { v with output := o, supervision := .idle, expiry := none }
  else { v with output := o, supervision := .stroking, expiry := some (t + msTicks ms) }

/-- Command an output; only a change of it is supervised (R148). -/
def setOutput (h : HeadId) (v : ValveId) (o : Bool) (s : State) : State :=
  if (s.valve h v).output = o then s
  else s.modValve h v (Valve.change o s.now ((s.head h).table.strokes.get v))

/-- The interlock closes one product output that is commanded OPEN, with its alarm (R146). -/
def interlockCloseOne (h : HeadId) (b : Nat) (v : ValveId) (s : State) : State :=
  if (s.valve h v).output then raiseAlarm .interlock (headByte h) (valveCode v) b (setOutput h v false s) else s

/-- The interlock closes every product output that is commanded OPEN (R146), in the order FAST, SLOW, ADD (log 35). -/
def interlockClose (h : HeadId) (b : Nat) (s : State) : State :=
  interlockCloseOne h b .add (interlockCloseOne h b .slow (interlockCloseOne h b .fast s))

/-- The equalised flag becomes clear, or stays clear (R146). -/
def clearEqualised (h : HeadId) (s : State) : State :=
  if (s.seq h).equalised then interlockClose h 0 (s.modSeq h fun q => { q with equalised := false }) else s

/-- An opening of a product valve, carried out only under the interlock, and suppressed with an alarm otherwise (R146).
Value B is 0 when the flag is clear, and 1 when it is set and SNIFT is commanded open. -/
def openProduct (h : HeadId) (v : ValveId) (s : State) : State :=
  if !(s.seq h).equalised then raiseAlarm .interlock (headByte h) (valveCode v) 0 s
  else if (s.valve h .snift).output then raiseAlarm .interlock (headByte h) (valveCode v) 1 s
  else setOutput h v true s

/-- The sequencer requests a valve open (R145, R146). A request equal to the one standing changes nothing. -/
def requestOpen (h : HeadId) (v : ValveId) (s : State) : State :=
  if (s.valve h v).request then s
  else
    let s := s.modValve h v fun x => { x with request := true }
    match v with
    | .gas => setOutput h .gas true s
    | .snift => setOutput h .snift true (interlockClose h 1 s)
    | .fast => openProduct h .fast s
    | .slow => openProduct h .slow s
    | .add => openProduct h .add s

/-- The sequencer requests a valve closed, which is carried out at once (R145). -/
def requestClose (h : HeadId) (v : ValveId) (s : State) : State :=
  setOutput h v false (s.modValve h v fun x => { x with request := false })

/-- FAST, SLOW and ADD are requested closed. -/
def closeProducts (h : HeadId) (s : State) : State :=
  requestClose h .add (requestClose h .slow (requestClose h .fast s))

/-- All five valves are requested closed. -/
def closeAll (h : HeadId) (s : State) : State :=
  requestClose h .snift (closeProducts h (requestClose h .gas s))

/-- The alarm and the count of a valve fault, made before the sequencer hears of it (R151). -/
def announceFault (h : HeadId) (v : ValveId) (k : ValveFault) (s : State) : State :=
  let b :=
    match k with
    | .drift => bitOf ((s.valve h v).feedback == .opened)
    | .noOpen => (s.head h).table.strokes.get v
    | .stuckOpen => (s.head h).table.strokes.get v
  countEvent .valveFaults (raiseAlarm k.alarm (headByte h) (valveCode v) b s)

/-- The feedback level that an input level stands for (R147). -/
def feedbackOf (active : Bool) : Feedback := if active then .opened else .closed

/-- A candidate has become the feedback level; stroke supervision takes the change (R149). A disagreement from IDLE
is a drift, which is left in the second part for the report of R151. -/
def Valve.takeLevel (v : Valve) : Valve × Bool :=
  let f := feedbackOf v.candidate.level
  let n := { v with feedback := f }
  if v.feedback = f then (v, false)
  else if agrees f v.output then ({ n with supervision := .idle, expiry := none }, false)
  else if v.supervision = .idle then ({ n with supervision := .faulted }, true)
  else (n, false)

end Sys2Proof.Machine
end

