-- ==== Sys2Proof/Machine/Cycle.lean ====
section
/-! DEFINITION. The head sequencers: how a phase entry begins, succeeds and fails (R93 to R100), forced snift (R101),
burst (R102), deadlines (R103 to R105), valve faults (R106), the cycle end (R107), ring loss (R108) and step mode
(R110, R111). -/

namespace Sys2Proof.Machine

/-! ### Reading the cycle -/

/-- The plan of the head's cycle record. -/
def headPlan (h : HeadId) (s : State) : List PhaseEntry :=
  match (s.head h).cycle with
  | some c => c.plan
  | none => []

/-- The phase entry at the plan index, which counts from 1 (R89). -/
def currentEntry (h : HeadId) (s : State) : Option PhaseEntry :=
  if (s.seq h).planIndex = 0 then none else (headPlan h s)[(s.seq h).planIndex - 1]?

/-- The entry at the plan index is the last of the plan. -/
def atLastEntry (h : HeadId) (s : State) : Bool := decide ((headPlan h s).length ≤ (s.seq h).planIndex)

/-- The cycle is active: RUNNING, FORCED_SNIFT or STEP_HOLD (R89). -/
def HeadState.active : HeadState → Bool
  | .running => true
  | .forcedSnift => true
  | .stepHold => true
  | _ => false

/-- The ring state is LOCKED or HOLDOVER. -/
def ringServes (s : State) : Bool := s.ring.state == .locked || s.ring.state == .holdover

/-- The state that a head takes when it is free: IDLE in LOCKED and HOLDOVER, HELD otherwise (R92, R107, R112, R113). -/
def freeState (s : State) : HeadState := if ringServes s then .idle else .held

/-- The deadlines of the head's cycle record. -/
def headDeadlines (h : HeadId) (s : State) : Deadlines :=
  match (s.head h).cycle with
  | some c => c.recipe.deadlines
  | none => ⟨0, 0, 0⟩

/-- The elapsed pitch count is known and at or past `d`. -/
def reached (h : HeadId) (d : Nat) (s : State) : Bool :=
  match (s.seq h).elapsed with
  | some e => decide (d ≤ e)
  | none => false

/-! ### The cycle end (R107) -/

/-- The four ways in which a cycle ends (R107). -/
inductive CycleEnd where
  | sniftDone
  | sniftFailed
  | released
  | stuckOpen
  deriving DecidableEq, Repr

/-- Steps 3 and 4 of R107: ADD_ERR and LEARN_SKIPPED. -/
def judgeFlags (h : HeadId) (s : State) : State :=
  let addErr :=
    match (s.head h).cycle with
    | some c => addErrHolds c (s.chan h .additive).final
    | none => false
  let skipped := (s.chan h .main).learn == .skipped || (s.chan h .additive).learn == .skipped
  s.modFlags h fun f => { f with addErr := f.addErr || addErr, learnSkipped := f.learnSkipped || skipped }

/-- Step 5 of R107, when the last SNIFT entry has failed. Value A is the head pressure as it stands, 0 while absent
(log 23). -/
def sniftIncomplete (h : HeadId) (s : State) : State :=
  let s := s.modFlags h fun f => { f with sniftIncomplete := true }
  (raiseAlarm .sniftIncomplete (headByte h) ((s.head h).scan.value.getD 0) 0 s).modSeq h fun q => { q with faultPending := true }

/-- The FILL record of a cycle that ends (R107, R131, R159). -/
def fillRecord (stuck : Bool) (h : HeadId) (c : CycleRecord) (s : State) : Record :=
  let q := s.seq h
  let m := s.chan h .main
  { kind := .fill
    head := headByte h
    serial := match q.entry with | some e => e.serial | none => 0#16
    recipe := match q.entry with | some e => BitVec.ofNat 8 e.recipe | none => 255#8
    code := BitVec.ofNat 8 (fillOutcome stuck c m).code
    flags := cycleFlagsByte q.flags
    valueA := BitVec.ofNat 32 (m.final / 1000)
    valueB := fillError c m }

/-- The recipe number of the infeed entry, 255 when there is none. -/
def entryRecipe (h : HeadId) (s : State) : Nat :=
  match (s.seq h).entry with
  | some e => e.recipe
  | none => 255

/-- Step 6 of R107: the FILL record, the totals and the last additive volume. -/
def recordFill (stuck : Bool) (h : HeadId) (s : State) : State :=
  match (s.head h).cycle with
  | none => s
  | some c =>
    let m := s.chan h .main
    let a := s.chan h .additive
    let s := countFill (entryRecipe h s) (fillOutcome stuck c m) (m.final / 1000) (placeRecord h (fillRecord stuck h c s) s)
    s.modHead h fun x => { x with lastAdditive := a.final }

/-- Step 7 of R107, and the clearing of the cycle items. -/
def clearCycleItems (h : HeadId) (s : State) : State :=
  clearEqualised h
    (s.modSeq h fun q => { q with entry := none, planIndex := 0, progress := .none, timer := none, sniftBegun := false })

/-- The head enters FAULT, which clears step mode (R110). -/
def enterFault (h : HeadId) (s : State) : State := s.modSeq h fun q => { q with state := .fault, stepMode := false }

/-- The end of a cycle, in the order of R107. -/
def endCycle (how : CycleEnd) (h : HeadId) (s : State) : State :=
  let s := requestClose h .snift s
  let s := freezeBoth h (s.modSeq h fun q => { q with timer := none })
  let s := judgeFlags h s
  let s := if how = .sniftFailed then sniftIncomplete h s else s
  let s := recordFill (how == .stuckOpen) h s
  let s := clearCycleItems h s
  if (s.seq h).faultPending ∨ how = .released ∨ how = .stuckOpen then enterFault h s
  else s.modSeq h fun q => { q with state := freeState s }

/-! ### How an entry begins (R93 to R99) -/

/-- Steps 1 and 2 of R93: the next plan index, progress ACTIVE, the entry timer, and debounce counts of 0 (R141). -/
def enterEntry (h : HeadId) (e : PhaseEntry) (s : State) : State :=
  s.modSeq h fun q =>
    { q with
      planIndex := q.planIndex + 1
      progress := .active
      timer := some (s.now + msTicks e.timeLimit)
      condCount := 0
      burstCount := 0 }

/-- What a phase entry does at its beginning: it waits, or is over at once, or fails at once. -/
inductive Begun where
  | waits
  | ended
  | failed
  deriving DecidableEq, Repr

/-- The valves of a dose close at its cutoff; the timer stops and the entry settles (R96, R97). -/
def cutoffReached (h : HeadId) (m : Meter) (s : State) : State :=
  let s :=
    match m with
    | .additive => requestClose h .add s
    | .main => requestClose h .slow (requestClose h .fast s)
  s.modSeq h fun q => { q with progress := .settling, timer := none }

/-- FAST is commanded open exactly while V is at least the start band and below V_main less the slow band (R97, R123). -/
def fastBand (h : HeadId) (s : State) : State :=
  let v := (s.chan h .main).volume
  if cycleField h Recipe.startBand s ≤ v ∧ v < cycleField h Recipe.vMain s - cycleField h Recipe.slowBand s then
    requestOpen h .fast s
  else requestClose h .fast s

/-- The first SNIFT entry of a cycle closes GAS, clears the equalised flag and sets snift begun (R99). -/
def beginSnift (h : HeadId) (s : State) : State :=
  if (s.seq h).sniftBegun then s
  else (clearEqualised h (requestClose h .gas s)).modSeq h fun q => { q with sniftBegun := true }

/-- The infeed entry of the head carries the trace mark (R97). -/
def entryMarked (h : HeadId) (s : State) : Bool :=
  match (s.seq h).entry with
  | some e => e.trace
  | none => false

/-- Step 3 of R93: what an entry of each kind commands at its beginning (R94 to R99, R103). A FILL entry whose start band is 0
requests SLOW ahead of FAST (log 35). -/
def startEntry (h : HeadId) (e : PhaseEntry) (s : State) : Begun × State :=
  match e.kind with
  | .purge => (.waits, clearEqualised h (requestOpen h .snift (requestOpen h .gas s)))
  | .pressurise =>
    let s := requestOpen h .gas s
    if (s.head h).scan.fault || s.scanner.bowl.fault then (.failed, s) else (.waits, s)
  | .additive =>
    if reached h (headDeadlines h s).dFill s then (.ended, s)
    else
      let s := doseStart h .additive s
      if (s.chan h .additive).state = .dosing then (.waits, requestOpen h .add s) else (.waits, cutoffReached h .additive s)
  | .fill =>
    let s := if entryMarked h s then markedFill h s else s
    let s := doseStart h .main s
    if (s.chan h .main).state = .dosing then (.waits, fastBand h (requestOpen h .slow s))
    else (.waits, cutoffReached h .main s)
  | .rest => (.waits, closeProducts h (requestOpen h .gas s))
  | .snift => (.waits, requestOpen h .snift (beginSnift h s))

/-! ### Forced snift (R101) -/

/-- How many entries of the plan stand ahead of the SNIFT entry that a forced snift begins: the first of the plan, or, in a
cycle that holds between two SNIFT entries, the next one, so that none is run again (R101, log 15). -/
def sniftIndex (h : HeadId) (s : State) : Nat :=
  let i := if (s.seq h).sniftBegun then (s.seq h).planIndex else 0
  i + ((headPlan h s).drop i).findIdx fun e => e.kind == .snift

/-- Entry to FORCED_SNIFT, in the order of R101: product valves closed, equalised flag clear, GAS closed, and the first
SNIFT entry of the plan begins, or the next one where a snift has begun. -/
def forceSnift (h : HeadId) (s : State) : State :=
  let i := sniftIndex h s
  let s := s.modSeq h fun q => { q with state := .forcedSnift, progress := .none, timer := none }
  let s := requestClose h .gas (clearEqualised h (closeProducts h s))
  match (headPlan h s).drop i with
  | e :: _ => (startEntry h e (enterEntry h e (s.modSeq h fun q => { q with planIndex := i }))).2
  | [] => s

/-- The cycle runs a SNIFT entry of its plan, or its hold (R101). -/
def sniftUnderWay (h : HeadId) (s : State) : Bool := (s.seq h).state == .running && (s.seq h).sniftBegun

/-- A cause of a forced snift takes the head to FORCED_SNIFT. A SNIFT entry under way goes on where it stands (R101, R106,
R108, log 15). -/
def takeToSnift (h : HeadId) (s : State) : State :=
  if sniftUnderWay h s then s.modSeq h fun q => { q with state := .forcedSnift } else forceSnift h s

/-- An abort: the channels freeze and the snift is forced. In FORCED_SNIFT the snift goes on (R101, R126, log 15). -/
def abortCycle (h : HeadId) (s : State) : State :=
  if (s.seq h).state = .forcedSnift then s else takeToSnift h (freezeBoth h s)

/-- D_fill, D_snift or ring loss: a dose before its cutoff is cut and the snift is forced. In FORCED_SNIFT the snift goes
on (R101, R124, log 15). -/
def cutToSnift (h : HeadId) (s : State) : State :=
  if (s.seq h).state = .forcedSnift then s else takeToSnift h (cutBoth h s)

/-! ### Going on with the plan -/

/-- In step mode a RUNNING cycle holds before its next entry (R111). -/
def holdsHere (h : HeadId) (s : State) : Bool := (s.seq h).stepMode && (s.seq h).state == .running

/-- The head enters STEP_HOLD: the plan index stays, the progress is NONE and the timer stops (R111). -/
def enterStepHold (h : HeadId) (s : State) : State :=
  s.modSeq h fun q => { q with state := .stepHold, progress := .none, timer := none }

/-- Begin the entries to come until one waits. An entry that is over at once, or fails at once with CONTINUE, hands on
to the next or to STEP_HOLD; one that fails at once with ABORT aborts the cycle (R93, R95, R100, R103, R111). -/
def beginEntries (h : HeadId) : List PhaseEntry → State → State
  | [], s => s
  | e :: rest, s =>
    let r := startEntry h e (enterEntry h e s)
    match r.1 with
    | .waits => r.2
    | .ended => if holdsHere h r.2 then enterStepHold h r.2 else beginEntries h rest r.2
    | .failed =>
      if e.continues then (if holdsHere h r.2 then enterStepHold h r.2 else beginEntries h rest r.2)
      else abortCycle h r.2

/-- The next entry of the plan begins. -/
def nextEntry (h : HeadId) (s : State) : State := beginEntries h ((headPlan h s).drop (s.seq h).planIndex) s

/-- An entry is over and the cycle goes on: the next entry begins, or the head holds in step mode (R93, R100). -/
def goOn (h : HeadId) (s : State) : State := if holdsHere h s then enterStepHold h s else nextEntry h s

/-- An entry other than a SNIFT fails: its disposition decides (R100). -/
def failEntry (h : HeadId) (e : PhaseEntry) (s : State) : State := if e.continues then goOn h s else abortCycle h s

/-- A head in STEP_HOLD becomes RUNNING and begins its next entry (R110, R111). -/
def resumeStep (h : HeadId) (s : State) : State := nextEntry h (s.modSeq h fun q => { q with state := .running })

/-- The cycle starts: the channels return to IDLE, the head is RUNNING, step mode leaves its flag, and the first entry
begins (R92, R115). -/
def startCycle (h : HeadId) (s : State) : State :=
  let s := resetChannels h s
  let s := s.modSeq h fun q =>
    { q with state := .running, planIndex := 0, flags := { q.flags with stepMode := q.flags.stepMode || q.stepMode } }
  nextEntry h s

/-! ### Expiries of the entry timer -/

/-- A SNIFT entry succeeds: SNIFT closes, and the cycle ends or the hold begins; a hold of 0 passes at once (R99). -/
def sniftSucceeds (h : HeadId) (e : PhaseEntry) (s : State) : State :=
  let s := requestClose h .snift s
  if atLastEntry h s then endCycle .sniftDone h s
  else if e.hold = 0 then goOn h s
  else s.modSeq h fun q => { q with progress := .holding, timer := some (s.now + msTicks e.hold) }

/-- TIMEOUT in the cycle flags. -/
def flagTimeout (h : HeadId) (s : State) : State := s.modFlags h fun f => { f with timeout := true }

/-- The time limit of the entry in progress expires (R93 to R99). -/
def timeLimitExpires (h : HeadId) (e : PhaseEntry) (s : State) : State :=
  let s := s.modSeq h fun q => { q with timer := none }
  match e.kind with
  | .purge => goOn h (requestClose h .snift (requestClose h .gas s))
  | .pressurise => failEntry h e (flagTimeout h s)
  | .additive => failEntry h e (cutChannel h .additive (flagTimeout h (requestClose h .add s)))
  | .fill => failEntry h e (cutChannel h .main (flagTimeout h (requestClose h .slow (requestClose h .fast s))))
  | .rest => goOn h s
  | .snift =>
    let s := flagTimeout h (requestClose h .snift s)
    if atLastEntry h s then endCycle .sniftFailed h s else nextEntry h s

/-! ### Pressure conditions and burst (R95, R99, R102, R141) -/

/-- A debounce count after one more conversion: one higher when the condition is met, 0 otherwise (R141). -/
def bump (met : Bool) (n : Nat) : Nat := if met then n + 1 else 0

/-- The condition is met on enough consecutive conversions (R141). -/
def holdsFor (met : Bool) (n needed : Nat) : Bool := met && decide (needed ≤ bump met n)

/-- The PRESSURISE condition on head pressure `p` and bowl pressure `b`, its threshold floored at 0 (R95, R141). -/
def pressuriseMet (e : PhaseEntry) (p b : Nat) : Bool := decide (b - e.pressure ≤ p)

/-- The SNIFT condition (R99, R141). -/
def sniftMet (e : PhaseEntry) (p : Nat) : Bool := decide (p ≤ e.pressure)

/-- The burst condition, which a bowl pressure at or below the burst delta cannot meet (R102, R141). -/
def burstMet (delta p b : Nat) : Bool := decide (p < b - delta)

/-- A confirmed burst (R102). -/
def burstConfirmed (h : HeadId) (p b : Nat) (s : State) : State :=
  let s := raiseAlarm .burst (headByte h) p b (closeProducts h s)
  abortCycle h ((countEvent .bursts s).modSeq h fun q => { q with faultPending := true })

/-- The burst test of an ADDITIVE, FILL or REST entry, ACTIVE or SETTLING (R102). It reads the equalised flag (R89): with the
flag clear no conversion meets the condition (log 38). -/
def burstTest (h : HeadId) (sound : Bool) (p b : Nat) (s : State) : State :=
  let q := s.seq h
  if q.progress = .active ∨ q.progress = .settling then
    let met := sound && q.equalised && burstMet (cycleField h Recipe.burstDelta s) p b
    let s' := s.modSeq h fun q => { q with burstCount := bump met q.burstCount }
    if holdsFor met q.burstCount (cycleField h Recipe.burstDebounce s) then burstConfirmed h p b s' else s'
  else s

/-- A head conversion reaches the sequencer of an active cycle, with its soundness; the head's value and the bowl value
are those that stand (R140, R141). STEP_HOLD tests nothing (R111). -/
def takeConversion (h : HeadId) (sound : Bool) (s : State) : State :=
  let q := s.seq h
  let p := (s.head h).scan.value.getD 0
  let b := s.scanner.bowl.value.getD 0
  if q.state = .running ∨ q.state = .forcedSnift then
    match currentEntry h s with
    | none => s
    | some e =>
      match e.kind with
      | .purge => s
      | .pressurise =>
        if q.progress = .active then
          let met := sound && pressuriseMet e p b
          let s' := s.modSeq h fun q => { q with condCount := bump met q.condCount }
          if holdsFor met q.condCount e.debounce then goOn h (s'.modSeq h fun q => { q with equalised := true }) else s'
        else s
      | .snift =>
        if q.progress = .active then
          let met := sound && sniftMet e p
          let s' := s.modSeq h fun q => { q with condCount := bump met q.condCount }
          if holdsFor met q.condCount e.debounce then sniftSucceeds h e s' else s'
        else s
      | .additive => burstTest h sound p b s
      | .fill => burstTest h sound p b s
      | .rest => burstTest h sound p b s
  else s

/-- A new sensor fault is reported to a sequencer: an ACTIVE PRESSURISE entry fails at once (R95, R140). -/
def takeSensorFault (h : HeadId) (s : State) : State :=
  match currentEntry h s with
  | none => s
  | some e =>
    if (s.seq h).state = .running ∧ (s.seq h).progress = .active ∧ e.kind = .pressurise then
      failEntry h e (s.modSeq h fun q => { q with timer := none })
    else s

/-! ### Pulses and settle ends (R96, R97, R121, R125) -/

/-- A pulse at a channel, taken whole by the channel's state (R121, R122, R123). -/
def takePulse (h : HeadId) (m : Meter) (s : State) : State :=
  match (s.chan h m).state with
  | .idle => strayPulse h s
  | .ended => strayPulse h s
  | .settling => (pulseSteps h m s).modChan h m fun c => { c with lastPulse := some s.now }
  | .dosing =>
    let s := cutoffTest h m (pulseSteps h m s)
    if (s.chan h m).state = .settling then cutoffReached h m s
    else
      match m with
      | .main => fastBand h s
      | .additive => s

/-- The kind of the entry that doses with a meter (R116). -/
def doseKind : Meter → PhaseKind
  | .main => .fill
  | .additive => .additive

/-- The entry that started a meter's dose is the entry in progress, and is SETTLING (R125). -/
def settlesEntry (h : HeadId) (m : Meter) (s : State) : Bool :=
  match currentEntry h s with
  | some e => (s.seq h).state == .running && (s.seq h).progress == .settling && e.kind == doseKind m
  | none => false

/-- A settle ends, and so does the entry that settles with it (R125). -/
def takeSettleEnd (h : HeadId) (m : Meter) (k : EndKind) (s : State) : State :=
  let s := settleEnd h m k s
  if settlesEntry h m s then goOn h s else s

/-! ### Deadlines (R103 to R105) -/

/-- DEADLINE in the cycle flags. -/
def flagDeadline (h : HeadId) (s : State) : State := s.modFlags h fun f => { f with deadline := true }

/-- An ADDITIVE or FILL entry is ACTIVE (R103). -/
def dosingEntry (h : HeadId) (s : State) : Bool :=
  match currentEntry h s with
  | some e => (s.seq h).progress == .active && (e.kind == .additive || e.kind == .fill)
  | none => false

/-- D_fill is reached: the first case of R103's table that fits. -/
def takeDFill (h : HeadId) (s : State) : State :=
  if (s.chan h .main).state = .idle then cutToSnift h (flagDeadline h s)
  else if dosingEntry h s then
    (cutBoth h (flagDeadline h (closeProducts h s))).modSeq h fun q => { q with timer := none, progress := .settling }
  else s

/-- D_snift is reached (R104). -/
def takeDSnift (h : HeadId) (s : State) : State :=
  if ((s.seq h).state = .running ∨ (s.seq h).state = .stepHold) ∧ (s.seq h).sniftBegun = false then
    cutToSnift h (flagDeadline h s)
  else s

/-- D_release is reached: the cycle ends at once (R105). -/
def takeDRelease (h : HeadId) (s : State) : State :=
  let s := freezeBoth h ((closeAll h s).modSeq h fun q => { q with timer := none })
  let s := raiseAlarm .releaseOverrun (headByte h) (s.seq h).planIndex ((s.seq h).elapsed.getD 0) s
  endCycle .released h (s.modFlags h fun f => { f with sniftIncomplete := true })

/-- One deadline, tested on a head whose cycle is active (R103 to R105). -/
def testDeadline (h : HeadId) (d : Deadlines → Nat) (act : HeadId → State → State) (s : State) : State :=
  if (s.seq h).state.active && reached h (d (headDeadlines h s)) s then act h s else s

/-- The three deadlines of a head at a pitch event, in the order of their rules (log 14). -/
def takeDeadlines (h : HeadId) (s : State) : State :=
  testDeadline h Deadlines.dRelease takeDRelease
    (testDeadline h Deadlines.dSnift takeDSnift (testDeadline h Deadlines.dFill takeDFill s))

/-! ### Valve faults at the head (R106) -/

/-- FAST, SLOW or ADD (R146). -/
def isProduct : ValveId → Bool
  | .fast => true
  | .slow => true
  | .add => true
  | .gas => false
  | .snift => false

/-- A product valve sticks open in an active cycle: no snift, FAULT (R106). -/
def stuckOpenEnd (h : HeadId) (s : State) : State :=
  let s := clearEqualised h (closeProducts h (requestClose h .snift (requestClose h .gas s)))
  endCycle .stuckOpen h (freezeBoth h (s.modSeq h fun q => { q with timer := none }))

/-- Fault pending is set. -/
def setFaultPending (h : HeadId) (s : State) : State := s.modSeq h fun q => { q with faultPending := true }

/-- The sequencer takes a valve fault by its state and the valve (R106). -/
def takeValveFault (h : HeadId) (v : ValveId) (k : ValveFault) (s : State) : State :=
  if isProduct v then
    match k, (s.seq h).state with
    | .stuckOpen, .running => stuckOpenEnd h s
    | .stuckOpen, .forcedSnift => stuckOpenEnd h s
    | .stuckOpen, .stepHold => stuckOpenEnd h s
    | .noOpen, .running => abortCycle h (setFaultPending h s)
    | .drift, .running => abortCycle h (setFaultPending h s)
    | .drift, .stepHold => abortCycle h (setFaultPending h s)
    | .drift, .forcedSnift => setFaultPending h s
    | _, _ => s
  else s

/-- A valve fault, in the order of R151: alarm, count, report to the sequencer. -/
def valveFault (h : HeadId) (v : ValveId) (k : ValveFault) (s : State) : State :=
  takeValveFault h v k (announceFault h v k s)

/-- A candidate becomes the feedback level, and a drift is reported (R147, R149, R151). -/
def takeFeedback (h : HeadId) (v : ValveId) (s : State) : State :=
  let r := (s.valve h v).takeLevel
  let s := s.modValve h v fun _ => r.1
  if r.2 then valveFault h v .drift s else s

/-! ### Ring loss and step mode (R108 to R110) -/

/-- The request of a head is marked overtaken, in the list or in progress (R86). -/
def markOvertaken (h : HeadId) (s : State) : State :=
  { s with
    resolver :=
      { requests := s.resolver.requests.map fun r => if r.head = h then { r with overtaken := true } else r
        current := s.resolver.current.map fun r => if r.head = h then { r with overtaken := true } else r } }

/-- A head takes a ring loss by its state (R108). -/
def takeRingLoss (h : HeadId) (s : State) : State :=
  match (s.seq h).state with
  | .idle => s.modSeq h fun q => { q with state := .held }
  | .resolving => markOvertaken h s
  | .running => cutToSnift h (s.modFlags h fun f => { f with ringLoss := true })
  | .stepHold => cutToSnift h (s.modFlags h fun f => { f with ringLoss := true })
  | .forcedSnift => s.modFlags h fun f => { f with ringLoss := true }
  | .off => s
  | .fault => s
  | .held => s

/-- Every HELD head becomes IDLE (R109). -/
def releaseHeld (s : State) : State :=
  { s with heads := s.heads.map fun x => if x.seq.state = .held then { x with seq := { x.seq with state := .idle } } else x }

/-- Step mode of a head becomes off, and a head in STEP_HOLD resumes (R110). -/
def endStepMode (h : HeadId) (s : State) : State :=
  let held := (s.seq h).state = .stepHold
  let s := s.modSeq h fun q => { q with stepMode := false }
  if held then resumeStep h s else s

end Sys2Proof.Machine
end

