-- ==== Sys2Proof/Machine/Records.lean ====
section
/-! DEFINITION. Recipe and curve records: where their fields stand in the words (R184), the merging of a chain (R79),
and validation (R80 to R82). -/

namespace Sys2Proof.Machine

/-! ### Reading a record (R184) -/

/-- Word `i` of a record. -/
def wordAt (ws : List Word) (i : Nat) : Word := ws.getD i 0#32

/-- The record kind of a recipe record: 1 FULL, 2 VARIANT, 0 and 3 no kind (R72). -/
def recordKindOf (ws : List Word) : Nat := bits (wordAt ws 0) 31 30

/-- Phase entry `i` of a FULL record, `i` from 1 to 10. -/
def rawEntryOf (ws : List Word) (i : Nat) : RawEntry :=
  let a := wordAt ws (10 + 2 * i)
  let b := wordAt ws (11 + 2 * i)
  { kindCode := bits a 31 29
    continues := a.getLsbD 28
    debounce := bits a 27 25
    timeLimit := bits a 13 0
    pressure := bits b 29 16
    hold := bits b 9 0 }

/-- The fields of a FULL record, its plan entries up to the plan count. -/
def fullOf (ws : List Word) : Merged :=
  let count := bits (wordAt ws 3) 31 28
  { recipe :=
      { vMain := (wordAt ws 5).toNat
        tolUnder := bits (wordAt ws 0) 26 0
        tolOver := bits (wordAt ws 1) 26 0
        startBand := (wordAt ws 6).toNat
        slowBand := (wordAt ws 7).toNat
        ratio := bits (wordAt ws 11) 10 0
        addTol := bits (wordAt ws 2) 26 0
        factor := (upperHalf (wordAt ws 8)).toInt
        smoothing := bits (wordAt ws 0) 29 27
        gain := bits (wordAt ws 1) 31 29
        seed := ⟨bits (wordAt ws 3) 25 0, bits (wordAt ws 4) 25 0⟩
        settleWindow := bits (wordAt ws 11) 22 14
        settleLimit := bits (wordAt ws 10) 12 0
        bowlMin := bits (wordAt ws 8) 13 0
        bowlMax := bits (wordAt ws 9) 29 16
        burstDelta := bits (wordAt ws 9) 13 0
        burstDebounce := bits (wordAt ws 2) 31 29
        deadlines := ⟨bits (wordAt ws 10) 31 23, bits (wordAt ws 10) 22 14, bits (wordAt ws 11) 31 23⟩ }
    planCount := count
    plan := (List.range (min count 10)).map fun i => rawEntryOf ws (i + 1) }

/-- The parent recipe number of a VARIANT record. -/
def parentOf (ws : List Word) : Nat := bits (wordAt ws 0) 23 16

/-- A field that a record supplies when its override flag is set, kept when it is fixed already (R79). -/
def fix {α : Type} (old : Option α) (flag : Bool) (x : α) : Option α :=
  match old with
  | some y => some y
  | none => if flag then some x else none

/-- The fields fixed after a VARIANT record (R75, R79). -/
def fixVariant (ws : List Word) (f : Fixed) : Fixed :=
  let flag := fun i => (wordAt ws 0).getLsbD i
  { target := fix f.target (flag 0) (wordAt ws 1).toNat
    tolUnder := fix f.tolUnder (flag 1) (bits (wordAt ws 2) 26 0)
    tolOver := fix f.tolOver (flag 2) (bits (wordAt ws 3) 26 0)
    ratio := fix f.ratio (flag 3) (bits (wordAt ws 4) 10 0)
    factor := fix f.factor (flag 4) (lowerHalf (wordAt ws 5)).toInt
    deadlines := fix f.deadlines (flag 5)
      ⟨bits (wordAt ws 6) 31 23, bits (wordAt ws 6) 22 14, bits (wordAt ws 6) 8 0⟩ }

/-- The merged recipe: every field not yet fixed takes the FULL record's value (R79). -/
def mergeFull (f : Fixed) (m : Merged) : Merged :=
  { m with
    recipe :=
      { m.recipe with
        vMain := f.target.getD m.recipe.vMain
        tolUnder := f.tolUnder.getD m.recipe.tolUnder
        tolOver := f.tolOver.getD m.recipe.tolOver
        ratio := f.ratio.getD m.recipe.ratio
        factor := f.factor.getD m.recipe.factor
        deadlines := f.deadlines.getD m.recipe.deadlines } }

/-- No field fixed. -/
def Fixed.empty : Fixed := ⟨none, none, none, none, none, none⟩

/-- The point count of a curve record, and its points up to the count (R76, R184). -/
def curveCountOf (ws : List Word) : Nat := bits (wordAt ws 0) 3 0

def curvePointOf (ws : List Word) (i : Nat) : CurvePoint :=
  ⟨(upperHalf (wordAt ws (1 + i))).toNat, (lowerHalf (wordAt ws (1 + i))).toInt⟩

def curvePointsOf (ws : List Word) : List CurvePoint := (List.range (curveCountOf ws)).map (curvePointOf ws)

/-! ### Validation (R80 to R82) -/

/-- `x` lies in a range, ends included. -/
def inRange (lo hi x : Nat) : Bool := decide (lo ≤ x) && decide (x ≤ hi)

/-- Every field of a phase entry lies in its range, whatever the entry's kind (R74). -/
def entryInRange (e : RawEntry) : Bool :=
  inRange 1 6 e.kindCode && inRange 1 10000 e.timeLimit && inRange 0 16000 e.pressure && inRange 1 4 e.debounce &&
    inRange 0 1000 e.hold

/-- Every field of R73 except the deadlines and the plan lies in its range (R73, R80). -/
def recipeInRange (r : Recipe) : Bool :=
  inRange 50000000 3000000000 r.vMain && inRange 0 100000000 r.tolUnder && inRange 0 100000000 r.tolOver &&
    inRange 0 r.vMain r.startBand && inRange 0 r.vMain r.slowBand && inRange 0 2000 r.ratio && inRange 0 100000000 r.addTol &&
    decide (-20000 ≤ r.factor) && decide (r.factor ≤ 20000) && inRange 0 4 r.smoothing && inRange 1 6 r.gain &&
    inRange 0 50000000 r.seed.main && inRange 0 50000000 r.seed.additive && inRange 5 500 r.settleWindow &&
    inRange 20 5000 r.settleLimit && inRange 0 16000 r.bowlMin && inRange r.bowlMin 16000 r.bowlMax &&
    inRange 0 16000 r.burstDelta && inRange 1 4 r.burstDebounce

/-- The field ranges of a merged recipe (R80). -/
def fieldsInRange (m : Merged) : Bool := recipeInRange m.recipe && inRange 1 10 m.planCount && m.plan.all entryInRange

/-- An entry with its kind read from its code. -/
def phaseEntryOf (e : RawEntry) : Option PhaseEntry :=
  (phaseKindOf e.kindCode).map fun k => ⟨k, e.continues, e.debounce, e.timeLimit, e.pressure, e.hold⟩

/-- The plan as the cycle record holds it. -/
def planOf (m : Merged) : List PhaseEntry := m.plan.filterMap phaseEntryOf

/-- How many entries of a kind a plan holds. -/
def countKind (k : PhaseKind) (ks : List PhaseKind) : Nat := (ks.filter fun x => x == k).length

/-- The plan rules on the kinds of the entries, under the merged ratio (R81). -/
def planRules (ratio : Nat) (ks : List PhaseKind) : Bool :=
  decide (countKind .fill ks = 1) && decide (countKind .additive ks = if ratio = 0 then 0 else 1) &&
    ((ks.takeWhile fun k => k != .additive && k != .fill).contains .pressurise) && ks.contains .snift &&
    ((ks.dropWhile fun k => k != .snift).all fun k => k == .snift)

/-- The order and the limit of the deadlines (R82). -/
def deadlinesInOrder (nPos : Nat) (d : Deadlines) : Bool :=
  decide (d.dFill < d.dSnift) && decide (d.dSnift < d.dRelease) && decide (d.dRelease ≤ nPos - 1)

/-- The first of the three groups that fails: field ranges, plan rules, deadlines (R80 to R82). -/
def validate (nPos : Nat) (m : Merged) : Option ResFault :=
  if !fieldsInRange m then some .fieldRange
  else if !planRules m.recipe.ratio ((planOf m).map PhaseEntry.kind) then some .planInvalid
  else if !deadlinesInOrder nPos m.recipe.deadlines then some .deadlinesInvalid
  else none

/-- The rates of a curve's points are strictly increasing (R76). -/
def ratesRise : List CurvePoint → Bool
  | p :: q :: rest => decide (p.rate < q.rate) && ratesRise (q :: rest)
  | _ => true

/-- The additive target (R83). -/
def additiveTarget (vMain ratio : Nat) : Nat := (vMain * ratio + 5000) / 10000

end Sys2Proof.Machine
end

