-- ==== Sys2Proof/Machine/Resolve.lean ====
section
/-! DEFINITION. The Resolver: its request list (R77), the steps of a chain (R78, R79), the curves (R82), what a
successful resolution writes (R83, R84), and completion (R87, R88). -/

namespace Sys2Proof.Machine

/-! ### Requests (R77) -/

/-- With no resolution in progress, the oldest request leaves the list and its resolution begins (R77). -/
def beginResolution (s : State) : State :=
  match s.resolver.current, s.resolver.requests with
  | none, r :: rest =>
    { s with
      resolver :=
        { requests := rest
          current := some ⟨r.head, r.recipe, 0, Fixed.empty, .following r.recipe, [], 0, r.overtaken⟩ } }
  | _, _ => s

/-- A head places its request at the end of the list (R77, R92). -/
def requestResolution (h : HeadId) (recipe : Nat) (s : State) : State :=
  beginResolution { s with resolver := { s.resolver with requests := s.resolver.requests ++ [⟨h, recipe, false⟩] } }

/-! ### Steps (R78, R79, R82) -/

/-- The segment joins the read set, once (R78, R85). -/
def joinReadSet (g : Fin 32) (rs : List (Fin 32)) : List (Fin 32) := if rs.contains g then rs else rs ++ [g]

/-- A fault ends the resolution, and the read set is emptied at once; the completion follows in the same step (R85,
R88). -/
def Resolution.fail (f : ResFault) (detail : Nat) (r : Resolution) : Resolution :=
  { r with stage := .failed f detail, readSet := [] }

/-- The directory entry of a recipe number; a number above 127 has none (R78). -/
def lookupRecipe (n : Nat) (s : State) : Option DirEntry := if h : n < 128 then s.directory[n] else none

/-- The words of a record: record `index` of `size` words in a segment. -/
def recordWords (g : Segment) (index size : Nat) (s : State) : List Word :=
  Memory.readWords s.tables.words (g.base + size * index) size

/-- What a recipe record does to the resolution (R72, R79, R88): `n` is the recipe number that led to it. -/
def Resolution.takeRecord (n : Nat) (ws : List Word) (r : Resolution) : Resolution :=
  let r := { r with chainLength := r.chainLength + 1, wordsRead := r.wordsRead + Config.recipeWords }
  if recordKindOf ws = 1 then { r with stage := .merged (mergeFull r.fixed (fullOf ws)) }
  else if recordKindOf ws = 2 then
    if Config.maxChain ≤ r.chainLength then r.fail .chainTooLong (parentOf ws)
    else { r with fixed := fixVariant ws r.fixed, stage := .following (parentOf ws) }
  else r.fail .fieldRange n

/-- One step along the chain: directory, segment and index are judged in this order, and the record is read and merged
(R78). -/
def followStep (n : Nat) (r : Resolution) (s : State) : Resolution :=
  match lookupRecipe n s with
  | none => r.fail .noRecipe n
  | some d =>
    let g := s.tables.segments[d.segment]
    if g.state = .undefined ∨ g.kind ≠ some .recipe then r.fail .wrongKind n
    else if g.state ≠ .valid then r.fail .segmentNotReady n
    else if g.length < Config.recipeWords * (d.index + 1) then r.fail .indexRange n
    else
      Resolution.takeRecord n (recordWords g d.index Config.recipeWords s) { r with readSet := joinReadSet d.segment r.readSet }

/-- The tests of a needed curve that come before its words are read (R82). -/
def curveSegment (c : CurveRef) (s : State) : Option (Fin 32 × Segment) :=
  if h : c.segment < 32 then
    let g := s.tables.segments[c.segment]
    if g.kind = some .curve ∧ g.state = .valid ∧ Config.curveWords * (c.index + 1) ≤ g.length then some (⟨c.segment, h⟩, g)
    else none
  else none

/-- The points of a curve record whose count and rates pass (R82). -/
def curveOf (ws : List Word) : Option (List CurvePoint) :=
  if inRange 2 8 (curveCountOf ws) && ratesRise (curvePointsOf ws) then some (curvePointsOf ws) else none

/-- A needed curve is judged and read (R82): `next` is the stage after it, `which` the detail of its fault (R88). -/
def readCurve (m : Meter) (next : List CurvePoint → Stage) (r : Resolution) (s : State) : Resolution :=
  let c := (s.head r.head).table.curve.get m
  match curveSegment c s with
  | none => r.fail .curveInvalid (meterCode m)
  | some (k, g) =>
    match curveOf (recordWords g c.index Config.curveWords s) with
    | none => r.fail .curveInvalid (meterCode m)
    | some ps =>
      { r with stage := next ps, readSet := joinReadSet k r.readSet, wordsRead := r.wordsRead + Config.curveWords }

/-- One stage further: a record of the chain, then validation with the main curve, then the additive curve when the
merged ratio is above 0 (R78 to R82, log 16). -/
def stageStep (r : Resolution) (s : State) : Resolution :=
  match r.stage with
  | .following n => followStep n r s
  | .merged m =>
    match validate s.settings.nPos m with
    | some f => r.fail f 0
    | none => readCurve .main (fun ps => .mainRead m ps) r s
  | .mainRead m ps =>
    if m.recipe.ratio = 0 then { r with stage := .curvesRead m ps none }
    else readCurve .additive (fun qs => .curvesRead m ps (some qs)) r s
  | .curvesRead _ _ _ => r
  | .failed _ _ => r

/-- The stages that remain after the chain has ended, taken together. -/
def finishStages (r : Resolution) (s : State) : Resolution :=
  match r.stage with
  | .following _ => r
  | _ => stageStep (stageStep r s) s

/-! ### What a successful resolution writes (R83, R84) -/

/-- The reseeding of a head record on a change of named recipe number (R83). -/
def HeadRecord.reseed (named : Nat) (seed : PerMeter Nat) (t : HeadRecord) : HeadRecord :=
  if t.lastRecipe = some named then t
  else
    { t with
      learned := ⟨min seed.main t.afterflowMax.main, min seed.additive t.afterflowMax.additive⟩
      lastRecipe := some named }

/-- The cycle record of a merged recipe and its curves (R84). -/
def cycleRecordOf (m : Merged) (main : List CurvePoint) (additive : Option (List CurvePoint)) : CycleRecord :=
  ⟨m.recipe, additiveTarget m.recipe.vMain m.recipe.ratio, planOf m, main, additive⟩

/-- Reseeding, then the cycle record (R83, R84). -/
def writeCycle (h : HeadId) (named : Nat) (c : CycleRecord) (s : State) : State :=
  s.modHead h fun x => { x with table := x.table.reseed named c.recipe.seed, cycle := some c }

/-! ### Completion (R87, R88) -/

/-- The reason for which a written resolution does not start its cycle: tests 2 to 5 of R87. -/
def declineReason (h : HeadId) (overtaken : Bool) (s : State) : Option NotServedReason :=
  if overtaken then some .ringLoss
  else if reached h (headDeadlines h s).dFill s then some .late
  else
    match s.scanner.bowl.value with
    | none => some .bowlSensor
    | some b =>
      if s.scanner.bowl.fault then some .bowlSensor
      else if b < cycleField h Recipe.bowlMin s ∨ cycleField h Recipe.bowlMax s < b then some .bowlPressure
      else none

/-- The target serial of the head's infeed entry. -/
def entrySerial (h : HeadId) (s : State) : Half :=
  match (s.seq h).entry with
  | some e => e.serial
  | none => 0#16

/-- A resolution ends NOT_SERVED: the record goes into the head's reservation, the totals are counted, and the head
is free again (R87, R92, R163). -/
def resolutionNotServed (h : HeadId) (reason : NotServedReason) (a b : Nat) (s : State) : State :=
  let r := notServedRecord (headByte h) (entrySerial h s) (entryRecipe h s) reason a b
  let s := countNotServed (entryRecipe h s) reason (placeRecord h r s)
  s.modSeq h fun q => { q with entry := none, state := freeState s }

/-- The outcome of a resolution whose cycle record has been written (R87). -/
def startOrDecline (h : HeadId) (overtaken : Bool) (s : State) : State :=
  match declineReason h overtaken s with
  | some reason => resolutionNotServed h reason 0 0 s
  | none => startCycle h s

/-- The resolution in progress is over. -/
def clearResolution (s : State) : State := { s with resolver := { s.resolver with current := none } }

/-- The resolution in progress completes, once its chain has ended, and the oldest request begins (R77, R87). -/
def completeResolution (s : State) : State :=
  match s.resolver.current with
  | none => s
  | some r0 =>
    let r := finishStages r0 s
    match r.stage with
    | .failed f d =>
      beginResolution (clearResolution (resolutionNotServed r.head .recipeFault (resFaultCode f) d s))
    | .curvesRead m ps qs =>
      beginResolution
        (clearResolution
          (startOrDecline r.head r.overtaken (writeCycle r.head r.named (cycleRecordOf m ps qs) s)))
    | .following _ => s
    | .merged _ => s
    | .mainRead _ _ => s

end Sys2Proof.Machine
end

