-- ==== Sys2Proof/Machine/Format.lean ====
section
/-! DEFINITION. The 158 bytes of a frame (R180, R181), written from its fields and read back into them, and the frame
check over them (R2, R185). -/

namespace Sys2Proof.Machine

/-! ### Bytes of a field, most significant first (R181) -/

def halfBytes (x : Half) : List Byte := [x.extractLsb' 8 8, x.extractLsb' 0 8]

def wordBytes (x : Word) : List Byte := [x.extractLsb' 24 8, x.extractLsb' 16 8, x.extractLsb' 8 8, x.extractLsb' 0 8]

def tripleBytes (x : BitVec 24) : List Byte := [x.extractLsb' 16 8, x.extractLsb' 8 8, x.extractLsb' 0 8]

/-! ### From fields to bytes (R180) -/

/-- The 8 bytes of an assignment slot. -/
def assignBytes (a : AssignSlot) : List Byte :=
  [a.kind, a.node] ++ halfBytes a.serial ++ halfBytes a.position ++ [a.recipe, a.flags]

/-- The 24 bytes of the data words. -/
def dataBytes (d : DataWords) : List Byte :=
  wordBytes d.d0 ++ wordBytes d.d1 ++ wordBytes d.d2 ++ wordBytes d.d3 ++ wordBytes d.d4 ++ wordBytes d.d5

/-- The 32 bytes of the management slot: state in bits 7-6 and destination in bits 5-0 of byte 0, word count in bits
7-5 and kind in bits 4-0 of byte 1. -/
def mgmtBytes (m : MgmtSlot) : List Byte :=
  [m.state ++ m.dest, m.count ++ m.kind, m.tag, m.result, m.ack, m.refuse] ++ halfBytes m.param ++ dataBytes m.data

/-- The 15 bytes of a result slot. -/
def resultBytes (r : ResultSlot) : List Byte :=
  [r.kind, r.node, r.head] ++ halfBytes r.serial ++ [r.recipe, r.code, r.flags] ++ wordBytes r.valueA ++
    tripleBytes r.valueB

/-- The 16 bytes of the header. -/
def headerBytes (f : Frame) : List Byte :=
  [f.kind, f.hop] ++ halfBytes f.serial ++ halfBytes f.position ++ [f.carousel, f.damage] ++ wordBytes f.attention ++
    wordBytes f.spare

/-- Bytes 0 to 155, over which the check is computed (R2, R185). -/
def frameContent (f : Frame) : List Byte :=
  headerBytes f ++ assignBytes f.a0 ++ assignBytes f.a1 ++ assignBytes f.a2 ++ assignBytes f.a3 ++ assignBytes f.a4 ++
    assignBytes f.a5 ++ mgmtBytes f.mgmt ++ resultBytes f.r0 ++ resultBytes f.r1 ++ resultBytes f.r2 ++ resultBytes f.r3

/-- The 158 bytes of a frame. -/
def frameBytes (f : Frame) : List Byte := frameContent f ++ halfBytes f.check

/-! ### From bytes to fields: each reader takes its bytes off the front -/

def takeByte : List Byte → Option (Byte × List Byte)
  | b :: rest => some (b, rest)
  | [] => none

def takeHalf : List Byte → Option (Half × List Byte)
  | b1 :: b0 :: rest => some (b1 ++ b0, rest)
  | _ => none

def takeTriple : List Byte → Option (BitVec 24 × List Byte)
  | b2 :: b1 :: b0 :: rest => some (b2 ++ b1 ++ b0, rest)
  | _ => none

def takeWord : List Byte → Option (Word × List Byte)
  | b3 :: b2 :: b1 :: b0 :: rest => some (b3 ++ b2 ++ b1 ++ b0, rest)
  | _ => none

def takeAssign (bs : List Byte) : Option (AssignSlot × List Byte) := do
  let (kind, bs) ← takeByte bs
  let (node, bs) ← takeByte bs
  let (serial, bs) ← takeHalf bs
  let (position, bs) ← takeHalf bs
  let (recipe, bs) ← takeByte bs
  let (flags, bs) ← takeByte bs
  return (⟨kind, node, serial, position, recipe, flags⟩, bs)

def takeData (bs : List Byte) : Option (DataWords × List Byte) := do
  let (d0, bs) ← takeWord bs
  let (d1, bs) ← takeWord bs
  let (d2, bs) ← takeWord bs
  let (d3, bs) ← takeWord bs
  let (d4, bs) ← takeWord bs
  let (d5, bs) ← takeWord bs
  return (⟨d0, d1, d2, d3, d4, d5⟩, bs)

def takeMgmt (bs : List Byte) : Option (MgmtSlot × List Byte) := do
  let (b0, bs) ← takeByte bs
  let (b1, bs) ← takeByte bs
  let (tag, bs) ← takeByte bs
  let (result, bs) ← takeByte bs
  let (ack, bs) ← takeByte bs
  let (refuse, bs) ← takeByte bs
  let (param, bs) ← takeHalf bs
  let (data, bs) ← takeData bs
  return (⟨b0.extractLsb' 6 2, b0.extractLsb' 0 6, b1.extractLsb' 0 5, b1.extractLsb' 5 3, tag, result, ack, refuse, param,
    data⟩, bs)

def takeResult (bs : List Byte) : Option (ResultSlot × List Byte) := do
  let (kind, bs) ← takeByte bs
  let (node, bs) ← takeByte bs
  let (head, bs) ← takeByte bs
  let (serial, bs) ← takeHalf bs
  let (recipe, bs) ← takeByte bs
  let (code, bs) ← takeByte bs
  let (flags, bs) ← takeByte bs
  let (valueA, bs) ← takeWord bs
  let (valueB, bs) ← takeTriple bs
  return (⟨kind, node, head, serial, recipe, code, flags, valueA, valueB⟩, bs)

/-- The frame that 158 bytes hold, and none for any other number of bytes. -/
def frameOfBytes (bs : List Byte) : Option Frame := do
  let (kind, bs) ← takeByte bs
  let (hop, bs) ← takeByte bs
  let (serial, bs) ← takeHalf bs
  let (position, bs) ← takeHalf bs
  let (carousel, bs) ← takeByte bs
  let (damage, bs) ← takeByte bs
  let (attention, bs) ← takeWord bs
  let (spare, bs) ← takeWord bs
  let (a0, bs) ← takeAssign bs
  let (a1, bs) ← takeAssign bs
  let (a2, bs) ← takeAssign bs
  let (a3, bs) ← takeAssign bs
  let (a4, bs) ← takeAssign bs
  let (a5, bs) ← takeAssign bs
  let (mgmt, bs) ← takeMgmt bs
  let (r0, bs) ← takeResult bs
  let (r1, bs) ← takeResult bs
  let (r2, bs) ← takeResult bs
  let (r3, bs) ← takeResult bs
  let (check, bs) ← takeHalf bs
  match bs with
  | [] =>
    return ⟨kind, hop, serial, position, carousel, damage, attention, spare, a0, a1, a2, a3, a4, a5, mgmt, r0, r1, r2, r3,
      check⟩
  | _ => none

/-! ### The check (R2, R185) -/

/-- One input bit: the register is shifted once, and combined with hexadecimal 1021 when the bit shifted out differs
from the input bit (R185). -/
def checkBit (reg : Half) (b : Bool) : Half :=
  if reg.getLsbD 15 != b then (reg <<< 1) ^^^ 0x1021#16 else reg <<< 1

/-- One byte, most significant bit first (R2). -/
def checkByte (reg : Half) (b : Byte) : Half :=
  [7, 6, 5, 4, 3, 2, 1, 0].foldl (fun r i => checkBit r (b.getLsbD i)) reg

/-- The check over bytes, from a register of all ones (R2). -/
def checkOf (bs : List Byte) : Half := bs.foldl checkByte 0xFFFF#16

/-- The check over table words, each as four bytes, most significant first (R2, R62). -/
def checkOfWords (ws : List Word) : Half := checkOf (ws.flatMap wordBytes)

/-- A frame is good when the check computed over its bytes 0 to 155 equals the one it carries (R2). -/
def goodFrame (f : Frame) : Bool := checkOf (frameContent f) == f.check

/-- A frame with a check computed anew (R185). -/
def freshCheck (f : Frame) : Frame := { f with check := checkOf (frameContent f) }

end Sys2Proof.Machine
end

