-- ==== Sys2Proof/Machine/Scanner.lean ====
section
/-! DEFINITION. The Pressure Scanner: choice of the next channel (R134, R135), scaling (R138), judgement of a reading
(R139), what a completed conversion hands on (R140), abandonment (R136); and the debounce of the container-present and
feedback inputs (R143, R147) with the stroke expiry (R150). -/

namespace Sys2Proof.Machine

/-! ### Choosing the next channel (R134, R135) -/

/-- The nine channels in scan order (R134). -/
def scanOrder : List ScanId := allHeads.map ScanId.head ++ [.bowl]

/-- The place of a channel in the scan order. -/
def ScanId.place : ScanId → Nat
  | .head h => h.val
  | .bowl => 8

/-- A head channel is enabled while its head is not OFF; the bowl always is (R134). -/
def scanEnabled (s : State) : ScanId → Bool
  | .head h => decide ((s.seq h).state ≠ .off)
  | .bowl => true

/-- The first enabled channel after the round-robin pointer in cyclic order (R134). -/
def nextChannel (s : State) : ScanId :=
  ((scanOrder.rotateLeft (s.scanner.pointer.place + 1)).find? (scanEnabled s)).getD .bowl

/-- The next conversion is chosen and started: the bowl for a pending request, else the next channel of the round robin,
to which the pointer moves (R134). -/
def startNext (s : State) : State :=
  if s.scanner.request then
    { s with scanner := { s.scanner with conversion := ⟨.bowl, true, some s.now⟩, request := false } }
  else
    { s with scanner := { s.scanner with conversion := ⟨nextChannel s, false, some s.now⟩, pointer := nextChannel s } }

/-- A conversion in flight on a head that goes OFF is abandoned, and the next is started at once (R136). -/
def abandonConversion (h : HeadId) (s : State) : State :=
  if s.scanner.conversion.channel = .head h then startNext s else s

/-! ### A reading (R137 to R139) -/

/-- A rail reading: 0 or 4,095 counts (R137). -/
def isRail (r : BitVec 12) : Bool := r == 0#12 || r == 4095#12

/-- A reading scaled to mbar and clamped (R138). -/
def scaled (offset gain : Nat) (r : BitVec 12) : Nat :=
  (clampInt 0 Config.maxPressure (((r.toNat : Int) - (offset : Int)) * (gain : Int) / (Config.fullScale : Int))).toNat

/-- What the judgement of a reading leaves: the channel, whether the reading was taken, whether it set the fault. -/
structure Judged where
  chan : ScanChannel
  taken : Bool
  newFault : Bool
  deriving DecidableEq, Repr

/-- A reading is judged against the channel's sensor fault; `p` is its scaled value (R139). -/
def judgeReading (r : BitVec 12) (p : Nat) (c : ScanChannel) : Judged :=
  let c := { c with raw := some r }
  match c.fault, isRail r with
  | false, false => ⟨{ c with runCount := 0, value := some p }, true, false⟩
  | false, true =>
    if c.runCount = 0 then ⟨{ c with runCount := 1 }, false, false⟩
    else ⟨{ c with runCount := 0, fault := true }, false, true⟩
  | true, true => ⟨{ c with runCount := 0 }, false, false⟩
  | true, false =>
    if c.runCount = 0 then ⟨{ c with runCount := 1 }, false, false⟩
    else ⟨{ c with runCount := 0, fault := false, value := some p }, true, false⟩

/-! ### What a completed conversion hands on (R140, R142) -/

/-- The reading of a head's conversion: 0 counts while forced rail readings remain (R142). -/
def headReading (h : HeadId) (raw : BitVec 12) (s : State) : BitVec 12 := if 0 < (s.head h).forced then 0#12 else raw

/-- The judgement of a head's reading under the scaling of its record (R138, R139). -/
def judgedHead (h : HeadId) (raw : BitVec 12) (s : State) : Judged :=
  let r := headReading h raw s
  judgeReading r (scaled (s.head h).table.offset (s.head h).table.gain r) (s.head h).scan

/-- The judgement of a bowl reading under the scaling of the node settings (R138, R139). -/
def judgedBowl (raw : BitVec 12) (s : State) : Judged :=
  judgeReading raw (scaled s.settings.bowlOffset s.settings.bowlGain raw) s.scanner.bowl

/-- A sensor fault has been set at a channel: the alarm and the count (R139). -/
def announceSensorFault (code : AlarmCode) (head : Byte) (c : ScanChannel) (r : BitVec 12) (s : State) : State :=
  countEvent .sensorFaults (raiseAlarm code head r.toNat (c.value.getD 0) s)

/-- A head conversion is sound (R140). -/
def soundConversion (j : Judged) (bowl : ScanChannel) : Bool :=
  j.taken && !j.chan.fault && !bowl.fault && bowl.value.isSome

/-- A completed conversion of a head channel (R139, R140, R142). -/
def completeHead (h : HeadId) (raw : BitVec 12) (s : State) : State :=
  let j := judgedHead h raw s
  let sound := soundConversion j s.scanner.bowl
  let r := headReading h raw s
  let s := s.modHead h fun x => { x with scan := j.chan, forced := x.forced - 1 }
  let s := if j.newFault then takeSensorFault h (announceSensorFault .sensorFault (headByte h) j.chan r s) else s
  traceTick (.head h) (takeConversion h sound s)

/-- A completed conversion of the bowl channel (R139, R140). Heads 0 to 7 take the report of a new fault in turn
(log 35). -/
def completeBowl (raw : BitVec 12) (s : State) : State :=
  let j := judgedBowl raw s
  let s := { s with scanner := { s.scanner with bowl := j.chan } }
  let s :=
    if j.newFault then forHeads takeSensorFault (announceSensorFault .bowlSensorFault nodeByte j.chan raw s) else s
  traceTick .bowl s

/-- The conversion in flight completes 25 µs after its start, and the next starts (R134). None is in flight while RESET
is held. -/
def completeConversion (raw : BitVec 12) (s : State) : State :=
  match s.scanner.conversion.started with
  | none => s
  | some t =>
    let s := s.advance (t + Config.conversionTicks)
    match s.scanner.conversion.channel with
    | .head h => startNext (completeHead h raw s)
    | .bowl => startNext (completeBowl raw s)

/-! ### Debounce of the container-present inputs (R143) -/

/-- The taken level that an input level stands for (R143). -/
def presenceOf (active : Bool) : Presence := if active then .present else .absent

/-- The candidate becomes the taken level. -/
def takePresence (h : HeadId) (s : State) : State :=
  s.modHead h fun x => { x with presence := presenceOf x.presenceCandidate.level }

/-- The input of a head changes, now. A level other than the candidate's becomes the candidate, and is taken at once
when the debounce time is 0 (R143). -/
def changePresence (h : HeadId) (active : Bool) (s : State) : State :=
  let s' := s.modHead h fun x => { x with presentPin := active }
  if (s.head h).presenceCandidate.level = active then s'
  else
    let s' := s'.modHead h fun x => { x with presenceCandidate := ⟨active, s.now⟩ }
    if s.settings.presence = 0 then takePresence h s' else s'

/-- The candidate of a head has not yet been taken. -/
def presenceWaits (h : HeadId) (s : State) : Bool :=
  decide ((s.head h).presence ≠ presenceOf (s.head h).presenceCandidate.level)

/-- When the candidate of a head will have held for the debounce time. -/
def presenceDue (h : HeadId) (s : State) : Ticks := (s.head h).presenceCandidate.since + msTicks s.settings.presence

/-- The candidate has held for the debounce time and is taken (R143). -/
def presenceExpires (h : HeadId) (s : State) : State :=
  if presenceWaits h s then takePresence h (s.advance (presenceDue h s)) else s

/-! ### Debounce of the feedback inputs, and the stroke expiry (R147, R150) -/

/-- The feedback input of a valve changes, now (R147). -/
def changeFeedback (h : HeadId) (v : ValveId) (active : Bool) (s : State) : State :=
  let s' := s.modValve h v fun x => { x with pin := active }
  if (s.valve h v).candidate.level = active then s'
  else
    let s' := s'.modValve h v fun x => { x with candidate := ⟨active, s.now⟩ }
    if s.settings.feedback = 0 then takeFeedback h v s' else s'

/-- The candidate of a valve has not yet been taken. -/
def feedbackWaits (h : HeadId) (v : ValveId) (s : State) : Bool :=
  decide ((s.valve h v).feedback ≠ feedbackOf (s.valve h v).candidate.level)

/-- When the candidate of a valve will have held for the debounce time. -/
def feedbackDue (h : HeadId) (v : ValveId) (s : State) : Ticks := (s.valve h v).candidate.since + msTicks s.settings.feedback

/-- The candidate of a valve has held for the debounce time and is taken (R147, R149). -/
def feedbackExpires (h : HeadId) (v : ValveId) (s : State) : State :=
  if feedbackWaits h v s then takeFeedback h v (s.advance (feedbackDue h v s)) else s

/-- The stroke of a STROKING valve expires: FAULTED, and a fault by the direction of the output (R150, R151). -/
def strokeExpires (h : HeadId) (v : ValveId) (s : State) : State :=
  match (s.valve h v).supervision, (s.valve h v).expiry with
  | .stroking, some t =>
    let k := if (s.valve h v).output then ValveFault.noOpen else ValveFault.stuckOpen
    valveFault h v k ((s.advance t).modValve h v fun x => { x with supervision := .faulted, expiry := none })
  | _, _ => s

/-! ### A new debounce time (R71, R143, R147) -/

/-- The container-present candidates that have held for the new time are taken at once (R143). -/
def retimePresence (s : State) : State :=
  forHeads (fun h s => if presenceDue h s ≤ s.now then takePresence h s else s) s

/-- The feedback candidates that have held for the new time are taken at once (R147). -/
def retimeFeedback (s : State) : State :=
  forValves (fun h v s => if feedbackDue h v s ≤ s.now then takeFeedback h v s else s) s

end Sys2Proof.Machine
end

