-- ==== Sys2Proof/Machine/Tables.lean ====
section
/-! DEFINITION. The requests on table memory and its segments (R56 to R64), the directory (R66), the head table (R68,
R69) and the node settings (R70, R71), and the check engine's completion (R62). Each request is a function from the slot
and the state to an answer and the state after it. -/

namespace Sys2Proof.Machine

/-! ### Answers -/

/-- What a request answers: its result code, its data words from word 0 onward, and the parameter field where the answer
writes it (R172, R181). -/
structure Answer where
  result : ResultCode
  words : List Word
  param : Option Half
  deriving DecidableEq, Repr

/-- A DONE answer that carries nothing. -/
def Answer.done : Answer := ⟨.done, [], none⟩

/-- A DONE answer with data words. -/
def Answer.data (ws : List Word) : Answer := ⟨.done, ws, none⟩

/-- A refusal, whose data words are 0 (R172). -/
def Answer.refuse (r : ResultCode) : Answer := ⟨r, [], none⟩

/-- A number as a data word. -/
def word (n : Nat) : Word := BitVec.ofNat 32 n

/-- The six data words as a list. -/
def dataList (d : DataWords) : List Word := [d.d0, d.d1, d.d2, d.d3, d.d4, d.d5]

/-! ### The segment map (R54 to R57) -/

/-- Change table memory and the segment map. -/
def State.modTables (f : Tables → Tables) (s : State) : State := { s with tables := f s.tables }

/-- A segment entry. -/
def State.segment (s : State) (g : Fin 32) : Segment := s.tables.segments[g]

/-- Change a segment entry. -/
def State.modSegment (g : Fin 32) (f : Segment → Segment) (s : State) : State :=
  s.modTables fun t => { t with segments := t.segments.set g.val (f t.segments[g]) g.isLt }

/-- The record size of a kind (R54). -/
def recordSize : SegKind → Nat
  | .recipe => Config.recipeWords
  | .curve => Config.curveWords

/-- A placement shares a word with a defined segment (R56). -/
def sharesWord (base length : Nat) (s : State) : Bool :=
  s.tables.segments.toList.any fun g =>
    decide (g.state ≠ .undefined) && decide (max base g.base < min (base + length) (g.base + g.length))

/-- The segment is in the read set of the resolution in progress (R85). -/
def inReadSet (g : Fin 32) (s : State) : Bool :=
  match s.resolver.current with
  | some r => r.readSet.contains g
  | none => false

/-- SEGMENT DEFINE (R56). -/
def defineSegment (m : MgmtSlot) (s : State) : Answer × State :=
  let base := m.data.d1.toNat
  let length := m.data.d2.toNat
  match segmentOf m.data.d0, segKindOf m.data.d3 with
  | some g, some k =>
    if (s.segment g).state ≠ .undefined then (Answer.refuse .refusedState, s)
    else if length = 0 ∨ length % recordSize k ≠ 0 ∨ Config.tableWords < base + length then (Answer.refuse .refusedRange, s)
    else if sharesWord base length s then (Answer.refuse .refusedRange, s)
    else (Answer.done, s.modSegment g fun _ => ⟨.empty, some k, base, length, 0#16, 0#16⟩)
  | _, _ => (Answer.refuse .refusedRange, s)

/-- SEGMENT DELETE (R57). -/
def deleteSegment (m : MgmtSlot) (s : State) : Answer × State :=
  match segmentOf m.data.d0 with
  | none => (Answer.refuse .refusedRange, s)
  | some g =>
    if (s.segment g).state = .undefined then (Answer.refuse .refusedState, s)
    else if (s.segment g).state = .loading ∨ (s.segment g).state = .checking then (Answer.refuse .busy, s)
    else if inReadSet g s then (Answer.refuse .busy, s)
    else (Answer.done, s.modSegment g fun _ => Segment.none)

/-! ### Loading (R58 to R62) -/

/-- Another segment than `g` is open. -/
def otherOpen (g : Fin 32) (s : State) : Bool :=
  match s.tables.openSegment with
  | some o => decide (o ≠ g)
  | none => false

/-- LOAD OPEN (R59). -/
def openLoad (m : MgmtSlot) (s : State) : Answer × State :=
  match segmentOf m.data.d0 with
  | none => (Answer.refuse .refusedRange, s)
  | some g =>
    if (s.segment g).state = .undefined then (Answer.refuse .refusedState, s)
    else if otherOpen g s then (Answer.refuse .refusedState, s)
    else if (s.segment g).state = .checking then (Answer.refuse .busy, s)
    else if inReadSet g s then (Answer.refuse .busy, s)
    else
      (Answer.done,
        (s.modSegment g fun x => { x with state := .loading, expected := 0#16, computed := 0#16 }).modTables fun t =>
          { t with openSegment := some g, pointer := 0 })

/-- A refusal out of sequence, with the pointer value in data word 0 (R60, R61). -/
def Answer.sequence (s : State) : Answer := ⟨.refusedSequence, [word s.tables.pointer], none⟩

/-- LOAD DATA: its expected pointer stands in the parameter field, its count in the kind byte (R60, R183). -/
def loadWords (m : MgmtSlot) (s : State) : Answer × State :=
  let n := m.count.toNat
  if n = 0 ∨ 6 < n then (Answer.refuse .refusedRange, s)
  else
    match s.tables.openSegment with
    | none => (Answer.refuse .refusedState, s)
    | some g =>
      if m.param.toNat ≠ s.tables.pointer then (Answer.sequence s, s)
      else if (s.segment g).length < s.tables.pointer + n then (Answer.refuse .refusedRange, s)
      else
        (Answer.done,
          s.modTables fun t =>
            { t with
              words := Memory.writeWords t.words ((s.segment g).base + t.pointer) ((dataList m.data).take n)
              pointer := t.pointer + n })

/-- The check engine is checking another segment than `g`. -/
def checksOther (g : Fin 32) (s : State) : Bool :=
  match s.tables.check with
  | some c => decide (c.segment ≠ g)
  | none => false

/-- LOAD CLOSE: the check engine starts on the segment (R61). The check value is bits 15-0 of its word (R183). -/
def closeLoad (m : MgmtSlot) (s : State) : Answer × State :=
  match s.tables.openSegment with
  | none => (Answer.refuse .refusedState, s)
  | some g =>
    if s.tables.pointer ≠ (s.segment g).length then (Answer.sequence s, s)
    else if checksOther g s then (Answer.refuse .busy, s)
    else
      (⟨.accepted, [], none⟩,
        (s.modSegment g fun x => { x with state := .checking, expected := lowerHalf m.data.d0 }).modTables fun t =>
          { t with openSegment := none, pointer := 0, check := some ⟨g, 0⟩ })

/-- The words of a segment, from its base onward. -/
def segmentWords (g : Fin 32) (s : State) : List Word :=
  Memory.readWords s.tables.words (s.segment g).base (s.segment g).length

/-- The check engine completes (R62). With no check running there is nothing to complete. -/
def completeCheck (s : State) : State :=
  match s.tables.check with
  | none => s
  | some c =>
    let k := checkOfWords (segmentWords c.segment s)
    (s.modSegment c.segment fun x => { x with computed := k, state := if k = x.expected then .valid else .bad }).modTables
      fun t => { t with check := none }

/-! ### Reading back (R63, R64) -/

/-- SEGMENT STATUS; an UNDEFINED entry is reported with every other field 0 (R63, R183). -/
def segmentReport (m : MgmtSlot) (s : State) : Answer × State :=
  match segmentOf m.data.d0 with
  | none => (Answer.refuse .refusedRange, s)
  | some g =>
    let x := s.segment g
    (Answer.data
        (if x.state = .undefined then List.replicate 6 (word 0)
         else
          [word (segStateCode x.state), word (segKindCode x.kind), word x.base, word x.length,
            word (if s.tables.openSegment = some g then s.tables.pointer else 0), wordOfHalves x.expected x.computed]),
      s)

/-- TABLE READ (R64). -/
def readTable (m : MgmtSlot) (s : State) : Answer × State :=
  let index := m.data.d1.toNat
  let n := m.data.d2.toNat
  match segmentOf m.data.d0 with
  | none => (Answer.refuse .refusedRange, s)
  | some g =>
    if n = 0 ∨ 6 < n then (Answer.refuse .refusedRange, s)
    else if (s.segment g).state = .undefined then (Answer.refuse .refusedState, s)
    else if (s.segment g).length < index + n then (Answer.refuse .refusedRange, s)
    else (Answer.data (Memory.readWords s.tables.words ((s.segment g).base + index) n), s)

/-! ### The directory (R66) -/

/-- Set or remove a directory entry. -/
def setDirectory (n : Fin 128) (d : Option DirEntry) (s : State) : State :=
  { s with directory := s.directory.set n.val d n.isLt }

/-- DIRECTORY SET (R66). A removal names no segment and no index, so it is judged by its recipe number alone (log 18). -/
def directoryRequest (m : MgmtSlot) (s : State) : Answer × State :=
  if h : m.data.d0.toNat < 128 then
    match optionOf m.data.d1, segmentOf m.data.d2 with
    | some false, _ => (Answer.done, setDirectory ⟨m.data.d0.toNat, h⟩ none s)
    | some true, some g =>
      if 511 < m.data.d3.toNat then (Answer.refuse .refusedRange, s)
      else (Answer.done, setDirectory ⟨m.data.d0.toNat, h⟩ (some ⟨g, m.data.d3.toNat⟩) s)
    | _, _ => (Answer.refuse .refusedRange, s)
  else (Answer.refuse .refusedRange, s)

/-! ### The head table (R67 to R69) -/

/-- The stroke times of a HEAD SET of group PLACE (R183). -/
def strokesOf (d : DataWords) : PerValve Nat :=
  ⟨bits d.d4 31 24, bits d.d4 23 16, bits d.d4 15 8, bits d.d4 7 0, d.d5.toNat⟩

/-- A stroke time is in range (R67). -/
def strokeOk (ms : Nat) : Bool := inRange 5 250 ms

/-- The fields of group PLACE are in range (R67). -/
def placeOk (d : DataWords) (s : State) : Bool :=
  decide (d.d2.toNat < s.settings.nPos) && inRange 0 1000 (upperHalf d.d3).toNat && inRange 1 20000 (lowerHalf d.d3).toNat &&
    allValves.all fun v => strokeOk ((strokesOf d).get v)

/-- A curve reference as its word holds it (R183). -/
def curveRefOf (w : Word) : CurveRef := ⟨(upperHalf w).toNat, (lowerHalf w).toNat⟩

/-- A curve reference is in range (R67). -/
def curveRefOk (c : CurveRef) : Bool := inRange 0 31 c.segment && inRange 0 1023 c.index

/-- The fields of group METERS are in range (R67). -/
def metersOk (d : DataWords) : Bool :=
  inRange 1000 200000 d.d2.toNat && inRange 1000 200000 d.d3.toNat && curveRefOk (curveRefOf d.d4) &&
    curveRefOk (curveRefOf d.d5)

/-- The fields of group AFTERFLOW are in range (R67). -/
def afterflowOk (d : DataWords) : Bool := inRange 0 50000000 d.d2.toNat && inRange 0 50000000 d.d3.toNat

/-- The record after a HEAD SET of group PLACE. -/
def HeadRecord.setPlace (d : DataWords) (t : HeadRecord) : HeadRecord :=
  { t with
    position := d.d2.toNat
    offset := (upperHalf d.d3).toNat
    gain := (lowerHalf d.d3).toNat
    strokes := strokesOf d }

/-- The record after a HEAD SET of group METERS. -/
def HeadRecord.setMeters (d : DataWords) (t : HeadRecord) : HeadRecord :=
  { t with weight := ⟨d.d2.toNat, d.d3.toNat⟩, curve := ⟨curveRefOf d.d4, curveRefOf d.d5⟩ }

/-- The record after a HEAD SET of group AFTERFLOW, which clamps the learned afterflows (R69). -/
def HeadRecord.setAfterflow (d : DataWords) (t : HeadRecord) : HeadRecord :=
  { t with
    afterflowMax := ⟨d.d2.toNat, d.d3.toNat⟩
    learned := ⟨min t.learned.main d.d2.toNat, min t.learned.additive d.d3.toNat⟩ }

/-- A group of HEAD SET is written when the head is OFF and the fields are in range (R68, tests 2 and 3). -/
def setRecord (h : HeadId) (ok : Bool) (f : HeadRecord → HeadRecord) (s : State) : Answer × State :=
  if (s.seq h).state ≠ .off then (Answer.refuse .refusedState, s)
  else if ok then (Answer.done, s.modTable h f)
  else (Answer.refuse .refusedRange, s)

/-- HEAD SET (R68, R69). -/
def headSet (m : MgmtSlot) (s : State) : Answer × State :=
  let d := m.data
  match headOf d.d0 with
  | none => (Answer.refuse .refusedRange, s)
  | some h =>
    if d.d1 = 1#32 then setRecord h (placeOk d s) (HeadRecord.setPlace d) s
    else if d.d1 = 2#32 then setRecord h (metersOk d) (HeadRecord.setMeters d) s
    else if d.d1 = 3#32 then setRecord h (afterflowOk d) (HeadRecord.setAfterflow d) s
    else (Answer.refuse .refusedRange, s)

/-! ### The node settings (R70, R71) -/

/-- The settings that a NODE SET carries (R183). -/
def settingsOf (d : DataWords) : Settings :=
  ⟨d.d0.toNat, d.d1.toNat, d.d2.toNat, (upperHalf d.d3).toNat, (lowerHalf d.d3).toNat, d.d4.toNat, d.d5.toNat⟩

/-- Every setting is in range (R70). -/
def settingsOk (x : Settings) : Bool :=
  inRange 2 512 x.nPos && [16, 32, 48, 64].contains x.depth && inRange 2 16 x.holdover && inRange 0 20 x.presence &&
    inRange 0 20 x.feedback && inRange 0 1000 x.bowlOffset && inRange 1 20000 x.bowlGain

/-- A head is in a state other than OFF or IDLE (R70, test 1). -/
def headBusy (s : State) : Bool :=
  allHeads.any fun h => decide ((s.seq h).state ≠ .off) && decide ((s.seq h).state ≠ .idle)

/-- A head that is not OFF stands at position `nPos` or more (R70, test 3). -/
def positionBeyond (nPos : Nat) (s : State) : Bool :=
  allHeads.any fun h => decide ((s.seq h).state ≠ .off) && decide (nPos ≤ (s.head h).table.position)

/-- The last position of the sequence, or that of the join reference, is `nPos` or greater (R36). -/
def lastPositionBeyond (nPos : Nat) (p : PitchTimer) : Bool :=
  p.sequence.any (fun q => decide (nPos ≤ q.position)) || p.joinRef.any fun r => decide (nPos ≤ r.position)

/-- A changed N_pos judges the last position anew; sequence and join reference stay (R36, log 32). -/
def rejudgePosition (old nPos : Nat) (p : PitchTimer) : PitchTimer :=
  if nPos = old then p else { p with lastBeyond := lastPositionBeyond nPos p }

/-- The settings take their new values, the last position is judged by a changed N_pos (R36), the near-full
arming is armed, and a debounce that has changed is judged against the candidates that wait (R71, R143, R147, log 28). -/
def applySettings (x : Settings) (s : State) : State :=
  let old := s.settings
  let s :=
    { s with settings := x, queue := { s.queue with armed := true }, pitch := rejudgePosition old.nPos x.nPos s.pitch }
  let s := if x.presence = old.presence then s else retimePresence s
  if x.feedback = old.feedback then s else retimeFeedback s

/-- NODE SET (R70, R71). -/
def nodeSetRequest (m : MgmtSlot) (s : State) : Answer × State :=
  let x := settingsOf m.data
  if headBusy s || !s.queue.entries.isEmpty then (Answer.refuse .busy, s)
  else if !settingsOk x then (Answer.refuse .refusedRange, s)
  else if positionBeyond x.nPos s then (Answer.refuse .refusedRange, s)
  else (Answer.done, applySettings x s)

end Sys2Proof.Machine
end

