-- ==== Sys2Proof/Machine/Events.lean ====
section
/-! DEFINITION. The meanings of the rows that are the node's own events and those of its field lines: the check engine
and the Resolver (R62, R78, R87), head timers (R93, R99), meters (R121, R125), conversions (R134), valve feedback and
strokes (R147, R150), and container presence (R143). -/

namespace Sys2Proof.Machine

/-! ### Check engine and Resolver -/

/-- CHECK_COMPLETE (R62). -/
def execCheckComplete (t : Ticks) (s : State) : Host.Outcome State Fault Refusal := .next (completeCheck (s.advance t))

/-- The resolution in progress goes one stage further (R78, log 16). One that ends with a fault completes at that point,
with its outcome (R85, R87). -/
def stepResolution (s : State) : State :=
  match s.resolver.current with
  | none => s
  | some r =>
    let r := stageStep r s
    let s := { s with resolver := { s.resolver with current := some r } }
    match r.stage with
    | .failed _ _ => completeResolution s
    | .following _ => s
    | .merged _ => s
    | .mainRead _ _ => s
    | .curvesRead _ _ _ => s

/-- RESOLUTION_STEP (R78). -/
def execResolutionStep (t : Ticks) (s : State) : Host.Outcome State Fault Refusal := .next (stepResolution (s.advance t))

/-- RESOLUTION_COMPLETE (R87). -/
def execResolutionComplete (t : Ticks) (s : State) : Host.Outcome State Fault Refusal :=
  .next (completeResolution (s.advance t))

/-! ### Head timers -/

/-- The time of expiry of the entry timer of a head in an active cycle, while its entry is in the given progress. -/
def timerDue (h : HeadId) (p : Progress) (s : State) : Option Ticks :=
  if (s.seq h).state.active && (s.seq h).progress == p then (s.seq h).timer else none

/-- The time limit of the entry in progress expires, if it runs (R93, log 2). -/
def phaseLimitExpires (h : HeadId) (s : State) : State :=
  match timerDue h .active s, currentEntry h s with
  | some t, some e => timeLimitExpires h e (s.advance t)
  | _, _ => s

/-- PHASE_TIME_LIMIT_EXPIRY (R93). -/
def execPhaseTimeLimitExpiry (h : HeadId) (s : State) : Host.Outcome State Fault Refusal := .next (phaseLimitExpires h s)

/-- The hold time of a SNIFT entry expires, if it runs, and the cycle goes on (R99, log 2). -/
def holdExpires (h : HeadId) (s : State) : State :=
  match timerDue h .holding s with
  | some t => goOn h ((s.advance t).modSeq h fun q => { q with timer := none })
  | none => s

/-- SNIFT_HOLD_EXPIRY (R99). -/
def execSniftHoldExpiry (h : HeadId) (s : State) : Host.Outcome State Fault Refusal := .next (holdExpires h s)

/-! ### Conversions and meters -/

/-- CONVERSION_COMPLETE (R134, R140). -/
def execConversionComplete (raw : BitVec 12) (s : State) : Host.Outcome State Fault Refusal :=
  .next (completeConversion raw s)

/-- METER_PULSE (R121). While RESET is held the pulse inputs are not taken (log 5). -/
def execMeterPulse (t : Ticks) (h : HeadId) (m : Meter) (s : State) : Host.Outcome State Fault Refusal :=
  if s.resetHeld then .next (s.advance t) else .next (takePulse h m (s.advance t))

/-- The settle window of a channel expires, unless the settle limit comes before it (R125, log 3). -/
def windowEnds (h : HeadId) (m : Meter) (s : State) : State :=
  if (s.chan h m).state = .settling ∧ windowDue h m s ≤ limitDue h m s then
    takeSettleEnd h m .window (s.advance (windowDue h m s))
  else s

/-- SETTLE_WINDOW_EXPIRY (R125). -/
def execSettleWindowExpiry (h : HeadId) (m : Meter) (s : State) : Host.Outcome State Fault Refusal := .next (windowEnds h m s)

/-- The settle limit of a channel expires, unless the settle window comes before it (R125, log 3). -/
def limitEnds (h : HeadId) (m : Meter) (s : State) : State :=
  if (s.chan h m).state = .settling ∧ limitDue h m s ≤ windowDue h m s then
    takeSettleEnd h m .limit (s.advance (limitDue h m s))
  else s

/-- SETTLE_LIMIT_EXPIRY (R125). -/
def execSettleLimitExpiry (h : HeadId) (m : Meter) (s : State) : Host.Outcome State Fault Refusal := .next (limitEnds h m s)

/-! ### Feedback and presence inputs -/

/-- FEEDBACK_INPUT_CHANGE (R147). While RESET is held only the level of the input is followed (log 5). -/
def execFeedbackInputChange (t : Ticks) (h : HeadId) (v : ValveId) (active : Bool) (s : State) :
    Host.Outcome State Fault Refusal :=
  if s.resetHeld then .next ((s.advance t).modValve h v fun x => { x with pin := active })
  else .next (changeFeedback h v active (s.advance t))

/-- FEEDBACK_DEBOUNCE_EXPIRY (R147, R149). No debounce runs while RESET is held (log 5). -/
def execFeedbackDebounceExpiry (h : HeadId) (v : ValveId) (s : State) : Host.Outcome State Fault Refusal :=
  if s.resetHeld then .next s else .next (feedbackExpires h v s)

/-- STROKE_EXPIRY (R150, R151). -/
def execStrokeExpiry (h : HeadId) (v : ValveId) (s : State) : Host.Outcome State Fault Refusal := .next (strokeExpires h v s)

/-- CONTAINER_PRESENT_CHANGE (R143). While RESET is held only the level of the input is followed (log 5). -/
def execContainerPresentChange (t : Ticks) (h : HeadId) (active : Bool) (s : State) : Host.Outcome State Fault Refusal :=
  if s.resetHeld then .next ((s.advance t).modHead h fun x => { x with presentPin := active })
  else .next (changePresence h active (s.advance t))

/-- CONTAINER_DEBOUNCE_EXPIRY (R143). No debounce runs while RESET is held (log 5). -/
def execContainerDebounceExpiry (h : HeadId) (s : State) : Host.Outcome State Fault Refusal :=
  if s.resetHeld then .next s else .next (presenceExpires h s)

end Sys2Proof.Machine
end

