-- ==== Sys2Proof/Machine/Assign.lean ====
section
/-! DEFINITION. The Assignment Queue: how a slot is judged (R39 to R41), the near-full alarm (R42), stale discard (R43),
hand-over (R44 to R46), the records of discarded entries (R47) and clearing (R48, R49). -/

namespace Sys2Proof.Machine

/-! ### Judging a slot (R39 to R42) -/

/-- A slot is considered when its address is the latched address and its kind is not EMPTY, TAKEN or REFUSED (R39). -/
def slotConsidered (a : AssignSlot) (s : State) : Bool :=
  decide (s.ring.state = .locked) && decide (addressOf a.node = s.ring.address) && s.ring.address.isSome &&
    decide (a.kind ≠ 0#8) && decide (a.kind ≠ 3#8) && decide (a.kind ≠ 4#8)

/-- A head whose state is other than OFF holds a carousel position (R40). -/
def positionServed (p : Nat) (s : State) : Bool :=
  allHeads.any fun h => decide ((s.seq h).state ≠ .off) && decide ((s.head h).table.position = p)

/-- The last processed serial and the current infeed position, against which slots are judged (R39). In LOCKED the
sequence is present. -/
def processed (s : State) : Half × Nat :=
  match s.pitch.sequence with
  | some q => (q.serial, q.position)
  | none => (0#16, 0)

/-- The slot's target is not ahead of the newest entry's (R40). -/
def outOfOrder (serial : Half) (es : List QueueEntry) : Bool :=
  match es.getLast? with
  | some e => !isAhead e.serial serial
  | none => false

/-- The first check of R40 that a slot fails. -/
def slotRefusal (a : AssignSlot) (s : State) : Option SlotReason :=
  let c := (processed s).1
  let p := (processed s).2
  if 127 < a.recipe.toNat ∨ (a.kind ≠ 1#8 ∧ a.kind ≠ 2#8) then some .range
  else if !positionServed a.position.toNat s then some .noHead
  else if !isAhead c a.serial then some .late
  else if Config.maxLead < serialDistance c a.serial then some .tooFar
  else if a.position.toNat ≠ positionAfter s.settings.nPos p (serialDistance c a.serial) then some .mismatch
  else if outOfOrder a.serial s.queue.entries then some .order
  else if s.settings.depth ≤ s.queue.entries.length then some .full
  else none

/-- The entry of an accepted slot (R41). -/
def entryOfSlot (a : AssignSlot) : QueueEntry :=
  ⟨a.serial, a.position.toNat, a.recipe.toNat, if a.kind = 1#8 then .container else .gap, traceMark a.flags⟩

/-- The free places of the queue (R37). -/
def freePlaces (s : State) : Nat := s.settings.depth - s.queue.entries.length

/-- An entry joins at the newest end, and the near-full test is made (R41, R42). -/
def appendEntry (e : QueueEntry) (s : State) : State :=
  let s := { s with queue := { s.queue with entries := s.queue.entries ++ [e] } }
  if s.queue.armed && decide (freePlaces s ≤ 2) then
    raiseAlarm .queueNearFull nodeByte s.queue.entries.length s.settings.depth { s with queue := { s.queue with armed := false } }
  else s

/-- A slot as the queue leaves it, and its effect (R39 to R41). -/
def takeSlot (a : AssignSlot) (s : State) : AssignSlot × State :=
  if slotConsidered a s then
    match slotRefusal a s with
    | some r => ({ a with kind := 4#8, flags := BitVec.ofNat 8 r.code }, countEvent .assignRefused s)
    | none => ({ a with kind := 3#8 }, appendEntry (entryOfSlot a) s)
  else (a, s)

/-! ### Removal, discard and hand-over (R42 to R49) -/

/-- After a removal, 4 or more free places arm the alarm again (R42). -/
def rearm (s : State) : State :=
  if 4 ≤ freePlaces s then { s with queue := { s.queue with armed := true } } else s

/-- The record and the totals of one discarded entry: a GAP entry has none (R47, R163). -/
def discardRecord (head : Byte) (reason : NotServedReason) (e : QueueEntry) (s : State) : State :=
  if e.kind = .container then
    enterUnreserved (notServedRecord head e.serial e.recipe reason e.position 0) (countNotServed e.recipe reason s)
  else s

/-- The records of entries discarded together, oldest first (R47). -/
def discardRecords (reason : NotServedReason) (es : List QueueEntry) (s : State) : State :=
  es.foldl (fun s e => discardRecord nodeByte reason e s) s

/-- Every entry is discarded (R48, R49); the arming is armed, the depth kept. -/
def clearQueue (reason : NotServedReason) (s : State) : State :=
  discardRecords reason s.queue.entries { s with queue := ⟨[], true⟩ }

/-- The entries whose target is behind `c` are discarded as STALE, oldest first (R43). -/
def discardStale (c : Half) (s : State) : State :=
  let stale := s.queue.entries.filter fun e => isBehind c e.serial
  let kept := s.queue.entries.filter fun e => !isBehind c e.serial
  if stale.isEmpty then s
  else
    stale.foldl (fun s e => discardRecord nodeByte .stale e (countEvent .assignStale s))
      (rearm { s with queue := { s.queue with entries := kept } })

/-- The heads whose carousel position is `p`, whatever their state (R44). -/
def headsAt (p : Nat) (s : State) : List HeadId := allHeads.filter fun h => decide ((s.head h).table.position = p)

/-- The head for which an entry is applied: the lowest-numbered IDLE head concerned, or the lowest-numbered (R44). -/
def chosenHead (p : Nat) (s : State) : Option HeadId :=
  match (headsAt p s).find? fun h => decide ((s.seq h).state = .idle) with
  | some h => some h
  | none => (headsAt p s).head?

/-- At a pitch event the entry whose target is `c` is removed and handed over, or discarded (R44 to R46). The answer is
the head that takes the entry, with the entry: it becomes that head's infeed entry as the head takes the event
(`takeInfeed`). -/
def handOver (c : Half) (p : Nat) (k : EventKind) (s : State) : Option (HeadId × QueueEntry) × State :=
  match chosenHead p s, s.queue.entries with
  | some h, e :: rest =>
    if e.serial = c then
      let s' := rearm { s with queue := { s.queue with entries := rest } }
      if (s.seq h).state ≠ .idle then (none, discardRecord (headByte h) .headUnavailable e s')
      else if k = .estimated ∨ s.ring.state = .holdover then (none, discardRecord (headByte h) .holdover e s')
      else (some (h, e), s')
    else (none, s)
  | _, _ => (none, s)

end Sys2Proof.Machine
end

