-- ==== Sys2Proof/WellFormed.lean ====
section
/-! DEFINITION. When a command is a well-formed instance of its row: what the row's name says of its operands. `exec`
is total and goes by the bytes of the frame or slot, so an ill-formed command has an effect too (log 24). -/

namespace Sys2Proof

/-- The frame kinds that are defined (R182): 1 PITCH, 2 SERVICE. -/
def definedFrameKind (k : Byte) : Bool := k == 1#8 || k == 2#8

/-- The assignment slot kinds that are defined (R182). -/
def definedAssignKind (k : Byte) : Bool := k.toNat ≤ 4

/-- The request kinds that are defined (R182): 1 to 21. -/
def definedRequestKind (k : BitVec 5) : Bool := 1 ≤ k.toNat && k.toNat ≤ 21

/-- The kinds open to broadcast (R173). -/
def broadcastKind (k : BitVec 5) : Bool :=
  [1, 2, 3, 4, 5, 8, 10, 11, 15, 16].contains k.toNat

/-- A frame of a row carries the kind that the row names; a frame of undefined kind carries neither (R4, R182). An
undefined request is of an undefined kind, or is sent to 63 and not open to broadcast (R173). A slot of undefined kind
is none of the five of R182. -/
def Instr.wf : Instr → Bool
  | .pitchFrame _ f => f.kind == 1#8
  | .serviceFrame _ f => f.kind == 2#8
  | .frameOfUndefinedKind _ f => !definedFrameKind f.kind
  | .assignmentOfUndefinedKind _ a => !definedAssignKind a.kind
  | .undefinedRequest _ m => m.state == 1#2 && (!definedRequestKind m.kind || (m.dest == 63#6 && !broadcastKind m.kind))
  | _ => true

end Sys2Proof
end

