-- ==== Sys2Proof/Machine/Management.lean ====
section
/-! DEFINITION. The requests on the queue, the heads, counters, totals, trace and the node as a whole, and the handling
of the management slot: which slots are handled, how they are judged, and how answers are written (R172 to R174). -/

namespace Sys2Proof.Machine

/-! ### QUEUE CLEAR (R48) -/

/-- QUEUE CLEAR answers the number of entries discarded. -/
def queueClearRequest (s : State) : Answer × State :=
  (Answer.data [word s.queue.entries.length], clearQueue .queueCleared s)

/-! ### HEAD CONTROL (R110 to R113) -/

/-- A pulse weight of the head is 0, or its position is N_pos or more (R112). -/
def recordUnfit (h : HeadId) (s : State) : Bool :=
  let t := (s.head h).table
  decide (t.weight.main = 0) || decide (t.weight.additive = 0) || decide (s.settings.nPos ≤ t.position)

/-- ON (R112). -/
def headOn (h : HeadId) (s : State) : Answer × State :=
  if (s.seq h).state ≠ .off then (Answer.refuse .refusedState, s)
  else if recordUnfit h s then (Answer.refuse .refusedRange, s)
  else
    (Answer.done,
      s.modSeq h fun q =>
        { q with
          state := freeState s
          planIndex := 0
          progress := .none
          timer := none
          flags := CycleFlags.clear
          entry := none
          faultPending := false })

/-- The effects of OFF: outputs closed, every cycle item clear, the two debounce counts among them (log 40), and a conversion
of the head abandoned (R112, R136). -/
def turnOff (h : HeadId) (s : State) : State :=
  let s := clearEqualised h (closeAll h s)
  abandonConversion h
    (s.modSeq h fun q => { Sequencer.reset with state := .off, reserved := q.reserved, elapsed := q.elapsed })

/-- OFF (R112). -/
def headOff (h : HeadId) (s : State) : Answer × State :=
  match (s.seq h).state with
  | .off => (Answer.refuse .refusedState, s)
  | .idle => (Answer.done, turnOff h s)
  | .fault => (Answer.done, turnOff h s)
  | .held => (Answer.done, turnOff h s)
  | .resolving => (Answer.refuse .busy, s)
  | .running => (Answer.refuse .busy, s)
  | .forcedSnift => (Answer.refuse .busy, s)
  | .stepHold => (Answer.refuse .busy, s)

/-- All five feedback levels of a head show closed (R113). -/
def allClosed (h : HeadId) (s : State) : Bool := allValves.all fun v => (s.valve h v).feedback == .closed

/-- CLEAR (R113). -/
def headClear (h : HeadId) (s : State) : Answer × State :=
  if (s.seq h).state ≠ .fault then (Answer.refuse .refusedState, s)
  else if allClosed h s then
    (Answer.done, s.modSeq h fun q => { q with state := freeState s, faultPending := false })
  else (Answer.refuse .refusedState, s)

/-- FORGET (R113). -/
def headForget (h : HeadId) (s : State) : Answer × State :=
  if (s.seq h).state = .idle ∨ (s.seq h).state = .off then
    (Answer.done, s.modTable h fun t => { t with learned := ⟨0, 0⟩, lastRecipe := none })
  else (Answer.refuse .refusedState, s)

/-- STEP_ON (R110). -/
def headStepOn (h : HeadId) (s : State) : Answer × State :=
  if (s.seq h).state = .idle ∧ s.pitch.carousel ≠ .running then
    (Answer.done, s.modSeq h fun q => { q with stepMode := true })
  else (Answer.refuse .refusedState, s)

/-- STEP_OFF (R110). -/
def headStepOff (h : HeadId) (s : State) : Answer × State := (Answer.done, endStepMode h s)

/-- STEP (R111). -/
def headStep (h : HeadId) (s : State) : Answer × State :=
  if (s.seq h).state = .stepHold then (Answer.done, resumeStep h s) else (Answer.refuse .refusedState, s)

/-- HEAD CONTROL: head in word 0, action in word 1 (R183, section 6.12). -/
def headControl (m : MgmtSlot) (s : State) : Answer × State :=
  match headOf m.data.d0, m.data.d1.toNat with
  | some h, 1 => headOn h s
  | some h, 2 => headOff h s
  | some h, 3 => headClear h s
  | some h, 4 => headForget h s
  | some h, 5 => headStepOn h s
  | some h, 6 => headStepOff h s
  | some h, 7 => headStep h s
  | _, _ => (Answer.refuse .refusedRange, s)

/-! ### COUNTERS READ and TOTALS READ (R162, R164) -/

/-- The ten counters, two to a word in id order (R162). -/
def counterWords (s : State) : List Word :=
  [wordOfHalves s.counters[0] s.counters[1], wordOfHalves s.counters[2] s.counters[3],
    wordOfHalves s.counters[4] s.counters[5], wordOfHalves s.counters[6] s.counters[7],
    wordOfHalves s.counters[8] s.counters[9]]

/-- COUNTERS READ (R162). -/
def countersRequest (m : MgmtSlot) (s : State) : Answer × State :=
  match optionOf m.data.d0 with
  | none => (Answer.refuse .refusedRange, s)
  | some false => (Answer.data (counterWords s), s)
  | some true => (Answer.data (counterWords s), { s with counters := Vector.replicate 10 0#16 })

/-- A row of totals in six words (R164, R183). -/
def totalsWords (t : TotalsRow) : List Word :=
  [word t.goodCount, word t.underCount, word t.overCount, word t.unservedCount, word (t.volumeSum / 2 ^ 32 % 2 ^ 16),
    word (t.volumeSum % 2 ^ 32)]

/-- TOTALS READ (R164). -/
def totalsRequest (m : MgmtSlot) (s : State) : Answer × State :=
  if h : m.data.d0.toNat < 128 then
    match optionOf m.data.d1 with
    | none => (Answer.refuse .refusedRange, s)
    | some false => (Answer.data (totalsWords s.totals[m.data.d0.toNat]), s)
    | some true =>
      (Answer.data (totalsWords s.totals[m.data.d0.toNat]),
        { s with totals := s.totals.set m.data.d0.toNat TotalsRow.zero h })
  else (Answer.refuse .refusedRange, s)

/-! ### TRACE ARM, TRACE STOP, TRACE READ (R166, R170, R171) -/

/-- Descriptor B rather than A. -/
def Trace.get (isB : Bool) (t : Trace) : Descriptor := if isB then t.b else t.a

/-- Write one descriptor. -/
def State.setTrace (isB : Bool) (d : Descriptor) (s : State) : State :=
  { s with trace := if isB then { s.trace with b := d } else { s.trace with a := d } }

/-- The state that an accepted arm gives (R166). -/
def armedState (t : Trigger) (link : Bool) : TraceState := if t = .immediate ∧ link = false then .running else .armed

/-- A descriptor with every field written and both counts 0, its buffer kept (R166). -/
def Descriptor.arm (h : HeadId) (g : Signal) (divider length : Nat) (t : Trigger) (link : Bool) (d : Descriptor) :
    Descriptor :=
  { d with
    state := armedState t link
    head := h
    signal := g
    divider := divider
    length := length
    trigger := t
    link := link
    ticks := 0
    samples := 0 }

/-- Tests 2 and 3 of R166, and the arm. -/
def armDescriptor (isB : Bool) (h : HeadId) (g : Signal) (divider length : Nat) (t : Trigger) (link : Bool) (s : State) :
    Answer × State :=
  if (s.trace.get isB).state = .running then (Answer.refuse .busy, s)
  else if armedState t link = .running ∧ (s.trace.get (!isB)).state = .running then (Answer.refuse .busy, s)
  else (Answer.done, s.setTrace isB ((s.trace.get isB).arm h g divider length t link))

/-- TRACE ARM: test 1 of R166 judges the arguments. -/
def traceArmRequest (m : MgmtSlot) (s : State) : Answer × State :=
  let d := m.data
  match optionOf d.d0, headOf d.d1, signalOf d.d2, triggerOf (lowerHalf d.d5), optionOf ((upperHalf d.d5).setWidth 32) with
  | some isB, some h, some g, some t, some link =>
    if !inRange 1 64 d.d3.toNat || !inRange 1 512 d.d4.toNat || (link && !isB) then (Answer.refuse .refusedRange, s)
    else armDescriptor isB h g d.d3.toNat d.d4.toNat t link s
  | _, _, _, _, _ => (Answer.refuse .refusedRange, s)

/-- A descriptor after TRACE STOP (R170). -/
def Descriptor.stop (d : Descriptor) : Descriptor :=
  match d.state with
  | .running => { d with state := .stopped }
  | .armed => { d with state := .idle }
  | .idle => d
  | .done => d
  | .stopped => d

/-- TRACE STOP (R170). -/
def traceStopRequest (m : MgmtSlot) (s : State) : Answer × State :=
  match optionOf m.data.d0 with
  | none => (Answer.refuse .refusedRange, s)
  | some isB => (Answer.done, s.setTrace isB (s.trace.get isB).stop)

/-- A buffer place, 0 beyond the last (R171). -/
def bufferPlace (b : Vector Half 512) (i : Nat) : Half := if h : i < 512 then b[i] else 0#16

/-- Twelve places from an offset, two to a word (R171). -/
def bufferWords (b : Vector Half 512) (offset : Nat) : List Word :=
  (List.range 6).map fun k => wordOfHalves (bufferPlace b (offset + 2 * k)) (bufferPlace b (offset + 2 * k + 1))

/-- The parameter field of a TRACE READ answer: state in bits 15-13, sample count in bits 9-0 (R181). -/
def traceParam (d : Descriptor) : Half := BitVec.ofNat 16 (2 ^ 13 * traceStateCode d.state + d.samples)

/-- TRACE READ (R171). -/
def traceReadRequest (m : MgmtSlot) (s : State) : Answer × State :=
  match optionOf m.data.d0 with
  | none => (Answer.refuse .refusedRange, s)
  | some isB =>
    if 511 < m.data.d1.toNat then (Answer.refuse .refusedRange, s)
    else
      let d := s.trace.get isB
      (⟨.done, bufferWords d.buffer m.data.d1.toNat, some (traceParam d)⟩, s)

/-! ### NODE STATUS and HEAD STATUS (R175, R176, R183) -/

/-- A number as one byte of a composed word. -/
def byte (n : Nat) : Byte := BitVec.ofNat 8 n

/-- A number as one half of a composed word. -/
def half (n : Nat) : Half := BitVec.ofNat 16 n

/-- The eight head states, head 0 in bits 31-28 (R183). -/
def headStatesWord (s : State) : Word :=
  word (allHeads.foldl (fun n h => 16 * n + headStateCode (s.seq h).state) 0)

/-- The six words of NODE STATUS (R175, R183). -/
def nodeStatusWords (s : State) : List Word :=
  [wordOfBytes (byte (ringStateCode s.ring.state)) (byte (match s.ring.address with | some a => a.val | none => 255))
      (byte s.ring.badCount) (byte (carouselCode s.pitch.carousel)),
    word (s.pitch.estimate.getD 0),
    wordOfHalves (processed s).1 (half (processed s).2),
    headStatesWord s,
    wordOfBytes (byte s.queue.entries.length) (byte s.settings.depth) (byte s.orq.records.length)
      (byte s.orq.reservations),
    wordOfHalves (half (s.scanner.bowl.value.getD 0))
      (half (4 * bitOf s.pitch.sequence.isSome + 2 * bitOf s.orq.lost + bitOf s.scanner.bowl.fault))]

/-- The code of the entry at the plan index, 0 for none (R176, R183). -/
def entryKindCode (h : HeadId) (s : State) : Nat :=
  match currentEntry h s with
  | some e => phaseKindCode e.kind
  | none => 0

/-- HEAD STATUS, part CYCLE (R176, R183). With no infeed entry held the target serial field is 0 (log 39). -/
def cycleStatusWords (h : HeadId) (s : State) : List Word :=
  let q := s.seq h
  [wordOfBytes (byte (headStateCode q.state)) (byte q.planIndex) (byte (progressCode q.progress)) (byte (entryKindCode h s)),
    word (256 * (cycleFlagsByte q.flags).toNat + 16 * bitOf q.stepMode + 8 * bitOf q.equalised + 4 * bitOf q.sniftBegun +
      2 * bitOf q.faultPending + bitOf q.reserved),
    word (q.elapsed.getD 65535),
    word (65536 * bitOf q.entry.isSome + (match q.entry with | some e => e.serial.toNat | none => 0))]

/-- A valve byte: commanded OPEN in bit 0, feedback in bits 2-1, supervision in bits 4-3 (R183). -/
def valveByte (v : Valve) : Byte := byte (bitOf v.output + 2 * feedbackCode v.feedback + 8 * supervisionCode v.supervision)

/-- A last raw reading, 65,535 while absent (R183). -/
def rawWord (c : ScanChannel) : Word :=
  match c.raw with
  | some r => word r.toNat
  | none => word 65535

/-- HEAD STATUS, part VALVES (R176, R183). -/
def valveStatusWords (h : HeadId) (s : State) : List Word :=
  let x := s.head h
  [wordOfBytes (valveByte x.valves.gas) (valveByte x.valves.fast) (valveByte x.valves.slow) (valveByte x.valves.add),
    wordOfBytes (valveByte x.valves.snift) (byte (presenceCode x.presence)) (byte (bitOf x.scan.fault)) 0#8,
    word (x.scan.value.getD 0),
    word x.stray,
    rawWord x.scan,
    rawWord s.scanner.bowl]

/-- HEAD STATUS, part METERING (R176, R132, R183). -/
def meteringStatusWords (h : HeadId) (s : State) : List Word :=
  let x := s.head h
  [wordOfBytes (byte (x.table.lastRecipe.getD 255)) 0#8 (byte (channelStateCode x.chan.main.state))
      (byte (channelStateCode x.chan.additive.state)),
    word (currentVolume x.chan.main),
    word (currentVolume x.chan.additive),
    word x.table.learned.main,
    word x.table.learned.additive,
    word x.lastAdditive]

/-- HEAD STATUS: head in word 0, part in word 1 (R176, R183). -/
def headStatusRequest (m : MgmtSlot) (s : State) : Answer × State :=
  match headOf m.data.d0, m.data.d1.toNat with
  | some h, 1 => (Answer.data (cycleStatusWords h s), s)
  | some h, 2 => (Answer.data (valveStatusWords h s), s)
  | some h, 3 => (Answer.data (meteringStatusWords h s), s)
  | _, _ => (Answer.refuse .refusedRange, s)

/-! ### NODE RESET and TEST (R177, R179) -/

/-- A head is RESOLVING or has an active cycle (R177). -/
def cycleInProgress (s : State) : Bool :=
  allHeads.any fun h => decide ((s.seq h).state = .resolving) || (s.seq h).state.active

/-- NODE RESET: the soft reset is scheduled for the moment at which the frame leaves (R177, log 9). -/
def nodeResetRequest (s : State) : Answer × State :=
  if cycleInProgress s then (Answer.refuse .busy, s) else (Answer.done, { s with resetScheduled := true })

/-- TEST, whose actions are 1 DAMAGE_NEXT and 2 FORCE_RAIL (R179, R183). -/
def testRequest (m : MgmtSlot) (s : State) : Answer × State :=
  match m.data.d0.toNat, headOf m.data.d1 with
  | 1, _ =>
    if s.pitch.carousel = .running then (Answer.refuse .refusedState, s)
    else (Answer.done, { s with ring := { s.ring with damagePending := true } })
  | 2, some h =>
    if s.pitch.carousel = .running then (Answer.refuse .refusedState, s)
    else (Answer.done, s.modHead h fun x => { x with forced := 2 })
  | _, _ => (Answer.refuse .refusedRange, s)

/-! ### Judging and answering a slot (R172 to R174) -/

/-- A request is judged and executed by its own rule (R173, test 4); the kind is one of the 21 of R182. -/
def ownRule (m : MgmtSlot) (s : State) : Answer × State :=
  match m.kind.toNat with
  | 1 => defineSegment m s
  | 2 => deleteSegment m s
  | 3 => openLoad m s
  | 4 => loadWords m s
  | 5 => closeLoad m s
  | 6 => segmentReport m s
  | 7 => readTable m s
  | 8 => directoryRequest m s
  | 9 => headSet m s
  | 10 => nodeSetRequest m s
  | 11 => queueClearRequest s
  | 12 => headControl m s
  | 13 => countersRequest m s
  | 14 => totalsRequest m s
  | 15 => traceArmRequest m s
  | 16 => traceStopRequest m s
  | 17 => traceReadRequest m s
  | 18 => (Answer.data (nodeStatusWords s), s)
  | 19 => headStatusRequest m s
  | 20 => nodeResetRequest s
  | 21 => testRequest m s
  | _ => (Answer.refuse .unknownKind, s)

/-- The four tests of R173 in their order (log 19). -/
def judgeRequest (m : MgmtSlot) (s : State) : Answer × State :=
  if s.ring.state = .failed ∧ m.kind ≠ 18#5 then (Answer.refuse .refusedState, s)
  else if !definedRequestKind m.kind then (Answer.refuse .unknownKind, s)
  else if m.dest = 63#6 ∧ !broadcastKind m.kind then (Answer.refuse .unknownKind, s)
  else ownRule m s

/-- The slot is handled: its state is REQUEST, its destination the latched address or 63, and the ring state is one that
answers management (R172). -/
def slotHandled (m : MgmtSlot) (s : State) : Bool :=
  (match s.ring.state with
    | .joining => true
    | .locked => true
    | .holdover => true
    | .failed => true
    | .bypass => false
    | .blind => false) &&
    m.state == 1#2 &&
    (m.dest == 63#6 ||
      (match s.ring.address with
        | some a => m.dest.toNat == a.val
        | none => false))

/-- The six data words of an answer, those not named 0 (R172). -/
def dataOf (ws : List Word) : DataWords :=
  ⟨ws.getD 0 0#32, ws.getD 1 0#32, ws.getD 2 0#32, ws.getD 3 0#32, ws.getD 4 0#32, ws.getD 5 0#32⟩

/-- A count byte that stops at 255 (R174). -/
def raisedCount (c : Byte) : Byte := if c = 255#8 then 255#8 else c + 1#8

/-- The code byte of a result. -/
def resultByte (r : ResultCode) : Byte := byte r.code

/-- DONE or ACCEPTED. -/
def ResultCode.accepts (r : ResultCode) : Bool := r == .done || r == .accepted

/-- The slot with the answer to an addressed request (R172). -/
def answerAddressed (a : Answer) (m : MgmtSlot) : MgmtSlot :=
  { m with state := 2#2, result := resultByte a.result, param := a.param.getD m.param, data := dataOf a.words }

/-- The slot after a broadcast (R174). -/
def answerBroadcast (r : ResultCode) (m : MgmtSlot) : MgmtSlot :=
  if r.accepts then { m with ack := raisedCount m.ack }
  else
    { m with
      refuse := raisedCount m.refuse
      result := if m.result = 0#8 then resultByte r else m.result }

/-- The management slot passes the node: handled, answered and executed, or left unchanged (R172 to R174). -/
def handleSlot (m : MgmtSlot) (s : State) : MgmtSlot × State :=
  if slotHandled m s then
    let r := judgeRequest m s
    (if m.dest = 63#6 then answerBroadcast r.1.result m else answerAddressed r.1 m, r.2)
  else (m, s)

end Sys2Proof.Machine
end

