-- ==== Sys2Proof/Machine/Pitch.lean ====
section
/-! DEFINITION. The Pitch Timer and what each pitch event reaches: the interval estimate (R28), windows (R29), pitch
events (R25), infeed decisions (R90 to R92), a PITCH frame in JOINING (R15, R26, R27) and in LOCKED or HOLDOVER (R30 to
R33), entry into JOINING (R14) and ring loss (R108, R49). -/

namespace Sys2Proof.Machine

/-! ### The interval estimate and the window (R26, R28, R29) -/

/-- The estimate after a measured gap `m` (R28). -/
def estimateAfter (i : Option Nat) (m : Nat) : Nat :=
  match i with
  | none => clampNat Config.estimateMin Config.estimateMax m
  | some i =>
    let m := clampNat (i / 2) (2 * i) m
    (clampInt Config.estimateMin Config.estimateMax ((i : Int) + ((m : Int) - (i : Int)).tdiv 8)).toNat

/-- When a window that runs from time `t` closes, while the carousel is RUNNING and the estimate is defined (R29). -/
def windowFrom (t : Nat) (s : State) : Option Nat :=
  match s.pitch.carousel, s.pitch.estimate with
  | .running, some i => some (t + i + i / 2)
  | _, _ => none

/-- Change the Pitch Timer. -/
def State.modPitch (f : PitchTimer → PitchTimer) (s : State) : State := { s with pitch := f s.pitch }

/-- Change the Ring Port. -/
def State.modRing (f : RingPort → RingPort) (s : State) : State := { s with ring := f s.ring }

/-- The window as the present reference time sets it: the last event time of the sequence in LOCKED and HOLDOVER, the
join reference in JOINING, and none otherwise (R26, R29, R34). -/
def setWindow (s : State) : State :=
  let w :=
    match s.ring.state, s.pitch.sequence, s.pitch.joinRef with
    | .locked, some q, _ => windowFrom q.time s
    | .holdover, some q, _ => windowFrom q.time s
    | .joining, _, some r => windowFrom r.arrival s
    | _, _, _ => none
  s.modPitch fun p => { p with window := w }

/-- A measured gap enters the estimate (R28). -/
def measure (gap : Nat) (s : State) : State := s.modPitch fun p => { p with estimate := some (estimateAfter p.estimate gap) }

/-! ### Infeed decisions (R90 to R92) -/

/-- A NOT_SERVED record that a head makes at once, in a reservation taken for the moment, or loses; the head clears its
infeed entry (R91, R155). The record stands ahead of the count of its event (log 29). -/
def immediateNotServed (h : HeadId) (serial : Half) (recipe : Nat) (reason : NotServedReason) (c : CounterId) (s : State) :
    State :=
  let r := notServedRecord (headByte h) serial recipe reason (s.head h).table.position 0
  let s := countNotServed recipe reason s
  let s := if canReserve h s then placeRecord h r (takeReservation h s) else loseRecord s
  (countEvent c s).modSeq h fun q => { q with entry := none }

/-- The cycle of a container is prepared: the reservation, and the request to the Resolver. The head keeps the entry as
its infeed entry (R91, R92), also when the cycle is declined for want of a reservation (log 33). -/
def requestCycle (h : HeadId) (e : QueueEntry) (s : State) : State :=
  if canReserve h s then
    requestResolution h e.recipe
      ((takeReservation h s).modSeq h fun q =>
        { q with state := .resolving, flags := CycleFlags.clear, faultPending := false })
  else countUnserved e.recipe (loseRecord s)

/-- The recipe field of a decision's record: the entry's recipe number, 255 when there is none (R91). -/
def recipeOrNone (entry : Option QueueEntry) : Nat :=
  match entry with
  | some e => e.recipe
  | none => 255

/-- The infeed decision by the kind of the entry and the container-present level; NONE counts as no container (R91). -/
def infeedDecision (h : HeadId) (serial : Half) (entry : Option QueueEntry) (s : State) : State :=
  let present := decide ((s.head h).presence = .present)
  match entry.map QueueEntry.kind, present with
  | some .container, true =>
    match entry with
    | some e => requestCycle h e s
    | none => s
  | some .container, false => immediateNotServed h serial (recipeOrNone entry) .missingContainer .missingContainers s
  | _, true => immediateNotServed h serial (recipeOrNone entry) .unassignedContainer .unassigned s
  | _, false => s

/-- The entry that the queue has handed over to head `h`, if it has (R44). -/
def handedTo (h : HeadId) (handed : Option (HeadId × QueueEntry)) : Option QueueEntry :=
  match handed with
  | some (g, e) => if g = h then some e else none
  | none => none

/-- A head takes its infeed event: it decides when it is IDLE, the ring is LOCKED and the event is received (R90). The
entry handed over becomes its infeed entry ahead of the decision (R44); with none handed over it holds none (log 33). -/
def takeInfeed (serial : Half) (k : EventKind) (handed : Option (HeadId × QueueEntry)) (h : HeadId) (s : State) : State :=
  if (s.seq h).state = .idle ∧ s.ring.state = .locked ∧ k = .received then
    infeedDecision h serial (handedTo h handed) (s.modSeq h fun q => { q with entry := handedTo h handed })
  else s

/-! ### Pitch events (R25, R35) -/

/-- Every head recomputes its elapsed pitch count (R35). -/
def elapseAll (p : Nat) (s : State) : State :=
  { s with
    heads := s.heads.map fun x => { x with seq := { x.seq with elapsed := some (elapsedCount s.settings.nPos p x.table.position) } } }

/-- One pitch event, taken whole: elapsed counts, stale discard, hand-over, infeed decisions, deadlines, the bowl
request, and the count of an estimated event (R25, R35, R43 to R46, R90, R103 to R105, R135; the order is log 12). -/
def pitchEvent (serial : Half) (p : Nat) (k : EventKind) (s : State) : State :=
  let s := discardStale serial (elapseAll p s)
  let r := handOver serial p k s
  let s := (headsAt p r.2).foldl (fun s h => takeInfeed serial k r.1 h s) r.2
  let s := forHeads takeDeadlines s
  let s := { s with scanner := { s.scanner with request := true } }
  if k = .estimated then countEvent .missingPitches s else s

/-! ### Ring loss and entry into JOINING (R14, R49, R108) -/

/-- A ring loss: the queue is cleared, and each head takes it (R14, R49, R108). -/
def ringLoss (s : State) : State := forHeads takeRingLoss (clearQueue .ringLoss s)

/-- The Pitch Timer drops its estimate, its sequence and its join reference, and cancels its window (R23). -/
def dropPitch (s : State) : State :=
  s.modPitch fun p =>
    { p with estimate := none, sequence := none, joinRef := none, measureValid := false, window := none, lastBeyond := false }

/-- Entry into JOINING from any state but by soft reset: lock run and count empty, Pitch Timer dropped, the address kept
or not, and a ring loss when the entry is from LOCKED or HOLDOVER (R14; the order is log 11). -/
def enterJoining (keepAddress : Bool) (s : State) : State :=
  let lossy := ringServes s
  let s := s.modRing fun r =>
    { r with
      state := .joining
      badCount := 0
      run := { r.run with length := 0 }
      address := if keepAddress then r.address else none }
  let s := dropPitch s
  if lossy then ringLoss s else s

/-! ### The lock run (R15, R18) -/

/-- The lock run after a good PITCH frame (R15). -/
def LockRun.extend (nPos : Nat) (serial : Half) (p : Nat) (r : LockRun) : LockRun :=
  if r.length = 1 ∧ serialDistance r.serial serial = 1 ∧ p = positionAfter nPos r.position 1 then ⟨2, serial, p⟩
  else ⟨1, serial, p⟩

/-- The frame's serial and position extend or restart the lock run; behind a last position that a NODE SET has put out of
range they start a new one (R15, R18, R36). -/
def extendRun (serial : Half) (p : Nat) (s : State) : State :=
  s.modRing fun r =>
    { r with run := if s.pitch.lastBeyond then ⟨1, serial, p⟩ else r.run.extend s.settings.nPos serial p }

/-! ### A PITCH frame in JOINING (R15, R26, R27) -/

/-- The gap to the join reference is measured (R26), but not where a NODE SET has put its position out of range (R36). -/
def joinGap (serial : Half) (p : Nat) (s : State) : Option Nat :=
  match s.pitch.joinRef with
  | some r =>
    if s.pitch.lastBeyond = false ∧ serialDistance r.serial serial = 1 ∧ p = positionAfter s.settings.nPos r.position 1 ∧
        s.pitch.measureValid = true ∧ s.pitch.carousel = .running then
      some (s.nowUs - r.arrival)
    else none
  | none => none

/-- The frame may measure a gap, and becomes the join reference (R26), with no test failed behind it (R36); it makes the
measurement start valid when it shows RUNNING (R23). -/
def joinMeasure (serial : Half) (p : Nat) (s : State) : State :=
  let s :=
    match joinGap serial p s with
    | some g => measure g s
    | none => s
  s.modPitch fun q =>
    { q with
      joinRef := some ⟨serial, p, s.nowUs, q.carousel⟩, measureValid := decide (q.carousel = .running), lastBeyond := false }

/-- JOINING to LOCKED: HELD heads become IDLE, the sequence starts from the frame, and one received event is issued
(R15, R27, R109). -/
def lockOn (serial : Half) (p : Nat) (s : State) : State :=
  let s := releaseHeld (s.modRing fun r => { r with state := .locked })
  let s := s.modPitch fun q => { q with sequence := some ⟨serial, p, .received, s.nowUs⟩, joinRef := none }
  pitchEvent serial p .received (setWindow s)

/-- A good PITCH frame in JOINING. A run of 2 locks the node when an address is latched, and otherwise goes on from
length 1 (R15). -/
def joiningPitch (serial : Half) (p : Nat) (s : State) : State :=
  let s := setWindow (joinMeasure serial p (extendRun serial p s))
  if s.ring.run.length = 2 then
    if s.ring.address.isSome then lockOn serial p s else s.modRing fun r => { r with run := { r.run with length := 1 } }
  else s

/-! ### A PITCH frame in LOCKED or HOLDOVER (R30 to R33) -/

/-- The four cases of a PITCH frame (section 2.7). -/
inductive PitchCase where
  | expected
  | reconfirmation
  | catchUp
  | discontinuity
  deriving DecidableEq, Repr

/-- The first case that fits a frame, with the sequence `q` and the holdover limit `limit` (R30 to R33). Every
frame behind a last position that a NODE SET has put out of range, `beyond`, is a discontinuity (R36, log 32), and so is a
position of `nPos` or greater (R33): no remainder is one, and the reconfirmation tests it. -/
def pitchCase (nPos limit : Nat) (beyond : Bool) (q : PitchSequence) (serial : Half) (p : Nat) : PitchCase :=
  let e := nextSerial q.serial
  if beyond then .discontinuity
  else if serial = e ∧ p = positionAfter nPos q.position 1 then .expected
  else if serial = q.serial ∧ q.kind = .estimated ∧ p = q.position ∧ p < nPos then .reconfirmation
  else if 1 ≤ serialDistance e serial ∧ serialDistance e serial ≤ limit ∧
      p = positionAfter nPos q.position (serialDistance q.serial serial) then .catchUp
  else .discontinuity

/-- The sequence takes a frame: its serial and position, kind received, its arrival; the measurement start is valid when
the frame shows RUNNING (R23, R30, R31, R32). -/
def sequenceFrom (serial : Half) (p : Nat) (s : State) : State :=
  s.modPitch fun q =>
    { q with sequence := some ⟨serial, p, .received, s.nowUs⟩, measureValid := decide (q.carousel = .running) }

/-- The expected pitch (R30). -/
def expectedPitch (q : PitchSequence) (serial : Half) (p : Nat) (s : State) : State :=
  let measured := q.kind = .received ∧ s.pitch.carousel = .running ∧ s.pitch.measureValid = true
  let s := if measured then measure (s.nowUs - q.time) s else s
  setWindow (pitchEvent serial p .received (sequenceFrom serial p s))

/-- The reconfirmation of an estimated pitch: no event, and the timing restarts (R31). -/
def reconfirmPitch (serial : Half) (p : Nat) (s : State) : State := setWindow (sequenceFrom serial p s)

/-- The estimated events of a catch-up: `n` of them, from serial `e` at position `p` onward (R32). -/
def catchUpEvents (nPos : Nat) : Nat → Half → Nat → State → State
  | 0, _, _, s => s
  | n + 1, e, p, s => catchUpEvents nPos n (nextSerial e) (positionAfter nPos p 1) (pitchEvent e p .estimated s)

/-- A catch-up: the missed serials as estimated events, then the frame's own (R32). -/
def catchUpPitch (q : PitchSequence) (serial : Half) (p : Nat) (s : State) : State :=
  let e := nextSerial q.serial
  let s := catchUpEvents s.settings.nPos (serialDistance e serial) e (positionAfter s.settings.nPos q.position 1) s
  setWindow (pitchEvent serial p .received (sequenceFrom serial p s))

/-- A pitch discontinuity: the alarm, then JOINING as a ring loss with the address kept (R21, R33). -/
def discontinuity (q : PitchSequence) (serial : Half) (s : State) : State :=
  enterJoining true (raiseAlarm .pitchDiscontinuity nodeByte serial.toNat (nextSerial q.serial).toNat s)

/-- In HOLDOVER the lock run is judged after the frame's events, and a run of 2 returns to LOCKED (R18). -/
def holdoverRun (serial : Half) (p : Nat) (s : State) : State :=
  if s.ring.state = .holdover then
    let s := extendRun serial p s
    if s.ring.run.length = 2 then s.modRing fun r => { r with state := .locked } else s
  else s

/-- A good PITCH frame in LOCKED or HOLDOVER, by the first case that fits (R30 to R33, R18). -/
def servingPitch (serial : Half) (p : Nat) (s : State) : State :=
  match s.pitch.sequence with
  | none => s
  | some q =>
    match pitchCase s.settings.nPos s.settings.holdover s.pitch.lastBeyond q serial p with
    | .expected => holdoverRun serial p (expectedPitch q serial p s)
    | .reconfirmation => holdoverRun serial p (reconfirmPitch serial p s)
    | .catchUp => holdoverRun serial p (catchUpPitch q serial p s)
    | .discontinuity => discontinuity q serial s

/-! ### A header (R5 step 2, R16, R24, R110) -/

/-- The carousel state shown by a header becomes the copy (R24). STOPPED and JOG drop the estimate, the window and the
measurement start, and a state other than RUNNING empties the bad-pitch count (R16). RUNNING ends step mode (R110), at
heads 0 to 7 in turn (log 35), ahead of the pitch events of the same header (log 37). -/
def takeCarousel (c : Carousel) (s : State) : State :=
  let s := s.modPitch fun p => { p with carousel := c }
  if c = .running then forHeads endStepMode s
  else
    (s.modPitch fun p => { p with estimate := none, window := none, measureValid := false }).modRing fun r =>
      { r with badCount := 0 }

/-- A PITCH header: the bad-pitch count becomes 0, and the frame is judged by the ring state (R15, R16, R26, R30). -/
def takePitchHeader (serial : Half) (p : Nat) (s : State) : State :=
  let s := s.modRing fun r => { r with badCount := 0 }
  match s.ring.state with
  | .joining => joiningPitch serial p s
  | .locked => servingPitch serial p s
  | .holdover => servingPitch serial p s
  | .bypass => s
  | .blind => s
  | .failed => s

/-! ### Window expiry (R15, R16, R17, R19, R29) -/

/-- A bad pitch in LOCKED or HOLDOVER: the count, the lock run, and the ring state (R16, R17, R19). -/
def badPitch (s : State) : State :=
  let n := s.ring.badCount + 1
  let s := s.modRing fun r => { r with badCount := n, run := { r.run with length := 0 } }
  if s.settings.holdover < n then
    ringLoss (raiseAlarm .ringBlind nodeByte n 0 (s.modRing fun r => { r with state := .blind }))
  else if s.ring.state = .locked ∧ n = 3 then
    raiseAlarm .ringHoldover nodeByte n 0 (s.modRing fun r => { r with state := .holdover })
  else s

/-- After a bad pitch: in LOCKED or HOLDOVER one estimated event, after which the sequence holds it with the expiry time
`t`; in BLIND no event, and no window (R29, R34). -/
def estimatedPitch (t : Nat) (s : State) : State :=
  match s.pitch.sequence with
  | some q =>
    if ringServes s then
      let e := nextSerial q.serial
      let p := positionAfter s.settings.nPos q.position 1
      setWindow ((pitchEvent e p .estimated s).modPitch fun r => { r with sequence := some ⟨e, p, .estimated, t⟩ })
    else setWindow s
  | none => setWindow s

/-- The window closes at its deadline `t`: in JOINING the lock run empties and the join reference is dropped (R15, R26);
in LOCKED and HOLDOVER it is a bad pitch (R16, R29). -/
def windowExpires (t : Nat) (s : State) : State :=
  match s.ring.state with
  | .joining =>
    (s.modRing fun r => { r with run := { r.run with length := 0 } }).modPitch fun p =>
      { p with joinRef := none, measureValid := false, window := none, lastBeyond := false }
  | .locked => estimatedPitch t (badPitch s)
  | .holdover => estimatedPitch t (badPitch s)
  | .bypass => s
  | .blind => s
  | .failed => s

end Sys2Proof.Machine
end

