-- ==== Sys2Proof/Machine/Resets.lean ====
section
/-! DEFINITION. The resets: power-on reset by its two causes and the release of RESET (R1, R10, R133, R152), the end of
the self-test (R10), and the soft reset (R177, R178), with the meanings of their four rows. -/

namespace Sys2Proof.Machine

/-! ### Power-on reset (R1) -/

/-- The levels of a head's feedback inputs. -/
def Head.pins (x : Head) : PerValve Bool :=
  ⟨x.valves.gas.pin, x.valves.fast.pin, x.valves.slow.pin, x.valves.add.pin, x.valves.snift.pin⟩

/-- Every block at its power-on value, while the inputs keep their levels, the commands still wait, and what has left the
node stays sent. At power-up the self-test and the first conversion start at once; while the RESET input is asserted
neither has started (R1, R10, R133, R145, log 5). -/
def powerOn (cause : ResetCause) (s : State) : State :=
  let running := decide (cause = .powerUp)
  { State.reset with
    pending := s.pending
    now := s.now
    resetHeld := !running
    selfTest := running
    heads := s.heads.map fun x => Head.reset s.now x.presentPin x.pins
    scanner := Scanner.reset (if running then some s.now else none)
    frameOut := s.frameOut
    assignOut := s.assignOut
    mgmtOut := s.mgmtOut }

/-- The debounce candidates of a head start from the levels of its inputs (R133, R145). -/
def Head.takeCandidates (t : Ticks) (x : Head) : Head :=
  let v := fun (v : Valve) => { v with candidate := ⟨v.pin, t⟩ }
  { x with
    presenceCandidate := ⟨x.presentPin, t⟩
    valves := ⟨v x.valves.gas, v x.valves.fast, v x.valves.slow, v x.valves.add, v x.valves.snift⟩ }

/-- The RESET input is released: the self-test and the first bowl conversion start, and the candidates are taken (R133,
R145). There is nothing to release while RESET is not held. -/
def releaseReset (s : State) : State :=
  if s.resetHeld then
    { s with
      resetHeld := false
      selfTest := true
      heads := s.heads.map (Head.takeCandidates s.now)
      scanner := { s.scanner with conversion := { s.scanner.conversion with started := some s.now } } }
  else s

/-! ### The end of the self-test (R10) -/

/-- The self-test ends: JOINING with every word of table memory 0 when it passes, FAILED when it does not (R10, R52). It
ends only while it runs. -/
def endSelfTest (passed : Bool) (s : State) : State :=
  if s.selfTest then
    let s := { s with selfTest := false }
    if passed then enterJoining false (s.modTables fun t => { t with words := [] })
    else s.modRing fun r => { r with state := .failed }
  else s

/-! ### Soft reset (R178) -/

/-- A segment after a soft reset (R54, R55). -/
def Segment.softReset (g : Segment) : Segment :=
  if g.state = .loading ∨ g.state = .checking then { g with state := .bad } else g

/-- A descriptor after a soft reset (R165). -/
def Descriptor.softReset (d : Descriptor) : Descriptor := { d with state := .idle, link := false, ticks := 0, samples := 0 }

/-- A head after a soft reset at time `t` (R89, R114, R133, R145): an OFF head stays OFF, any other is HELD; the cycle
record, the head table record and the last additive volume are kept. The two debounce counts become 0 (log 40). -/
def Head.softReset (t : Ticks) (x : Head) : Head :=
  { Head.reset t x.presentPin x.pins with
    seq := { Sequencer.reset with state := if x.seq.state = .off then .off else .held }
    cycle := x.cycle
    table := x.table
    lastAdditive := x.lastAdditive }

/-- The soft reset, which sets every block at once (R178). -/
def softReset (s : State) : State :=
  { s with
    resetScheduled := false
    ring := { RingPort.reset with state := .joining }
    pitch := PitchTimer.reset
    queue := AssignQueue.reset
    tables :=
      { s.tables with
        segments := s.tables.segments.map Segment.softReset
        openSegment := none
        pointer := 0
        check := none }
    resolver := Resolver.reset
    heads := s.heads.map (Head.softReset s.now)
    scanner := Scanner.reset (some s.now)
    orq := Orq.reset
    counters := Vector.replicate 10 0#16
    trace := ⟨s.trace.a.softReset, s.trace.b.softReset⟩ }

/-- A scheduled soft reset is taken, as the frame that carried NODE RESET leaves (R177, log 9). -/
def takeScheduled (s : State) : State := if s.resetScheduled then softReset s else s

/-! ### Meanings -/

/-- POWER_ON_RESET (R1). -/
def execPowerOnReset (t : Ticks) (cause : ResetCause) (s : State) : Host.Outcome State Fault Refusal :=
  .next (powerOn cause (s.advance t))

/-- RESET_RELEASE (R133). -/
def execResetRelease (t : Ticks) (s : State) : Host.Outcome State Fault Refusal := .next (releaseReset (s.advance t))

/-- SELF_TEST_END (R10). -/
def execSelfTestEnd (t : Ticks) (passed : Bool) (s : State) : Host.Outcome State Fault Refusal :=
  .next (endSelfTest passed (s.advance t))

/-- SOFT_RESET (R177, R178). -/
def execSoftReset (t : Ticks) (s : State) : Host.Outcome State Fault Refusal := .next (takeScheduled (s.advance t))

end Sys2Proof.Machine
end

