-- ==== Sys2Proof/Machine/Ring.lean ====
section
/-! DEFINITION. The Ring Port: a frame passing the node, step by step (R2 to R9, R11 to R13, R20), the writing of result
slots (R158), and the meanings of the rows that bring a frame, an assignment slot or a window expiry. -/

namespace Sys2Proof.Machine

/-! ### Which frames are used (R3, R4) -/

/-- The content of a good frame may be used: unmarked, of defined kind and carousel state (R4). -/
def usableFrame (f : Frame) : Bool := !damageMarked f.damage && definedFrameKind f.kind && (carouselOf f.carousel).isSome

/-! ### Step 1: address (R11, R12, R13, R20) -/

/-- In JOINING and FAILED the node latches the address that the hop count stands for, and a change empties the lock run
(R11, R12, log 10). -/
def latchAddress (hop : Byte) (s : State) : State :=
  if addressOf hop = s.ring.address then s
  else s.modRing fun r => { r with address := addressOf hop, run := { r.run with length := 0 } }

/-- The address that was latched, as a number. -/
def oldAddress (s : State) : Nat :=
  match s.ring.address with
  | some a => a.val
  | none => 0

/-- In LOCKED and HOLDOVER a hop count other than the latched address raises the alarm, enters JOINING and is latched
(R13). -/
def compareAddress (hop : Byte) (s : State) : State :=
  if addressOf hop = s.ring.address ∧ s.ring.address.isSome = true then s
  else
    (enterJoining false (raiseAlarm .addressChanged nodeByte hop.toNat (oldAddress s) s)).modRing fun r =>
      { r with address := addressOf hop }

/-- Step 1 of R5. The first used frame in BLIND takes the node to JOINING (R20). -/
def addressStep (hop : Byte) (s : State) : State :=
  match s.ring.state with
  | .joining => latchAddress hop s
  | .failed => latchAddress hop s
  | .locked => compareAddress hop s
  | .holdover => compareAddress hop s
  | .blind => latchAddress hop (enterJoining false s)
  | .bypass => s

/-! ### Step 2: header (R5, R24) -/

/-- The header goes to the Pitch Timer, but not in FAILED (R9, R11). The carousel state is taken whole ahead of the serial and
position, so that a PITCH header showing RUNNING ends step mode before its pitch events (log 37). -/
def headerStep (f : Frame) (s : State) : State :=
  if s.ring.state = .failed then s
  else
    match carouselOf f.carousel with
    | none => s
    | some c =>
      let s := takeCarousel c s
      if f.kind = 1#8 then takePitchHeader f.serial f.position.toNat s else s

/-! ### Steps 3 to 6 -/

/-- Step 3: the six assignment slots in slot order (R5). -/
def assignmentStep (f : Frame) (s : State) : Frame × State :=
  let x0 := takeSlot f.a0 s
  let x1 := takeSlot f.a1 x0.2
  let x2 := takeSlot f.a2 x1.2
  let x3 := takeSlot f.a3 x2.2
  let x4 := takeSlot f.a4 x3.2
  let x5 := takeSlot f.a5 x4.2
  ({ f with a0 := x0.1, a1 := x1.1, a2 := x2.1, a3 := x3.1, a4 := x4.1, a5 := x5.1 }, x5.2)

/-- Step 4: the management slot (R5, R172). -/
def managementStep (f : Frame) (s : State) : Frame × State :=
  let x := handleSlot f.mgmt s
  ({ f with mgmt := x.1 }, x.2)

/-- A record in a result slot, under the node's address at the moment of writing (R158, R180). -/
def slotOfRecord (node : Byte) (r : Record) : ResultSlot :=
  ⟨byte (recordKindCode r.kind), node, r.head, r.serial, r.recipe, r.code, r.flags, r.valueA, r.valueB⟩

/-- One offered slot: the oldest record goes into an EMPTY slot while fewer than two are written in the frame; `q` holds
the number written and the records (R158). -/
def offerSlot (node : Byte) (r : ResultSlot) (q : Nat × List Record) : ResultSlot × (Nat × List Record) :=
  match q.2 with
  | [] => (r, q)
  | x :: rest => if r.kind = 0#8 ∧ q.1 < 2 then (slotOfRecord node x, q.1 + 1, rest) else (r, q)

/-- The latched address as a byte, 255 when there is none. -/
def nodeField (s : State) : Byte :=
  match s.ring.address with
  | some a => byte a.val
  | none => 255#8

/-- Step 5: result slots, in LOCKED and HOLDOVER (R5, R158). -/
def resultStep (f : Frame) (s : State) : Frame × State :=
  if ringServes s then
    let x0 := offerSlot (nodeField s) f.r0 (0, s.orq.records)
    let x1 := offerSlot (nodeField s) f.r1 x0.2
    let x2 := offerSlot (nodeField s) f.r2 x1.2
    let x3 := offerSlot (nodeField s) f.r3 x2.2
    ({ f with r0 := x0.1, r1 := x1.1, r2 := x2.1, r3 := x3.1 }, { s with orq := { s.orq with records := x3.2.2 } })
  else (f, s)

/-- The node needs attention: it holds an ALARM record, or a head is in FAULT, or it is FAILED (R8). -/
def attentionOn (s : State) : Bool :=
  s.ring.state == .failed || s.orq.records.any (fun r => r.kind == .alarm) ||
    allHeads.any fun h => (s.seq h).state == .fault

/-- Step 6: the attention bit of the latched address (R8). -/
def attentionStep (f : Frame) (s : State) : Frame :=
  match s.ring.address with
  | some a => { f with attention := writeAttention f.attention a (attentionOn s) }
  | none => f

/-- Steps 1 to 6 on a frame whose content is used (R5, R9). -/
def useFrame (f : Frame) (s : State) : Frame × State :=
  let s := headerStep f (addressStep f.hop s)
  let x := assignmentStep f s
  let x := managementStep x.1 x.2
  let x := resultStep x.1 x.2
  (attentionStep x.1 x.2, x.2)

/-! ### A frame received whole (R2 to R7, R10) -/

/-- What becomes of a frame before it is forwarded: a bad frame is counted and marked with 1 (log 36), a marked or undefined
one is left, any other is used (R3, R4, R5). -/
def processFrame (f : Frame) (s : State) : Frame × State :=
  if !goodFrame f then ({ f with damage := 1#8 }, countEvent .damagedFrames s)
  else if !usableFrame f then (f, s)
  else useFrame f s

/-- Step 7: the hop count raised and the check computed anew, inverted for a damage insertion (R6, R7, R185). -/
def forwarded (insert : Bool) (f : Frame) : Frame :=
  let f := freshCheck { f with hop := raisedHop f.hop }
  if insert then { f with check := ~~~f.check } else f

/-- A frame passes a node that is not in BYPASS. An insertion that is pending as the frame arrives is used up by it (R7,
log 27). -/
def passFrame (f : Frame) (s : State) : State :=
  let insert := s.ring.damagePending
  let x := processFrame f s
  let s := if insert then x.2.modRing fun r => { r with damagePending := false } else x.2
  { s with frameOut := some (forwarded insert x.1) }

/-- A frame arrives. In BYPASS, and while RESET is held, it passes untouched (R1, R10). -/
def receiveFrame (f : Frame) (s : State) : State :=
  if s.resetHeld ∨ s.ring.state = .bypass then { s with frameOut := some f } else passFrame f (takeScheduled s)

/-! ### A single assignment slot (log 21) -/

/-- One assignment slot as the queue leaves it, on ring OUT. -/
def presentAssign (a : AssignSlot) (s : State) : State :=
  let x := takeSlot a (takeScheduled s)
  { x.2 with assignOut := some x.1 }

/-! ### Meanings -/

/-- PITCH_FRAME (R5). -/
def execPitchFrame (t : Ticks) (f : Frame) (s : State) : Host.Outcome State Fault Refusal :=
  .next (receiveFrame f (s.advance t))

/-- SERVICE_FRAME (R5). -/
def execServiceFrame (t : Ticks) (f : Frame) (s : State) : Host.Outcome State Fault Refusal :=
  .next (receiveFrame f (s.advance t))

/-- FRAME_OF_UNDEFINED_KIND (R4). -/
def execFrameOfUndefinedKind (t : Ticks) (f : Frame) (s : State) : Host.Outcome State Fault Refusal :=
  .next (receiveFrame f (s.advance t))

/-- PITCH_WINDOW_EXPIRY: the window closes at its deadline (R29). With no window running nothing happens (log 2). -/
def execPitchWindowExpiry (s : State) : Host.Outcome State Fault Refusal :=
  match s.pitch.window with
  | none => .next s
  | some w => .next (windowExpires w (s.advance (w * Config.ticksPerUs)))

/-- CONTAINER_ASSIGNMENT (R39 to R42). -/
def execContainerAssignment (t : Ticks) (node : Byte) (serial position : Half) (recipe flags : Byte) (s : State) :
    Host.Outcome State Fault Refusal :=
  .next (presentAssign ⟨1#8, node, serial, position, recipe, flags⟩ (s.advance t))

/-- GAP_ASSIGNMENT (R39 to R42). -/
def execGapAssignment (t : Ticks) (node : Byte) (serial position : Half) (recipe flags : Byte) (s : State) :
    Host.Outcome State Fault Refusal :=
  .next (presentAssign ⟨2#8, node, serial, position, recipe, flags⟩ (s.advance t))

/-- ASSIGNMENT_OF_UNDEFINED_KIND (R40). -/
def execAssignmentOfUndefinedKind (t : Ticks) (a : AssignSlot) (s : State) : Host.Outcome State Fault Refusal :=
  .next (presentAssign a (s.advance t))

end Sys2Proof.Machine
end

