-- ==== Sys2Proof/Machine/Requests.lean ====
section
/-! DEFINITION. The meanings of the request rows: each builds the management slot that the master writes for it (R172,
R183), presents that slot alone (log 21), and leaves the answer on ring OUT. Data words that a request does not use are
0. -/

namespace Sys2Proof.Machine

/-- The slot of a request: state REQUEST, the envelope's fields, the kind and the data words (R172, R180). -/
def requestSlot (q : Envelope) (kind : BitVec 5) (count : BitVec 3) (param : Half) (d : DataWords) : MgmtSlot :=
  ⟨1#2, q.dest, kind, count, q.tag, q.result, q.ack, q.refuse, param, d⟩

/-- The slot of a request that uses neither the count nor the parameter field. -/
def plainSlot (q : Envelope) (kind : BitVec 5) (d : DataWords) : MgmtSlot := requestSlot q kind 0#3 q.param d

/-- Data words of which the later ones are 0. -/
def words0 : DataWords := ⟨0#32, 0#32, 0#32, 0#32, 0#32, 0#32⟩
def words1 (a : Word) : DataWords := ⟨a, 0#32, 0#32, 0#32, 0#32, 0#32⟩
def words2 (a b : Word) : DataWords := ⟨a, b, 0#32, 0#32, 0#32, 0#32⟩

/-- A management slot passes the node and is left on ring OUT, a scheduled soft reset being taken before (log 9). -/
def presentSlot (m : MgmtSlot) (s : State) : State :=
  let x := handleSlot m (takeScheduled s)
  { x.2 with mgmtOut := some x.1 }

/-- A request row: its slot passes at the envelope's time. -/
def request (q : Envelope) (m : MgmtSlot) (s : State) : Host.Outcome State Fault Refusal :=
  .next (presentSlot m (s.advance q.time))

/-- SEGMENT DEFINE (R56). -/
def execSegmentDefine (q : Envelope) (segment base length kind : Word) (s : State) :
    Host.Outcome State Fault Refusal :=
  request q (plainSlot q 1#5 ⟨segment, base, length, kind, 0#32, 0#32⟩) s

/-- SEGMENT DELETE (R57). -/
def execSegmentDelete (q : Envelope) (segment : Word) (s : State) : Host.Outcome State Fault Refusal :=
  request q (plainSlot q 2#5 (words1 segment)) s

/-- LOAD OPEN (R59). -/
def execLoadOpen (q : Envelope) (segment : Word) (s : State) : Host.Outcome State Fault Refusal :=
  request q (plainSlot q 3#5 (words1 segment)) s

/-- LOAD DATA: the expected pointer stands in the parameter field, the count in the kind byte (R60, R183). -/
def execLoadData (q : Envelope) (pointer : Half) (count : BitVec 3) (words : DataWords) (s : State) :
    Host.Outcome State Fault Refusal :=
  request q (requestSlot q 4#5 count pointer words) s

/-- LOAD CLOSE (R61). -/
def execLoadClose (q : Envelope) (check : Word) (s : State) : Host.Outcome State Fault Refusal :=
  request q (plainSlot q 5#5 (words1 check)) s

/-- SEGMENT STATUS (R63). -/
def execSegmentStatus (q : Envelope) (segment : Word) (s : State) : Host.Outcome State Fault Refusal :=
  request q (plainSlot q 6#5 (words1 segment)) s

/-- TABLE READ (R64). -/
def execTableRead (q : Envelope) (segment index count : Word) (s : State) : Host.Outcome State Fault Refusal :=
  request q (plainSlot q 7#5 ⟨segment, index, count, 0#32, 0#32, 0#32⟩) s

/-- DIRECTORY SET (R66). -/
def execDirectorySet (q : Envelope) (recipe action segment index : Word) (s : State) :
    Host.Outcome State Fault Refusal :=
  request q (plainSlot q 8#5 ⟨recipe, action, segment, index, 0#32, 0#32⟩) s

/-- HEAD SET of group PLACE (R68). -/
def execHeadSetPlace (q : Envelope) (head position : Word) (offset gain : Half) (gas fast slow add : Byte) (snift : Word) (s : State) :
    Host.Outcome State Fault Refusal :=
  request q (plainSlot q 9#5 ⟨head, 1#32, position, wordOfHalves offset gain, wordOfBytes gas fast slow add, snift⟩) s

/-- HEAD SET of group METERS (R68). -/
def execHeadSetMeters (q : Envelope) (head wMain wAdd : Word) (mainSegment mainRecord addSegment addRecord : Half) (s : State) :
    Host.Outcome State Fault Refusal :=
  request q (plainSlot q 9#5 ⟨head, 2#32, wMain, wAdd, wordOfHalves mainSegment mainRecord, wordOfHalves addSegment addRecord⟩) s

/-- HEAD SET of group AFTERFLOW (R68, R69). -/
def execHeadSetAfterflow (q : Envelope) (head mainMax addMax : Word) (s : State) : Host.Outcome State Fault Refusal :=
  request q (plainSlot q 9#5 ⟨head, 3#32, mainMax, addMax, 0#32, 0#32⟩) s

/-- NODE SET (R70). -/
def execNodeSet (q : Envelope) (nPos depth holdover : Word) (presence feedback : Half) (bowlOffset bowlGain : Word) (s : State) :
    Host.Outcome State Fault Refusal :=
  request q (plainSlot q 10#5 ⟨nPos, depth, holdover, wordOfHalves presence feedback, bowlOffset, bowlGain⟩) s

/-- QUEUE CLEAR (R48). -/
def execQueueClear (q : Envelope) (s : State) : Host.Outcome State Fault Refusal :=
  request q (plainSlot q 11#5 words0) s

/-- HEAD CONTROL ON (R112). -/
def execHeadControlOn (q : Envelope) (head : Word) (s : State) : Host.Outcome State Fault Refusal :=
  request q (plainSlot q 12#5 (words2 head 1#32)) s

/-- HEAD CONTROL OFF (R112). -/
def execHeadControlOff (q : Envelope) (head : Word) (s : State) : Host.Outcome State Fault Refusal :=
  request q (plainSlot q 12#5 (words2 head 2#32)) s

/-- HEAD CONTROL CLEAR (R113). -/
def execHeadControlClear (q : Envelope) (head : Word) (s : State) : Host.Outcome State Fault Refusal :=
  request q (plainSlot q 12#5 (words2 head 3#32)) s

/-- HEAD CONTROL FORGET (R113). -/
def execHeadControlForget (q : Envelope) (head : Word) (s : State) : Host.Outcome State Fault Refusal :=
  request q (plainSlot q 12#5 (words2 head 4#32)) s

/-- HEAD CONTROL STEP_ON (R110). -/
def execHeadControlStepOn (q : Envelope) (head : Word) (s : State) : Host.Outcome State Fault Refusal :=
  request q (plainSlot q 12#5 (words2 head 5#32)) s

/-- HEAD CONTROL STEP_OFF (R110). -/
def execHeadControlStepOff (q : Envelope) (head : Word) (s : State) : Host.Outcome State Fault Refusal :=
  request q (plainSlot q 12#5 (words2 head 6#32)) s

/-- HEAD CONTROL STEP (R111). -/
def execHeadControlStep (q : Envelope) (head : Word) (s : State) : Host.Outcome State Fault Refusal :=
  request q (plainSlot q 12#5 (words2 head 7#32)) s

/-- COUNTERS READ (R162). -/
def execCountersRead (q : Envelope) (clear : Word) (s : State) : Host.Outcome State Fault Refusal :=
  request q (plainSlot q 13#5 (words1 clear)) s

/-- TOTALS READ (R164). -/
def execTotalsRead (q : Envelope) (recipe clear : Word) (s : State) : Host.Outcome State Fault Refusal :=
  request q (plainSlot q 14#5 (words2 recipe clear)) s

/-- TRACE ARM (R166). -/
def execTraceArm (q : Envelope) (descriptor head signal divider length : Word) (link trigger : Half) (s : State) :
    Host.Outcome State Fault Refusal :=
  request q (plainSlot q 15#5 ⟨descriptor, head, signal, divider, length, wordOfHalves link trigger⟩) s

/-- TRACE STOP (R170). -/
def execTraceStop (q : Envelope) (descriptor : Word) (s : State) : Host.Outcome State Fault Refusal :=
  request q (plainSlot q 16#5 (words1 descriptor)) s

/-- TRACE READ (R171). -/
def execTraceRead (q : Envelope) (descriptor offset : Word) (s : State) : Host.Outcome State Fault Refusal :=
  request q (plainSlot q 17#5 (words2 descriptor offset)) s

/-- NODE STATUS (R175). -/
def execNodeStatus (q : Envelope) (s : State) : Host.Outcome State Fault Refusal :=
  request q (plainSlot q 18#5 words0) s

/-- HEAD STATUS of part CYCLE (R176). -/
def execHeadStatusCycle (q : Envelope) (head : Word) (s : State) : Host.Outcome State Fault Refusal :=
  request q (plainSlot q 19#5 (words2 head 1#32)) s

/-- HEAD STATUS of part VALVES (R176). -/
def execHeadStatusValves (q : Envelope) (head : Word) (s : State) : Host.Outcome State Fault Refusal :=
  request q (plainSlot q 19#5 (words2 head 2#32)) s

/-- HEAD STATUS of part METERING (R176). -/
def execHeadStatusMetering (q : Envelope) (head : Word) (s : State) : Host.Outcome State Fault Refusal :=
  request q (plainSlot q 19#5 (words2 head 3#32)) s

/-- NODE RESET (R177). -/
def execNodeReset (q : Envelope) (s : State) : Host.Outcome State Fault Refusal :=
  request q (plainSlot q 20#5 words0) s

/-- TEST with action DAMAGE_NEXT (R179). -/
def execTestDamageNext (q : Envelope) (s : State) : Host.Outcome State Fault Refusal :=
  request q (plainSlot q 21#5 (words1 1#32)) s

/-- TEST with action FORCE_RAIL (R142, R179). -/
def execTestForceRail (q : Envelope) (head : Word) (s : State) : Host.Outcome State Fault Refusal :=
  request q (plainSlot q 21#5 (words2 2#32 head)) s

/-- A request of an undefined kind, or sent to 63 and not open to broadcast (R173, tests 2 and 3). -/
def execUndefinedRequest (t : Ticks) (m : MgmtSlot) (s : State) : Host.Outcome State Fault Refusal :=
  .next (presentSlot m (s.advance t))

end Sys2Proof.Machine
end

