-- ==== Sys2Proof/Machine/Dispatch.lean ====
section
/-! DEFINITION. The meaning of each command: one arm for each constructor of Instr. -/

namespace Sys2Proof.Machine

def exec (i : Instr) (s : State) : Host.Outcome State Fault Refusal :=
  match i with
  | .powerOnReset time cause => Sys2Proof.Machine.execPowerOnReset time cause s
  | .selfTestEnd time passed => Sys2Proof.Machine.execSelfTestEnd time passed s
  | .pitchFrame time frame => Sys2Proof.Machine.execPitchFrame time frame s
  | .serviceFrame time frame => Sys2Proof.Machine.execServiceFrame time frame s
  | .pitchWindowExpiry => Sys2Proof.Machine.execPitchWindowExpiry s
  | .containerAssignment time node serial position recipe flags => Sys2Proof.Machine.execContainerAssignment time node serial position recipe flags s
  | .gapAssignment time node serial position recipe flags => Sys2Proof.Machine.execGapAssignment time node serial position recipe flags s
  | .segmentDefine q segment base length kind => Sys2Proof.Machine.execSegmentDefine q segment base length kind s
  | .segmentDelete q segment => Sys2Proof.Machine.execSegmentDelete q segment s
  | .loadOpen q segment => Sys2Proof.Machine.execLoadOpen q segment s
  | .loadData q pointer count words => Sys2Proof.Machine.execLoadData q pointer count words s
  | .loadClose q check => Sys2Proof.Machine.execLoadClose q check s
  | .checkComplete time => Sys2Proof.Machine.execCheckComplete time s
  | .segmentStatus q segment => Sys2Proof.Machine.execSegmentStatus q segment s
  | .tableRead q segment index count => Sys2Proof.Machine.execTableRead q segment index count s
  | .directorySet q recipe action segment index => Sys2Proof.Machine.execDirectorySet q recipe action segment index s
  | .headSetPlace q head position offset gain gas fast slow add snift => Sys2Proof.Machine.execHeadSetPlace q head position offset gain gas fast slow add snift s
  | .headSetMeters q head wMain wAdd mainSegment mainRecord addSegment addRecord => Sys2Proof.Machine.execHeadSetMeters q head wMain wAdd mainSegment mainRecord addSegment addRecord s
  | .headSetAfterflow q head mainMax addMax => Sys2Proof.Machine.execHeadSetAfterflow q head mainMax addMax s
  | .nodeSet q nPos depth holdover presence feedback bowlOffset bowlGain => Sys2Proof.Machine.execNodeSet q nPos depth holdover presence feedback bowlOffset bowlGain s
  | .queueClear q => Sys2Proof.Machine.execQueueClear q s
  | .headControlOn q head => Sys2Proof.Machine.execHeadControlOn q head s
  | .headControlOff q head => Sys2Proof.Machine.execHeadControlOff q head s
  | .headControlClear q head => Sys2Proof.Machine.execHeadControlClear q head s
  | .headControlForget q head => Sys2Proof.Machine.execHeadControlForget q head s
  | .headControlStepOn q head => Sys2Proof.Machine.execHeadControlStepOn q head s
  | .headControlStepOff q head => Sys2Proof.Machine.execHeadControlStepOff q head s
  | .headControlStep q head => Sys2Proof.Machine.execHeadControlStep q head s
  | .countersRead q clear => Sys2Proof.Machine.execCountersRead q clear s
  | .totalsRead q recipe clear => Sys2Proof.Machine.execTotalsRead q recipe clear s
  | .traceArm q descriptor head signal divider length link trigger => Sys2Proof.Machine.execTraceArm q descriptor head signal divider length link trigger s
  | .traceStop q descriptor => Sys2Proof.Machine.execTraceStop q descriptor s
  | .traceRead q descriptor offset => Sys2Proof.Machine.execTraceRead q descriptor offset s
  | .nodeStatus q => Sys2Proof.Machine.execNodeStatus q s
  | .headStatusCycle q head => Sys2Proof.Machine.execHeadStatusCycle q head s
  | .headStatusValves q head => Sys2Proof.Machine.execHeadStatusValves q head s
  | .headStatusMetering q head => Sys2Proof.Machine.execHeadStatusMetering q head s
  | .nodeReset q => Sys2Proof.Machine.execNodeReset q s
  | .softReset time => Sys2Proof.Machine.execSoftReset time s
  | .testDamageNext q => Sys2Proof.Machine.execTestDamageNext q s
  | .testForceRail q head => Sys2Proof.Machine.execTestForceRail q head s
  | .undefinedRequest time slot => Sys2Proof.Machine.execUndefinedRequest time slot s
  | .resolutionStep time => Sys2Proof.Machine.execResolutionStep time s
  | .resolutionComplete time => Sys2Proof.Machine.execResolutionComplete time s
  | .phaseTimeLimitExpiry head => Sys2Proof.Machine.execPhaseTimeLimitExpiry head s
  | .sniftHoldExpiry head => Sys2Proof.Machine.execSniftHoldExpiry head s
  | .conversionComplete raw => Sys2Proof.Machine.execConversionComplete raw s
  | .meterPulse time head meter => Sys2Proof.Machine.execMeterPulse time head meter s
  | .settleWindowExpiry head meter => Sys2Proof.Machine.execSettleWindowExpiry head meter s
  | .settleLimitExpiry head meter => Sys2Proof.Machine.execSettleLimitExpiry head meter s
  | .feedbackInputChange time head valve active => Sys2Proof.Machine.execFeedbackInputChange time head valve active s
  | .feedbackDebounceExpiry head valve => Sys2Proof.Machine.execFeedbackDebounceExpiry head valve s
  | .strokeExpiry head valve => Sys2Proof.Machine.execStrokeExpiry head valve s
  | .containerPresentChange time head active => Sys2Proof.Machine.execContainerPresentChange time head active s
  | .containerDebounceExpiry head => Sys2Proof.Machine.execContainerDebounceExpiry head s
  | .frameOfUndefinedKind time frame => Sys2Proof.Machine.execFrameOfUndefinedKind time frame s
  | .assignmentOfUndefinedKind time slot => Sys2Proof.Machine.execAssignmentOfUndefinedKind time slot s
  | .resetRelease time => Sys2Proof.Machine.execResetRelease time s

end Sys2Proof.Machine
end

