-- ==== Sys2Proof/Safety.lean ====
section
/-! DEFINITION. What counts as a safe state of the block, and the words in which statements speak of requests. -/

namespace Sys2Proof.Machine

/-! ### Safe states -/

/-- The product interlock of R146 at one head: FAST, SLOW and ADD are commanded open only while the equalised flag is
set and SNIFT is commanded closed. -/
def Head.interlocked (x : Head) : Prop :=
  x.valves.fast.output = true ∨ x.valves.slow.output = true ∨ x.valves.add.output = true →
    x.seq.equalised = true ∧ x.valves.snift.output = false

/-- The product interlock at every head (R146). -/
def State.interlocked (s : State) : Prop := ∀ h : HeadId, (s.head h).interlocked

/-- Records plus outstanding reservations never exceed 48 (R154). -/
def State.recordsBounded (s : State) : Prop := s.orq.records.length + s.orq.reservations ≤ 48

/-- Table memory has its canonical form (R52, log 22). -/
def State.memoryWf (s : State) : Prop := Memory.wf s.tables.words = true

/-- Each learned afterflow lies within the afterflow maximum of its head and meter (R67). -/
def State.learnedBounded (s : State) : Prop :=
  ∀ (h : HeadId) (m : Meter), (s.head h).table.learned.get m ≤ (s.head h).table.afterflowMax.get m

/-- At most one trace descriptor is RUNNING (R165). -/
def State.oneTraceRuns (s : State) : Prop := ¬(s.trace.a.state = .running ∧ s.trace.b.state = .running)

/-- The queue holds no more entries than its depth (R37, R40). -/
def State.queueBounded (s : State) : Prop := s.queue.entries.length ≤ s.settings.depth

/-- Every node setting lies in its range (R70). -/
def State.settingsInRange (s : State) : Prop := settingsOk s.settings = true

/-- The segment map and the load: every defined segment lies wholly within table memory, its length a non-zero multiple of
its record size; no two share a word; the open segment is the one LOADING, with the pointer within its length; and the
segment that the check engine holds is the one CHECKING (R54, R55, R56, R58, R62). -/
structure Tables.placed (t : Tables) : Prop where
  within : ∀ g : Fin 32, t.segments[g].state ≠ .undefined →
    ∃ k ∈ t.segments[g].kind, 0 < t.segments[g].length ∧ recordSize k ∣ t.segments[g].length ∧
      t.segments[g].base + t.segments[g].length ≤ 16384
  apart : ∀ g k : Fin 32, g ≠ k → t.segments[g].state ≠ .undefined → t.segments[k].state ≠ .undefined →
    t.segments[g].base + t.segments[g].length ≤ t.segments[k].base ∨
      t.segments[k].base + t.segments[k].length ≤ t.segments[g].base
  loading : ∀ g : Fin 32, t.segments[g].state = .loading ↔ t.openSegment = some g
  pointer : ∀ g : Fin 32, t.openSegment = some g → t.pointer ≤ t.segments[g].length
  checking : ∀ g : Fin 32, t.segments[g].state = .checking ↔ ∃ c ∈ t.check, c.segment = g

/-- The segments of the node are placed and loaded as the manual says. -/
def State.segmentsPlaced (s : State) : Prop := s.tables.placed

/-- Valves, records, table memory, segments, afterflows, traces, queue and settings are all safe. -/
structure State.Safe (s : State) : Prop where
  interlocked : s.interlocked
  recordsBounded : s.recordsBounded
  memoryWf : s.memoryWf
  segmentsPlaced : s.segmentsPlaced
  learnedBounded : s.learnedBounded
  oneTraceRuns : s.oneTraceRuns
  queueBounded : s.queueBounded
  settingsInRange : s.settingsInRange

/-! ### Requests that are answered (R172) -/

/-- The ring states in which requests are judged by their own rules: FAILED refuses all but NODE STATUS (R11, R172). -/
def State.judges (s : State) : Prop := s.ring.state = .joining ∨ s.ring.state = .locked ∨ s.ring.state = .holdover

/-- The destination is the node's latched address (R172). -/
def State.ownAddress (s : State) (dest : BitVec 6) : Prop := ∃ a, s.ring.address = some a ∧ dest.toNat = a.val

/-- The node judges a request to its own address: no soft reset is scheduled, and the ring state is one that judges. -/
def State.takesOwn (s : State) (q : Envelope) : Prop := s.resetScheduled = false ∧ s.judges ∧ s.ownAddress q.dest

/-- The node judges a request to its own address or to 63. -/
def State.takes (s : State) (q : Envelope) : Prop :=
  s.resetScheduled = false ∧ s.judges ∧ (q.dest = 63#6 ∨ s.ownAddress q.dest)

/-- The slot as the node leaves it when the answer is `a` (R172, R174). -/
def replied (m : MgmtSlot) (a : Answer) : MgmtSlot :=
  if m.dest = 63#6 then answerBroadcast a.result m else answerAddressed a m

/-- The envelope of a request row and the slot that the master writes for it (R172, R183); none for a row that is no
request of the 21 kinds. -/
def requestOf : Instr → Option (Envelope × MgmtSlot)
  | .segmentDefine q g b n k => some (q, plainSlot q 1#5 ⟨g, b, n, k, 0#32, 0#32⟩)
  | .segmentDelete q g => some (q, plainSlot q 2#5 (words1 g))
  | .loadOpen q g => some (q, plainSlot q 3#5 (words1 g))
  | .loadData q p n d => some (q, requestSlot q 4#5 n p d)
  | .loadClose q c => some (q, plainSlot q 5#5 (words1 c))
  | .segmentStatus q g => some (q, plainSlot q 6#5 (words1 g))
  | .tableRead q g i n => some (q, plainSlot q 7#5 ⟨g, i, n, 0#32, 0#32, 0#32⟩)
  | .directorySet q r a g i => some (q, plainSlot q 8#5 ⟨r, a, g, i, 0#32, 0#32⟩)
  | .headSetPlace q h p o k g f w a n =>
    some (q, plainSlot q 9#5 ⟨h, 1#32, p, wordOfHalves o k, wordOfBytes g f w a, n⟩)
  | .headSetMeters q h m a ms mr as ar => some (q, plainSlot q 9#5 ⟨h, 2#32, m, a, wordOfHalves ms mr, wordOfHalves as ar⟩)
  | .headSetAfterflow q h m a => some (q, plainSlot q 9#5 ⟨h, 3#32, m, a, 0#32, 0#32⟩)
  | .nodeSet q n d o p f bo bg => some (q, plainSlot q 10#5 ⟨n, d, o, wordOfHalves p f, bo, bg⟩)
  | .queueClear q => some (q, plainSlot q 11#5 words0)
  | .headControlOn q h => some (q, plainSlot q 12#5 (words2 h 1#32))
  | .headControlOff q h => some (q, plainSlot q 12#5 (words2 h 2#32))
  | .headControlClear q h => some (q, plainSlot q 12#5 (words2 h 3#32))
  | .headControlForget q h => some (q, plainSlot q 12#5 (words2 h 4#32))
  | .headControlStepOn q h => some (q, plainSlot q 12#5 (words2 h 5#32))
  | .headControlStepOff q h => some (q, plainSlot q 12#5 (words2 h 6#32))
  | .headControlStep q h => some (q, plainSlot q 12#5 (words2 h 7#32))
  | .countersRead q c => some (q, plainSlot q 13#5 (words1 c))
  | .totalsRead q r c => some (q, plainSlot q 14#5 (words2 r c))
  | .traceArm q d h g v n l t => some (q, plainSlot q 15#5 ⟨d, h, g, v, n, wordOfHalves l t⟩)
  | .traceStop q d => some (q, plainSlot q 16#5 (words1 d))
  | .traceRead q d o => some (q, plainSlot q 17#5 (words2 d o))
  | .nodeStatus q => some (q, plainSlot q 18#5 words0)
  | .headStatusCycle q h => some (q, plainSlot q 19#5 (words2 h 1#32))
  | .headStatusValves q h => some (q, plainSlot q 19#5 (words2 h 2#32))
  | .headStatusMetering q h => some (q, plainSlot q 19#5 (words2 h 3#32))
  | .nodeReset q => some (q, plainSlot q 20#5 words0)
  | .testDamageNext q => some (q, plainSlot q 21#5 (words1 1#32))
  | .testForceRail q h => some (q, plainSlot q 21#5 (words2 2#32 h))
  | .powerOnReset _ _ => none
  | .selfTestEnd _ _ => none
  | .pitchFrame _ _ => none
  | .serviceFrame _ _ => none
  | .pitchWindowExpiry => none
  | .containerAssignment _ _ _ _ _ _ => none
  | .gapAssignment _ _ _ _ _ _ => none
  | .checkComplete _ => none
  | .softReset _ => none
  | .undefinedRequest _ _ => none
  | .resolutionStep _ => none
  | .resolutionComplete _ => none
  | .phaseTimeLimitExpiry _ => none
  | .sniftHoldExpiry _ => none
  | .conversionComplete _ => none
  | .meterPulse _ _ _ => none
  | .settleWindowExpiry _ _ => none
  | .settleLimitExpiry _ _ => none
  | .feedbackInputChange _ _ _ _ => none
  | .feedbackDebounceExpiry _ _ => none
  | .strokeExpiry _ _ => none
  | .containerPresentChange _ _ _ => none
  | .containerDebounceExpiry _ => none
  | .frameOfUndefinedKind _ _ => none
  | .assignmentOfUndefinedKind _ _ => none
  | .resetRelease _ => none

/-- The state that a request leaves: the changed state `t`, at the request's time, with the answered slot on ring OUT. -/
def State.answered (t : State) (q : Envelope) (m : MgmtSlot) (a : Answer) : State :=
  { t with now := max t.now q.time, mgmtOut := some (replied m a) }

/-! ### Frames that are used (R5) -/

/-- A frame that the node takes and uses: good, unmarked, of defined kind and carousel state, while RESET is released and
no soft reset is scheduled (R2, R4, R5). -/
def State.usesFrame (s : State) (f : Frame) : Prop :=
  s.resetHeld = false ∧ s.resetScheduled = false ∧ goodFrame f = true ∧ usableFrame f = true

end Sys2Proof.Machine
end

