-- ==== Sys2Proof/Certificates/Slice0/Obligations.lean ====
section
/-! DEFINITION. The statements for the provers, each over the rules of the manual that its docstring names. A hypothesis
`s.takes q` says that the node judges the request, at its own address or at 63; `t.answered q m a` is the state `t` with the
answer `a` written into the slot `m` (Safety.lean). -/

open Sys2Proof Sys2Proof.Machine

/-! ### The queue of commands, and the states that every step keeps -/

/-- A step takes the command at the front of the queue and carries it out on the state with the queue's rest; on an empty
queue the block idles (log 8). -/
def Obligations.StepRunsTheFrontCommand : Prop :=
  ∀ (c : Instr) (rest : List Instr) (s : State),
    step { s with pending := c :: rest } = exec c { s with pending := rest } ∧
      step { s with pending := [] } = .next { s with pending := [] }

/-- Every command is carried out in every state: no command stops the block, none touches the queue of commands, and none
takes the time back (log 1). -/
def Obligations.EveryCommandGoesOn : Prop :=
  ∀ (c : Instr) (s : State), ∃ t : State, exec c s = .next t ∧ t.pending = s.pending ∧ s.now ≤ t.now

/-- R146: FAST, SLOW and ADD are commanded open only while the equalised flag is set and SNIFT is commanded closed; every
step keeps this. -/
def Obligations.InterlockIsKeptByEveryStep : Prop :=
  ∀ s t : State, s.interlocked → step s = .next t → t.interlocked

/-- R154: records and reservations together stay within the 48 places of the queue. -/
def Obligations.RecordPlacesAreKeptByEveryStep : Prop :=
  ∀ s t : State, s.recordsBounded → step s = .next t → t.recordsBounded

/-- R52, R54, R58, R62: table memory keeps the canonical form that the model gives it (log 22), with no word beyond the last;
and the segment map keeps every defined segment wholly within the words, with a length that is a non-zero multiple of its
record size, and sharing no word with another, while the open segment is the one LOADING and the segment under check the one
CHECKING. Each of the two is kept on its own. -/
def Obligations.TablesAreKeptByEveryStep : Prop :=
  ∀ s t : State, step s = .next t → (s.memoryWf → t.memoryWf) ∧ (s.segmentsPlaced → t.segmentsPlaced)

/-- R67, R165, R37, R70: four bounds that every step keeps, each on its own. Learned afterflows stay within the maximum of
their head and meter; at most one trace descriptor is RUNNING; the Assignment Queue holds no more entries than its depth; and
every node setting stays in its range. -/
def Obligations.BoundsAreKeptByEveryStep : Prop :=
  ∀ s t : State, step s = .next t →
    (s.learnedBounded → t.learnedBounded) ∧ (s.oneTraceRuns → t.oneTraceRuns) ∧
      (s.queueBounded → t.queueBounded) ∧ (s.settingsInRange → t.settingsInRange)

/-- The state that the model takes for the one right after power-on reset (log 7) is safe in all eight ways. -/
def Obligations.PowerOnStateIsSafe : Prop := State.reset.Safe

/-! ### Resets -/

/-- R1: a power-on reset by either cause puts every block at its power-on value: BYPASS, heads OFF, tables and map empty,
settings at their defaults, all counts 0. At power-up the self-test and a bowl conversion start at once, and while the RESET
input is asserted neither has started (log 5). Pins keep their levels, and the debounce candidates start from them. -/
def Obligations.PowerOnResetSetsEveryBlock : Prop :=
  ∀ (time : Ticks) (cause : ResetCause) (s : State), ∃ t : State, exec (.powerOnReset time cause) s = .next t ∧
    t.ring.state = .bypass ∧ t.ring.address = none ∧ t.ring.badCount = 0 ∧ t.ring.run.length = 0 ∧
    t.ring.damagePending = false ∧ t.resetScheduled = false ∧
    t.pitch = ⟨.none, none, none, none, false, none, false⟩ ∧ t.queue = ⟨[], true⟩ ∧
    (∀ a, Memory.read t.tables.words a = 0#32) ∧ (∀ g : Fin 32, t.segment g = ⟨.undefined, none, 0, 0, 0#16, 0#16⟩) ∧
    t.tables.openSegment = none ∧ t.tables.pointer = 0 ∧ t.tables.check = none ∧
    (∀ n : Fin 128, t.directory[n] = none) ∧ t.settings = ⟨144, 32, 8, 5, 3, 0, 10000⟩ ∧ t.resolver = ⟨[], none⟩ ∧
    (∀ h : HeadId, (t.seq h).state = .off ∧ (t.seq h).planIndex = 0 ∧ (t.seq h).progress = .none ∧ (t.seq h).timer = none ∧
      (t.seq h).equalised = false ∧ (t.seq h).sniftBegun = false ∧ (t.seq h).stepMode = false ∧ (t.seq h).entry = none ∧
      (t.seq h).reserved = false ∧ (t.seq h).flags = ⟨false, false, false, false, false, false, false⟩ ∧
      (t.seq h).faultPending = false ∧ (t.seq h).elapsed = none ∧ (t.head h).cycle = none ∧
      (t.head h).table = ⟨0, 0, 0, ⟨0, 0, 0, 0, 0⟩, ⟨0, 0⟩, ⟨⟨0, 0⟩, ⟨0, 0⟩⟩, ⟨0, 0⟩, ⟨0, 0⟩, none⟩ ∧
      (t.head h).stray = 0 ∧ (t.head h).scan = ⟨none, none, false, 0⟩ ∧ (t.head h).forced = 0 ∧
      (t.head h).presence = .none ∧ (t.head h).lastAdditive = 0 ∧ (t.head h).presentPin = (s.head h).presentPin ∧
      (t.head h).presenceCandidate = ⟨(s.head h).presentPin, max s.now time⟩ ∧
      (∀ m, t.chan h m = ⟨.idle, 0, 0, 0, 0, none, 0, .none, none, none, none, .none, 0, .none, 0⟩) ∧
      (∀ v, t.valve h v =
        ⟨false, false, .none, ⟨(s.valve h v).pin, max s.now time⟩, .idle, none, (s.valve h v).pin⟩)) ∧
    t.orq = ⟨[], 0, false⟩ ∧ (∀ c : CounterId, t.counter c = 0#16) ∧ (∀ n : Fin 128, t.totals[n] = ⟨0, 0, 0, 0, 0⟩) ∧
    (∀ b : Bool, t.trace.get b = ⟨.idle, 0, .mainRate, 1, 1, .immediate, false, 0, 0, Vector.replicate 512 0#16⟩) ∧
    t.scanner.bowl = ⟨none, none, false, 0⟩ ∧ t.scanner.request = false ∧ t.scanner.pointer = .bowl ∧
    t.scanner.conversion.channel = .bowl ∧ t.scanner.conversion.byRequest = false ∧
    (cause = .powerUp → t.resetHeld = false ∧ t.selfTest = true ∧ t.scanner.conversion.started = some (max s.now time)) ∧
    (cause = .resetInput → t.resetHeld = true ∧ t.selfTest = false ∧ t.scanner.conversion.started = none) ∧
    t.now = max s.now time ∧ t.pending = s.pending

/-- R133, R145, R10: when RESET is released, the self-test and the first bowl conversion start and every debounce candidate
starts from the level of its input; with RESET not held there is nothing to release (log 5). A self-test that passes leaves
every word of table memory 0 and takes the node from BYPASS to JOINING, its heads as they are; one that fails takes it to
FAILED, and leaves table memory as it stood, which is the model's choice (log 26). -/
def Obligations.ReleaseAndSelfTestStartTheNode : Prop :=
  ∀ (time : Ticks) (s : State),
    (s.resetHeld = true →
      exec (.resetRelease time) s = .next
        { s with
          now := max s.now time
          resetHeld := false
          selfTest := true
          scanner := { s.scanner with conversion := { s.scanner.conversion with started := some (max s.now time) } }
          heads := s.heads.map fun x =>
            { x with
              presenceCandidate := ⟨x.presentPin, max s.now time⟩
              valves :=
                { gas := { x.valves.gas with candidate := ⟨x.valves.gas.pin, max s.now time⟩ }
                  fast := { x.valves.fast with candidate := ⟨x.valves.fast.pin, max s.now time⟩ }
                  slow := { x.valves.slow with candidate := ⟨x.valves.slow.pin, max s.now time⟩ }
                  add := { x.valves.add with candidate := ⟨x.valves.add.pin, max s.now time⟩ }
                  snift := { x.valves.snift with candidate := ⟨x.valves.snift.pin, max s.now time⟩ } } } }) ∧
    (s.resetHeld = false → exec (.resetRelease time) s = .next { s with now := max s.now time }) ∧
    (s.selfTest = true → s.ring.state = .bypass →
      exec (.selfTestEnd time true) s = .next
        { s with
          now := max s.now time
          selfTest := false
          ring := { s.ring with state := .joining, badCount := 0, run := { s.ring.run with length := 0 }, address := none }
          tables := { s.tables with words := [] }
          pitch :=
            { s.pitch with
              estimate := none, sequence := none, joinRef := none, measureValid := false, window := none
              lastBeyond := false } } ∧
      exec (.selfTestEnd time false) s = .next
        { s with now := max s.now time, selfTest := false, ring := { s.ring with state := .failed } })

/-- R178: what a soft reset leaves in each block, when one is scheduled; and none is taken otherwise (log 9). R133, R145, R35:
no bowl request is pending, the round-robin pointer is at the bowl, no channel holds a reading, each debounce candidate is the
level of its input from that time on, and each elapsed count is undefined. That each sequencer's debounce counts are 0 is the
model's choice (log 40). That every debounced level is NONE right after it, for a debounce time of 0 too, is the model's choice (log 20). -/
def Obligations.SoftResetSetsEveryBlock : Prop :=
  ∀ (time : Ticks) (s : State),
    (s.resetScheduled = false → exec (.softReset time) s = .next { s with now := max s.now time }) ∧
    (s.resetScheduled = true → ∃ t : State, exec (.softReset time) s = .next t ∧
      t.resetScheduled = false ∧ t.now = max s.now time ∧
      t.ring.state = .joining ∧ t.ring.address = none ∧ t.ring.badCount = 0 ∧ t.ring.run.length = 0 ∧
      t.ring.damagePending = false ∧ t.selfTest = s.selfTest ∧
      t.pitch = ⟨.none, none, none, none, false, none, false⟩ ∧ t.queue = ⟨[], true⟩ ∧ t.settings = s.settings ∧
      t.tables.words = s.tables.words ∧ t.tables.openSegment = none ∧ t.tables.pointer = 0 ∧ t.tables.check = none ∧
      (∀ g : Fin 32, t.segment g =
        if (s.segment g).state = .loading ∨ (s.segment g).state = .checking then { s.segment g with state := .bad }
        else s.segment g) ∧
      t.directory = s.directory ∧ t.resolver = ⟨[], none⟩ ∧ t.totals = s.totals ∧
      (∀ h : HeadId, (t.head h).table = (s.head h).table ∧ (t.head h).cycle = (s.head h).cycle ∧
        (t.head h).lastAdditive = (s.head h).lastAdditive ∧
        (t.seq h).state = (if (s.seq h).state = .off then .off else .held) ∧ (t.seq h).planIndex = 0 ∧
        (t.seq h).progress = .none ∧ (t.seq h).timer = none ∧ (t.seq h).equalised = false ∧ (t.seq h).sniftBegun = false ∧
        (t.seq h).stepMode = false ∧ (t.seq h).entry = none ∧ (t.seq h).reserved = false ∧
        (t.seq h).flags = ⟨false, false, false, false, false, false, false⟩ ∧ (t.seq h).faultPending = false ∧
        (t.seq h).elapsed = none ∧ (t.seq h).condCount = 0 ∧ (t.seq h).burstCount = 0 ∧
        (∀ m, t.chan h m = ⟨.idle, 0, 0, 0, 0, none, 0, .none, none, none, none, .none, 0, .none, 0⟩) ∧
        (t.head h).stray = 0 ∧ (t.head h).scan = ⟨none, none, false, 0⟩ ∧ (t.head h).forced = 0 ∧
        (t.head h).presence = .none ∧ (t.head h).presentPin = (s.head h).presentPin ∧
        (t.head h).presenceCandidate = ⟨(s.head h).presentPin, max s.now time⟩ ∧
        ∀ v, (t.valve h v).request = false ∧ (t.valve h v).output = false ∧ (t.valve h v).feedback = .none ∧
          (t.valve h v).supervision = .idle ∧ (t.valve h v).expiry = none ∧ (t.valve h v).pin = (s.valve h v).pin ∧
          (t.valve h v).candidate = ⟨(s.valve h v).pin, max s.now time⟩) ∧
      t.scanner = ⟨⟨.bowl, false, some (max s.now time)⟩, .bowl, false, ⟨none, none, false, 0⟩⟩ ∧
      t.orq = ⟨[], 0, false⟩ ∧ (∀ c : CounterId, t.counter c = 0#16) ∧
      ∀ b : Bool, t.trace.get b = { s.trace.get b with state := .idle, ticks := 0, samples := 0, link := false })

/-! ### Frames -/

/-- R180, R181: a frame is 158 bytes, and reading them gives every field back; and any 158 bytes are the bytes of one frame,
so no bit is dropped, while no other number of bytes is a frame. -/
def Obligations.FramesAndBytesReadBack : Prop :=
  (∀ f : Frame, (frameBytes f).length = 158 ∧ frameOfBytes (frameBytes f) = some f) ∧
    ∀ bs : List Byte, (bs.length = 158 → ∃ f, frameOfBytes bs = some f ∧ frameBytes f = bs) ∧
      (bs.length ≠ 158 → frameOfBytes bs = none)

/-- R10, R6, R7, R185: in BYPASS, and while RESET is held, a frame of any kind passes untouched and none of its content is
used. In every other ring state it leaves with its hop count raised, 255 staying 255, and with the correct check, or with the
correct check inverted when an insertion was pending, which is then clear (log 27, where the frame carries another TEST). -/
def Obligations.FramesAreForwarded : Prop :=
  ∀ (time : Ticks) (f : Frame) (i : Instr) (s : State),
    i ∈ [Instr.pitchFrame time f, .serviceFrame time f, .frameOfUndefinedKind time f] →
    (s.ring.state = .bypass ∨ s.resetHeld = true → exec i s = .next { s with now := max s.now time, frameOut := some f }) ∧
    (s.resetHeld = false → s.ring.state ≠ .bypass → s.resetScheduled = false →
      ∃ (t : State) (g : Frame), exec i s = .next t ∧ t.frameOut = some g ∧
        g.hop.toNat = min 255 (f.hop.toNat + 1) ∧
        (s.ring.damagePending = false → g.check = checkOf (frameContent g)) ∧
        (s.ring.damagePending = true → g.check = ~~~checkOf (frameContent g) ∧ t.ring.damagePending = false))

/-- R3, R4, R6, R7: a bad frame leaves with its damage mark set, its hop count raised and a fresh check, and is counted:
nothing else changes but the records when that counter wraps. That the mark is written as 1 over a mark of 2 to 255 too is
the model's choice (log 36). A good frame that is marked, or of undefined kind, or of undefined carousel state, leaves with
its hop count raised and a fresh check, and is not counted. No content of either is used. -/
def Obligations.UnusedFramesAreForwarded : Prop :=
  ∀ (time : Ticks) (f : Frame) (i : Instr) (s : State),
    i ∈ [Instr.pitchFrame time f, .serviceFrame time f, .frameOfUndefinedKind time f] →
    s.resetHeld = false → s.ring.state ≠ .bypass → s.resetScheduled = false →
    let sent := fun g : Frame =>
      let c := checkOf (frameContent g)
      some { g with check := if s.ring.damagePending then ~~~c else c }
    let hop : Byte := BitVec.ofNat 8 (min 255 (f.hop.toNat + 1))
    (checkOf (frameContent f) ≠ f.check → ∃ t : State, exec i s = .next t ∧
      t.counter .damagedFrames = s.counter .damagedFrames + 1#16 ∧
      t.frameOut = sent { f with damage := 1#8, hop := hop } ∧
      { t with counters := s.counters, orq := s.orq, frameOut := s.frameOut, now := s.now, ring := s.ring } = s ∧
      t.ring = { s.ring with damagePending := false } ∧ t.now = max s.now time ∧
      (s.counter .damagedFrames ≠ 65535#16 →
        t.orq = s.orq ∧ ∀ c : CounterId, c ≠ .damagedFrames → t.counter c = s.counter c)) ∧
    (checkOf (frameContent f) = f.check →
      (f.damage ≠ 0#8 ∨ f.kind ∉ [1#8, 2#8] ∨ f.carousel ∉ [1#8, 2#8, 3#8]) →
      exec i s = .next
        { s with
          now := max s.now time
          ring := { s.ring with damagePending := false }
          frameOut := sent { f with hop := hop } })

/-- R8: a used frame leaves with the attention bit of the node's address set exactly when the node is FAILED, holds an ALARM
record, or has a head in FAULT, and with every other bit as it came; an unlatched node writes none. -/
def Obligations.AttentionBitShowsTheNode : Prop :=
  ∀ (time : Ticks) (f : Frame) (i : Instr) (s : State),
    i ∈ [Instr.pitchFrame time f, .serviceFrame time f] → s.usesFrame f → s.ring.state ≠ .bypass →
    ∃ (t : State) (g : Frame), exec i s = .next t ∧ t.frameOut = some g ∧
      (t.ring.address = none → g.attention = f.attention) ∧
      ∀ a : Fin 32, t.ring.address = some a →
        (g.attention.getLsbD a.val = true ↔
          t.ring.state = .failed ∨ (∃ r ∈ t.orq.records, r.kind = .alarm) ∨ ∃ h : HeadId, (t.seq h).state = .fault) ∧
        ∀ b : Fin 32, b ≠ a → g.attention.getLsbD b.val = f.attention.getLsbD b.val

/-- R5, R158: steps 3 to 5 of a frame. The oldest records go, in order, into the EMPTY result slots in slot order, at most two
in a frame, and every other slot passes untouched; only LOCKED and HOLDOVER write any. A used frame of either kind takes its
six assignment slots in slot order, then its management slot, then its result slots, each on the state that the step before
leaves, and a record leaves under the latched address of that moment. A damage insertion that was pending is used up by the
frame, also where the frame carries another TEST (log 27). -/
def Obligations.OldestRecordsFillEmptySlots : Prop :=
  (∀ (f : Frame) (s : State),
    let ins := [f.r0, f.r1, f.r2, f.r3]
    let r := resultStep f s
    let outs := [r.1.r0, r.1.r1, r.1.r2, r.1.r3]
    let emptyBefore := fun k => ((ins.take k).filter fun x => x.kind == 0#8).length
    let n := if s.ring.state = .locked ∨ s.ring.state = .holdover then
      min 2 (min (emptyBefore 4) s.orq.records.length) else 0
    r.2 = { s with orq := { s.orq with records := s.orq.records.drop n } } ∧
      { r.1 with r0 := f.r0, r1 := f.r1, r2 := f.r2, r3 := f.r3 } = f ∧
      ∀ k : Fin 4, outs[k.val]? =
        match ins[k.val]?, s.orq.records[emptyBefore k.val]? with
        | some x, some y =>
          if x.kind = 0#8 ∧ emptyBefore k.val < n then
            some ⟨BitVec.ofNat 8 (recordKindCode y.kind), nodeField s, y.head, y.serial, y.recipe, y.code, y.flags, y.valueA,
              y.valueB⟩
          else some x
        | x, _ => x) ∧
  ∀ (time : Ticks) (f : Frame) (i : Instr) (s : State),
    i ∈ [Instr.pitchFrame time f, .serviceFrame time f] → s.usesFrame f → s.ring.state ≠ .bypass →
    let header := headerStep f (addressStep f.hop { s with now := max s.now time })
    let x0 := takeSlot f.a0 header
    let x1 := takeSlot f.a1 x0.2
    let x2 := takeSlot f.a2 x1.2
    let x3 := takeSlot f.a3 x2.2
    let x4 := takeSlot f.a4 x3.2
    let x5 := takeSlot f.a5 x4.2
    let y := handleSlot f.mgmt x5.2
    let v := y.2
    let ins := [f.r0, f.r1, f.r2, f.r3]
    let emptyBefore := fun k => ((ins.take k).filter fun x => x.kind == 0#8).length
    let n := if v.ring.state = .locked ∨ v.ring.state = .holdover then
      min 2 (min (emptyBefore 4) v.orq.records.length) else 0
    ∃ (t : State) (g : Frame), exec i s = .next t ∧ t.frameOut = some g ∧
      [g.a0, g.a1, g.a2, g.a3, g.a4, g.a5] = [x0.1, x1.1, x2.1, x3.1, x4.1, x5.1] ∧ g.mgmt = y.1 ∧
      t.orq = { v.orq with records := v.orq.records.drop n } ∧
      { t with orq := v.orq, frameOut := v.frameOut, ring := v.ring } = v ∧
      t.ring = { v.ring with damagePending := v.ring.damagePending && !s.ring.damagePending } ∧
      ∀ a : Fin 32, v.ring.address = some a → ∀ k : Fin 4, [g.r0, g.r1, g.r2, g.r3][k.val]? =
        match ins[k.val]?, v.orq.records[emptyBefore k.val]? with
        | some x, some r =>
          if x.kind = 0#8 ∧ emptyBefore k.val < n then
            some ⟨BitVec.ofNat 8 (recordKindCode r.kind), BitVec.ofNat 8 a.val, r.head, r.serial, r.recipe, r.code, r.flags,
              r.valueA, r.valueB⟩
          else some x
        | x, _ => x

/-- R11, R12, R20, R13, R14: the hop count of a used frame is the node's address. In JOINING, BLIND and FAILED it is latched,
and a count of 32 or more leaves the node unlatched; BLIND becomes JOINING. In LOCKED and HOLDOVER another count than the
latched one takes the node to JOINING under the new address as a ring loss: queue empty, alarm recorded where there is room,
and every IDLE head HELD. -/
def Obligations.HopCountIsTheAddress : Prop :=
  ∀ (time : Ticks) (f : Frame) (i : Instr) (s : State),
    i ∈ [Instr.pitchFrame time f, .serviceFrame time f] → s.usesFrame f →
    ((s.ring.state = .joining ∨ s.ring.state = .failed ∨ s.ring.state = .blind) →
      ∃ t : State, exec i s = .next t ∧
        (∀ a : Fin 32, f.hop.toNat = a.val → t.ring.address = some a) ∧ (32 ≤ f.hop.toNat → t.ring.address = none) ∧
        (s.ring.state = .failed → t.ring.state = .failed) ∧ (s.ring.state = .blind → t.ring.state = .joining)) ∧
    ∀ old : Fin 32, (s.ring.state = .locked ∨ s.ring.state = .holdover) → s.ring.address = some old →
      f.hop.toNat ≠ old.val →
      ∃ t : State, exec i s = .next t ∧ t.ring.state = .joining ∧ t.ring.badCount = 0 ∧
        (∀ a : Fin 32, f.hop.toNat = a.val → t.ring.address = some a) ∧ (32 ≤ f.hop.toNat → t.ring.address = none) ∧
        t.pitch.sequence = none ∧ t.pitch.estimate = none ∧ t.queue = ⟨[], true⟩ ∧
        (s.orq.records.length + s.orq.reservations < 48 →
          ∃ r ∈ t.orq.records, r.kind = .alarm ∧ r.code = 16#8 ∧ r.head = 255#8 ∧
            r.valueA = f.hop.setWidth 32 ∧ r.valueB = BitVec.ofNat 24 old.val) ∧
        (f.mgmt.state ≠ 1#2 → ∀ h : HeadId, (s.seq h).state = .idle → (t.seq h).state = .held)

/-- R5, R24, R16: a used SERVICE frame hands on its carousel state and no serial. STOPPED and JOG drop the estimate, the
window and the measurement start, and empty the bad-pitch count; RUNNING leaves all four. R36: what a NODE SET has made of
the last position stays for the next PITCH frame, unless the frame's own request is a NODE SET. Sequence, ring state and
address stay. -/
def Obligations.ServiceFrameShowsTheCarousel : Prop :=
  ∀ (time : Ticks) (f : Frame) (c : Carousel) (a : Fin 32) (s : State), s.usesFrame f → f.kind = 2#8 →
    (s.ring.state = .joining ∨ s.ring.state = .locked ∨ s.ring.state = .holdover) → s.ring.address = some a →
    f.hop.toNat = a.val → carouselOf f.carousel = some c →
    ∃ t : State, exec (.serviceFrame time f) s = .next t ∧
      t.pitch =
        (let p := { s.pitch with carousel := c, lastBeyond := t.pitch.lastBeyond }
         if c = .running then p else { p with estimate := none, window := none, measureValid := false }) ∧
      (f.mgmt.state ≠ 1#2 → t.pitch.lastBeyond = s.pitch.lastBeyond) ∧
      t.ring.state = s.ring.state ∧ t.ring.address = s.ring.address ∧ t.ring.run = s.ring.run ∧
      t.ring.badCount = (if c = .running then s.ring.badCount else 0) ∧ t.now = max s.now time

/-! ### Pitches -/

/-- R15, R26, R27, R35: a used PITCH frame in JOINING. The second of two consecutive frames locks a latched node, starts the
sequence and is taken as a pitch event by every head, and by the scanner as a bowl request (R25, R135), said of a frame with no
request of its own; any other issues no event, starts a new run of length 1 and becomes the join reference, and so does,
whatever its position, the next frame after a NODE SET that has put the last position out of range (R36, log 32).
R109: every HELD head is IDLE from the lock on, ahead of the first event, at which it may begin a resolution. R15: a node that
is unlatched, and stays so at a hop count of 32 or more, stays in JOINING with a run of length 1 whether the frame follows or
not, and its heads stay HELD. -/
def Obligations.SecondPitchFrameLocksTheNode : Prop :=
  (∀ (time : Ticks) (f : Frame) (c : Carousel) (a : Fin 32) (s : State), s.usesFrame f → f.kind = 1#8 →
    s.ring.state = .joining → s.ring.address = some a → f.hop.toNat = a.val → carouselOf f.carousel = some c →
    let follows := s.pitch.lastBeyond = false ∧ s.ring.run.length = 1 ∧ f.serial = s.ring.run.serial + 1#16 ∧
      f.position.toNat = (s.ring.run.position + 1) % s.settings.nPos
    let arrival := max s.now time / 10
    (follows → ∃ t : State, exec (.pitchFrame time f) s = .next t ∧ t.ring.state = .locked ∧
      t.pitch.sequence = some ⟨f.serial, f.position.toNat, .received, arrival⟩ ∧ t.pitch.joinRef = none ∧
      t.ring.badCount = 0 ∧ t.ring.address = some a ∧
      (∀ h : HeadId, (t.seq h).elapsed =
        some (elapsedCount s.settings.nPos f.position.toNat (s.head h).table.position)) ∧
      (f.mgmt.state ≠ 1#2 → t.scanner.request = true) ∧
      (f.mgmt.state ≠ 1#2 → ∀ h : HeadId, (s.seq h).state = .held →
        (t.seq h).state ∈ [HeadState.idle, .resolving] ∧
          (s.queue.entries = [] ∨ (s.head h).table.position ≠ f.position.toNat → (t.seq h).state = .idle))) ∧
    (¬follows → ∃ t : State, exec (.pitchFrame time f) s = .next t ∧ t.ring.state = .joining ∧
      t.ring.run = ⟨1, f.serial, f.position.toNat⟩ ∧ t.pitch.sequence = s.pitch.sequence ∧
      t.pitch.joinRef = some ⟨f.serial, f.position.toNat, arrival, c⟩ ∧ t.ring.badCount = 0 ∧
      (f.mgmt.state ≠ 1#2 → t.pitch.lastBeyond = false ∧ t.scanner = s.scanner) ∧
      (s.pitch.lastBeyond = true → t.pitch.estimate = if c = .running then s.pitch.estimate else none))) ∧
  ∀ (time : Ticks) (f : Frame) (c : Carousel) (s : State), s.usesFrame f → f.kind = 1#8 → s.ring.state = .joining →
    s.ring.address = none → 32 ≤ f.hop.toNat → carouselOf f.carousel = some c →
    ∃ t : State, exec (.pitchFrame time f) s = .next t ∧ t.ring.state = .joining ∧ t.ring.address = none ∧
      t.ring.run = ⟨1, f.serial, f.position.toNat⟩ ∧ t.ring.badCount = 0 ∧ t.pitch.sequence = s.pitch.sequence ∧
      t.pitch.joinRef = some ⟨f.serial, f.position.toNat, max s.now time / 10, c⟩ ∧
      (f.mgmt.state ≠ 1#2 → ∀ h : HeadId, (s.seq h).state = .held → (t.seq h).state = .held)

/-- R30, R28, R18, R35: the expected PITCH frame in LOCKED or HOLDOVER. The sequence takes it, the estimate measures the gap
when it may, the bad-pitch count is empty, the window runs from the arrival, and every head takes one pitch event. R25, R135:
the event makes a bowl request, or is absorbed in one that is pending; a HEAD CONTROL OFF in the same frame may use it up, so
that this is said of a frame with no request. In HOLDOVER the frame extends or restarts the lock run, and the second
consecutive frame returns the node to LOCKED. The next frame after a NODE SET that has put the last position out of range is
never expected (R36, DiscontinuityRejoinsTheRing). -/
def Obligations.ExpectedPitchIsReceived : Prop :=
  ∀ (time : Ticks) (f : Frame) (c : Carousel) (q : PitchSequence) (a : Fin 32) (s : State), s.usesFrame f →
    f.kind = 1#8 → (s.ring.state = .locked ∨ s.ring.state = .holdover) → s.ring.address = some a → f.hop.toNat = a.val →
    carouselOf f.carousel = some c → s.pitch.sequence = some q → s.pitch.lastBeyond = false →
    f.serial = q.serial + 1#16 → f.position.toNat = (q.position + 1) % s.settings.nPos →
    let arrival := max s.now time / 10
    let gap := arrival - q.time
    let measured :=
      match s.pitch.estimate with
      | none => max 1000 (min 2000000 gap)
      | some i =>
        let k := max (i / 2) (min (2 * i) gap)
        max 1000 (min 2000000 (if i ≤ k then i + (k - i) / 8 else i - (i - k) / 8))
    ∃ t : State, exec (.pitchFrame time f) s = .next t ∧
      t.pitch.sequence = some ⟨f.serial, f.position.toNat, .received, arrival⟩ ∧ t.ring.badCount = 0 ∧
      t.pitch.carousel = c ∧
      t.pitch.estimate =
        (if c ≠ .running then none
         else if q.kind = .received ∧ s.pitch.measureValid = true then some measured
         else s.pitch.estimate) ∧
      t.pitch.window = t.pitch.estimate.map (fun i => arrival + i + i / 2) ∧
      (s.ring.state = .locked → t.ring.state = .locked) ∧
      (s.ring.state = .holdover →
        let r := s.ring.run
        let second := r.length = 1 ∧ f.serial = r.serial + 1#16 ∧ f.position.toNat = (r.position + 1) % s.settings.nPos
        t.ring.state = (if second then .locked else .holdover) ∧
          t.ring.run = ⟨if second then 2 else 1, f.serial, f.position.toNat⟩) ∧
      (f.mgmt.state ≠ 1#2 → t.scanner.request = true) ∧
      ∀ h : HeadId, (t.seq h).elapsed =
        some (elapsedCount s.settings.nPos f.position.toNat (s.head h).table.position)

/-- R31, R32: two other frames that go on with the sequence. A frame that reconfirms an estimated pitch issues no event:
serial and position stay, every head keeps its elapsed count, and the timing restarts from the arrival. A catch-up makes up
the missing serials as estimated events, each counted as MISSING_PITCHES, before the frame's own event. Neither measures a
gap. R25, R135: the events of a catch-up make one bowl request, and a reconfirmation makes none, in a frame with no request. The
next frame after a NODE SET that has put the last position out of range is neither (R36,
DiscontinuityRejoinsTheRing). -/
def Obligations.ReconfirmationAndCatchUp : Prop :=
  ∀ (time : Ticks) (f : Frame) (c : Carousel) (q : PitchSequence) (a : Fin 32) (s : State), s.usesFrame f →
    f.kind = 1#8 → (s.ring.state = .locked ∨ s.ring.state = .holdover) → s.ring.address = some a → f.hop.toNat = a.val →
    carouselOf f.carousel = some c → s.pitch.sequence = some q → s.pitch.lastBeyond = false →
    let arrival := max s.now time / 10
    let timing := fun t : State =>
      t.pitch.estimate = (if c = .running then s.pitch.estimate else none) ∧
        t.pitch.window = t.pitch.estimate.map (fun i => arrival + i + i / 2) ∧ t.ring.badCount = 0
    (q.kind = .estimated → f.serial = q.serial → f.position.toNat = q.position → q.position < s.settings.nPos →
      ∃ t : State, exec (.pitchFrame time f) s = .next t ∧ timing t ∧
        t.pitch.sequence = some ⟨q.serial, q.position, .received, arrival⟩ ∧
        (f.mgmt.state ≠ 1#2 → t.scanner = s.scanner) ∧
        ∀ h : HeadId, (t.seq h).elapsed = (s.seq h).elapsed) ∧
    ∀ n : Nat, 1 ≤ n → n ≤ s.settings.holdover → n ≤ 16 → f.serial = q.serial + 1#16 + BitVec.ofNat 16 n →
      f.position.toNat = (q.position + n + 1) % s.settings.nPos →
      ∃ t : State, exec (.pitchFrame time f) s = .next t ∧ timing t ∧
        t.pitch.sequence = some ⟨f.serial, f.position.toNat, .received, arrival⟩ ∧
        (f.mgmt.state ≠ 1#2 →
          t.counter .missingPitches = s.counter .missingPitches + BitVec.ofNat 16 n ∧ t.scanner.request = true) ∧
        ∀ h : HeadId, (t.seq h).elapsed =
          some (elapsedCount s.settings.nPos f.position.toNat (s.head h).table.position)

/-- R33, R21, R36: a PITCH frame that fits no case breaks continuity, and so does one at N_pos or greater, and, whatever its
position, the next one after a NODE SET that has put the last position out of range (log 32): the node goes to JOINING as a
ring loss with its address kept, the alarm is recorded where there is room, and no event is issued. R14: the lock run and the
bad-pitch count are empty. R108: an IDLE head is HELD, a resolution is marked overtaken, and a cycle before its snift is forced
to snift with RING_LOSS, its dose cut; a snift that has begun goes on in FORCED_SNIFT with RING_LOSS, from STEP_HOLD with the
next SNIFT entry (log 15). A header showing RUNNING has ended step mode first (log 37); what becomes of a head that it resumes
from STEP_HOLD is left out. -/
def Obligations.DiscontinuityRejoinsTheRing : Prop :=
  ∀ (time : Ticks) (f : Frame) (q : PitchSequence) (a : Fin 32) (s : State), s.usesFrame f → f.kind = 1#8 →
    s.settingsInRange → (s.ring.state = .locked ∨ s.ring.state = .holdover) → s.ring.address = some a →
    f.hop.toNat = a.val → s.pitch.sequence = some q →
    (let d := (f.serial - q.serial).toNat
     s.pitch.lastBeyond = true ∨ s.settings.nPos ≤ f.position.toNat ∨
     ¬(d = 1 ∧ f.position.toNat = (q.position + 1) % s.settings.nPos) ∧
     ¬(d = 0 ∧ q.kind = .estimated ∧ f.position.toNat = q.position) ∧
     ¬(2 ≤ d ∧ d ≤ s.settings.holdover + 1 ∧ f.position.toNat = (q.position + d) % s.settings.nPos)) →
    ∃ t : State, exec (.pitchFrame time f) s = .next t ∧ t.ring.state = .joining ∧ t.ring.address = s.ring.address ∧
      t.ring.run.length = 0 ∧ t.ring.badCount = 0 ∧ t.pitch.sequence = none ∧ t.pitch.joinRef = none ∧
      t.queue = ⟨[], true⟩ ∧ (∀ h : HeadId, (t.seq h).elapsed = (s.seq h).elapsed) ∧
      (f.mgmt.state ≠ 1#2 → ∀ h : HeadId,
        let x := { s.seq h with stepMode := (s.seq h).stepMode && decide (f.carousel ≠ 3#8) }
        let flags := { x.flags with ringLoss := true }
        let plan := (s.head h).cycle.elim [] CycleRecord.plan
        let cut := fun c : Channel =>
          if c.state = .dosing then
            { c with
              state := .settling, closeKind := .cut, closeVolume := some c.volume, settleStart := some (max s.now time)
              lastPulse := none }
          else c
        let snifts := (t.seq h).state = .forcedSnift ∧ (t.seq h).progress = .active ∧ (t.seq h).flags = flags ∧
          (t.seq h).sniftBegun = true ∧ (t.seq h).equalised = false ∧ (t.seq h).faultPending = x.faultPending ∧
          (t.valve h .snift).request = true ∧
          (∀ v ∈ [ValveId.gas, .fast, .slow, .add], (t.valve h v).request = false ∧ (t.valve h v).output = false) ∧
          ∀ m, t.chan h m = cut (s.chan h m)
        (x.state = .idle → t.head h = { s.head h with seq := { x with state := .held } }) ∧
        (x.state ∈ [HeadState.off, .fault, .held] → t.head h = { s.head h with seq := x }) ∧
        (x.state = .resolving → t.head h = { s.head h with seq := x } ∧
          (∀ r ∈ t.resolver.current, r.head = h → r.overtaken = true) ∧
          ∀ r ∈ t.resolver.requests, r.head = h → r.overtaken = true) ∧
        (x.state = .forcedSnift → t.head h = { s.head h with seq := { x with flags := flags } }) ∧
        (x.state = .running → x.sniftBegun = true →
          t.seq h = { x with state := .forcedSnift, flags := flags } ∧ (t.head h).valves = (s.head h).valves ∧
            ∀ m, t.chan h m = cut (s.chan h m)) ∧
        (∀ e, x.state = .stepHold → f.carousel ≠ 3#8 → x.sniftBegun = true → plan[x.planIndex]? = some e →
          e.kind = .snift → snifts ∧ (t.seq h).planIndex = x.planIndex + 1) ∧
        (x.state = .running ∨ x.state = .stepHold ∧ f.carousel ≠ 3#8 → x.sniftBegun = false →
          (∃ e ∈ plan, e.kind = .snift) → snifts)) ∧
      ((∀ h : HeadId, (s.seq h).state ≠ .stepHold) → s.orq.records.length + s.orq.reservations < 48 →
        ∃ r ∈ t.orq.records, r.kind = .alarm ∧ r.code = 15#8 ∧ r.head = 255#8 ∧
          r.valueA = f.serial.setWidth 32 ∧ r.valueB = (q.serial + 1#16).setWidth 24)

/-- R15 to R17, R19, R26, R29: the pitch window closes. In JOINING it empties the lock run. In LOCKED and HOLDOVER it is a
bad pitch, whose count decides between BLIND, HOLDOVER and the state as it was, with RING_BLIND or RING_HOLDOVER recorded
where there is room; outside BLIND one estimated event follows and is counted, and makes a bowl request (R25, R135), of which
BLIND makes none; and what a NODE SET has made of the last
position stays for the next PITCH frame (log 32). With no window running nothing happens (log 2).
R49, R108: entry into BLIND is a ring loss. Every CONTAINER entry gives a RING_LOSS record, in queue order behind the alarm
(log 11); an IDLE head is HELD, a resolution is marked overtaken, and a cycle before its snift is forced to snift with
RING_LOSS, its dose cut. A snift that has begun goes on in FORCED_SNIFT with RING_LOSS: a SNIFT entry under way where it
stands, and a head in STEP_HOLD between two of them with the next one (log 15).
R103 to R105: at the estimated event each active head meets its deadlines. Before all three it goes on; at D_fill a cycle
whose FILL entry has not begun is forced to snift and an ACTIVE dose is cut and settles, each with DEADLINE; at D_snift a cycle
before its snift is forced to snift with DEADLINE; at D_release the cycle ends in FAULT with every valve closed. The
deadlines are tested in their order (log 14). -/
def Obligations.WindowExpiryIsABadPitch : Prop :=
  (∀ s : State, s.pitch.window = none → exec .pitchWindowExpiry s = .next s) ∧
  ∀ (w : Nat) (s : State), s.pitch.window = some w →
    (s.ring.state = .joining → exec .pitchWindowExpiry s = .next
      { s with
        now := max s.now (10 * w)
        ring := { s.ring with run := { s.ring.run with length := 0 } }
        pitch := { s.pitch with joinRef := none, measureValid := false, window := none, lastBeyond := false } }) ∧
    ∀ q : PitchSequence, (s.ring.state = .locked ∨ s.ring.state = .holdover) → s.pitch.sequence = some q →
      let n := s.ring.badCount + 1
      let now := max s.now (10 * w)
      let alarm := fun code : Byte => (⟨.alarm, 255#8, q.serial, 255#8, code, 0#8, BitVec.ofNat 32 n, 0#24⟩ : Record)
      let plan := fun h : HeadId => (s.head h).cycle.elim [] CycleRecord.plan
      let cut := fun c : Channel =>
        if c.state = .dosing then
          { c with
            state := .settling, closeKind := .cut, closeVolume := some c.volume, settleStart := some now, lastPulse := none }
        else c
      let beforeSnift := fun h : HeadId =>
        ((s.seq h).state = .running ∨ (s.seq h).state = .stepHold) ∧ (s.seq h).sniftBegun = false ∧
          ∃ e ∈ plan h, e.kind = .snift
      let snifts := fun (t : State) (h : HeadId) (flags : CycleFlags) =>
        (t.seq h).state = .forcedSnift ∧ (t.seq h).progress = .active ∧ (t.seq h).flags = flags ∧
          (t.seq h).sniftBegun = true ∧ (t.seq h).equalised = false ∧ (t.seq h).faultPending = (s.seq h).faultPending ∧
          (t.valve h .snift).request = true ∧
          (∀ v ∈ [ValveId.gas, .fast, .slow, .add], (t.valve h v).request = false ∧ (t.valve h v).output = false) ∧
          ∀ m, t.chan h m = cut (s.chan h m)
      ∃ t : State, exec .pitchWindowExpiry s = .next t ∧ t.ring.badCount = n ∧ t.ring.run.length = 0 ∧ t.now = now ∧
        t.ring.state =
          (if s.settings.holdover < n then .blind else if s.ring.state = .locked ∧ n = 3 then .holdover
           else s.ring.state) ∧
        (s.settings.holdover < n →
          t.pitch.sequence = some q ∧ t.pitch.window = none ∧ t.queue = ⟨[], true⟩ ∧ t.scanner = s.scanner ∧
            (∀ h : HeadId, (t.seq h).elapsed = (s.seq h).elapsed) ∧
          (let cs := s.queue.entries.filter fun e => decide (e.kind = .container)
           s.orq.lost = false → s.orq.records.length + s.orq.reservations + cs.length < 48 →
            t.orq =
              { s.orq with
                records := s.orq.records ++ alarm 14#8 :: cs.map fun e =>
                  ⟨.notServed, 255#8, e.serial, BitVec.ofNat 8 e.recipe, 5#8, 0#8, BitVec.ofNat 32 e.position, 0#24⟩ }) ∧
          ∀ h : HeadId,
            ((s.seq h).state = .idle → t.head h = { s.head h with seq := { s.seq h with state := .held } }) ∧
            ((s.seq h).state ∈ [HeadState.off, .fault, .held] → t.head h = s.head h) ∧
            ((s.seq h).state = .resolving → t.head h = s.head h ∧
              (∀ r ∈ t.resolver.current, r.head = h → r.overtaken = true) ∧
              ∀ r ∈ t.resolver.requests, r.head = h → r.overtaken = true) ∧
            (let flags := { (s.seq h).flags with ringLoss := true }
             ((s.seq h).state = .forcedSnift →
               t.head h = { s.head h with seq := { s.seq h with flags := flags } }) ∧
             ((s.seq h).state = .running → (s.seq h).sniftBegun = true →
               t.seq h = { s.seq h with state := .forcedSnift, flags := flags } ∧ (t.head h).valves = (s.head h).valves ∧
                 ∀ m, t.chan h m = cut (s.chan h m)) ∧
             (∀ e, (s.seq h).state = .stepHold → (s.seq h).sniftBegun = true → (plan h)[(s.seq h).planIndex]? = some e →
               e.kind = .snift → snifts t h flags ∧ (t.seq h).planIndex = (s.seq h).planIndex + 1) ∧
             (beforeSnift h → snifts t h flags))) ∧
        (n ≤ s.settings.holdover →
          (let p := (q.position + 1) % s.settings.nPos
           t.pitch.sequence = some ⟨q.serial + 1#16, p, .estimated, w⟩ ∧ t.pitch.lastBeyond = s.pitch.lastBeyond ∧
           t.counter .missingPitches = s.counter .missingPitches + 1#16 ∧ t.scanner.request = true ∧
           (∀ h : HeadId, (t.seq h).elapsed = some (elapsedCount s.settings.nPos p (s.head h).table.position)) ∧
           (s.ring.state = .locked → n = 3 → s.orq.lost = false → s.orq.records.length + s.orq.reservations < 48 →
             ∃ l, t.orq.records = s.orq.records ++ alarm 13#8 :: l) ∧
           ∀ (h : HeadId) (c : CycleRecord), (s.seq h).state ∈ [HeadState.running, .forcedSnift, .stepHold] →
             (s.head h).cycle = some c →
             let d := c.recipe.deadlines
             let e := elapsedCount s.settings.nPos p (s.head h).table.position
             let main := (s.chan h .main).state
             let doses := (s.seq h).progress = .active ∧ 1 ≤ (s.seq h).planIndex ∧
               ∃ x, c.plan[(s.seq h).planIndex - 1]? = some x ∧ (x.kind = .additive ∨ x.kind = .fill)
             (e < d.dFill → e < d.dSnift → e < d.dRelease →
               t.head h = { s.head h with seq := { s.seq h with elapsed := some e } }) ∧
             (d.dFill ≤ e → e < d.dSnift → e < d.dRelease →
               (main = .idle → beforeSnift h → snifts t h { (s.seq h).flags with deadline := true }) ∧
               (main ≠ .idle → doses →
                 (t.seq h).state = (s.seq h).state ∧ (t.seq h).planIndex = (s.seq h).planIndex ∧
                   (t.seq h).progress = .settling ∧ (t.seq h).timer = none ∧
                   (t.seq h).flags = { (s.seq h).flags with deadline := true } ∧
                   (∀ v ∈ [ValveId.fast, .slow, .add], (t.valve h v).request = false ∧ (t.valve h v).output = false) ∧
                   ∀ m, t.chan h m = cut (s.chan h m)) ∧
               (main ≠ .idle → ¬doses → t.head h = { s.head h with seq := { s.seq h with elapsed := some e } })) ∧
             (d.dSnift ≤ e → e < d.dRelease → beforeSnift h →
               snifts t h { (s.seq h).flags with deadline := true }) ∧
             (d.dRelease ≤ e →
               (t.seq h).state = .fault ∧ (t.seq h).entry = none ∧ (t.seq h).planIndex = 0 ∧ (t.seq h).equalised = false ∧
                 ∀ v, (t.valve h v).request = false ∧ (t.valve h v).output = false)))

/-! ### The Assignment Queue and the infeed -/

/-- R39, R40, R41, R42: an assignment slot for this node in LOCKED. The first check that fails decides the refusal, which is
counted and leaves the queue; a slot that passes all is TAKEN, and its entry joins at the newest end, with one alarm when it
leaves 2 or fewer free places while the arming is armed. A kind that is not defined fails RANGE. A slot for another node, or
in another ring state, passes untouched. -/
def Obligations.AssignmentSlotIsJudged : Prop :=
  ∀ (time : Ticks) (slot : AssignSlot) (i : Instr) (s : State), s.resetScheduled = false →
    (slot.kind = 1#8 ∧
        i = .containerAssignment time slot.node slot.serial slot.position slot.recipe slot.flags ∨
      slot.kind = 2#8 ∧ i = .gapAssignment time slot.node slot.serial slot.position slot.recipe slot.flags ∨
      slot.kind ∉ [0#8, 1#8, 2#8, 3#8, 4#8] ∧ i = .assignmentOfUndefinedKind time slot) →
    (s.ring.state ≠ .locked ∨ (∀ a, s.ring.address = some a → slot.node.toNat ≠ a.val) →
      exec i s = .next { s with now := max s.now time, assignOut := some slot }) ∧
    ∀ (a : Fin 32) (c : PitchSequence), s.ring.state = .locked → s.ring.address = some a → slot.node.toNat = a.val →
      s.pitch.sequence = some c →
      let d := (slot.serial - c.serial).toNat
      let n := s.queue.entries.length
      let reason :=
        if 127 < slot.recipe.toNat ∨ (slot.kind ≠ 1#8 ∧ slot.kind ≠ 2#8) then 1
        else if ¬∃ h : HeadId, (s.seq h).state ≠ .off ∧ (s.head h).table.position = slot.position.toNat then 2
        else if d = 0 ∨ 32768 ≤ d then 3
        else if 4095 < d then 4
        else if slot.position.toNat ≠ (c.position + d) % s.settings.nPos then 5
        else if ∃ e ∈ s.queue.entries.getLast?, (slot.serial - e.serial).toNat = 0 ∨ 32768 ≤ (slot.serial - e.serial).toNat
        then 6
        else if s.settings.depth ≤ n then 7
        else 0
      (reason ≠ 0 → ∃ t : State, exec i s = .next t ∧
        t.assignOut = some { slot with kind := 4#8, flags := BitVec.ofNat 8 reason } ∧ t.queue = s.queue ∧
        t.counter .assignRefused = s.counter .assignRefused + 1#16 ∧
        { t with counters := s.counters, orq := s.orq, assignOut := s.assignOut, now := s.now } = s) ∧
      (reason = 0 → ∃ t : State, exec i s = .next t ∧ t.assignOut = some { slot with kind := 3#8 } ∧
        t.queue.entries = s.queue.entries ++
          [⟨slot.serial, slot.position.toNat, slot.recipe.toNat, if slot.kind = 1#8 then .container else .gap,
            slot.flags.getLsbD 0⟩] ∧
        t.queue.armed = (s.queue.armed && decide (n + 3 < s.settings.depth)) ∧
        { t with queue := s.queue, counters := s.counters, orq := s.orq, assignOut := s.assignOut, now := s.now } = s ∧
        (s.queue.armed = true → s.settings.depth ≤ n + 3 → s.orq.lost = false →
          s.orq.records.length + s.orq.reservations < 48 →
          t.orq.records = s.orq.records ++
            [⟨.alarm, 255#8, c.serial, 255#8, 11#8, 0#8, BitVec.ofNat 32 (n + 1), BitVec.ofNat 24 s.settings.depth⟩]) ∧
        (s.queue.armed = false ∨ n + 3 < s.settings.depth → t.orq = s.orq ∧ t.counters = s.counters))

/-- R43, R44, R46: what the queue loses at the expected PITCH frame, in a frame that carries no assignment and no request:
the entries behind its serial, each counted as ASSIGN_STALE, and the entry of its serial when a head stands at its position.
R42: a removal that leaves 4 or more free places arms the near-full alarm again, and otherwise the arming stays. R43, R47: each
CONTAINER entry behind the serial gives a NOT_SERVED record STALE for head 255, in queue order, where there is room for them, no
count wraps, no head is in STEP_HOLD and no result slot takes a record. That they stand ahead of every other record of the
frame, such as the deadline records of heads at the same event, is the model's choice (log 12). -/
def Obligations.QueueFollowsThePitch : Prop :=
  ∀ (time : Ticks) (f : Frame) (q : PitchSequence) (a : Fin 32) (s : State), s.usesFrame f → f.kind = 1#8 →
    (s.ring.state = .locked ∨ s.ring.state = .holdover) → s.ring.address = some a → f.hop.toNat = a.val →
    s.pitch.sequence = some q → s.pitch.lastBeyond = false → f.serial = q.serial + 1#16 →
    f.position.toNat = (q.position + 1) % s.settings.nPos → f.mgmt.state ≠ 1#2 →
    (∀ x ∈ [f.a0, f.a1, f.a2, f.a3, f.a4, f.a5], x.kind = 0#8) →
    let es := s.queue.entries
    let kept := es.filter fun e => decide ((e.serial - f.serial).toNat < 32768)
    ∃ t : State, exec (.pitchFrame time f) s = .next t ∧
      t.counter .assignStale = s.counter .assignStale + BitVec.ofNat 16 (es.length - kept.length) ∧
      t.queue.entries =
        (if (∃ e ∈ kept.head?, e.serial = f.serial) ∧ ∃ h : HeadId, (s.head h).table.position = f.position.toNat then
           kept.tail
         else kept) ∧
      t.queue.armed =
        (s.queue.armed || decide (t.queue.entries.length < es.length ∧ t.queue.entries.length + 4 ≤ s.settings.depth)) ∧
      (let stale := es.filter fun e => decide (32768 ≤ (e.serial - f.serial).toNat)
       let records := (stale.filter fun e => decide (e.kind = .container)).map fun e =>
         (⟨.notServed, 255#8, e.serial, BitVec.ofNat 8 e.recipe, 1#8, 0#8, BitVec.ofNat 32 e.position, 0#24⟩ : Record)
       (∀ h : HeadId, (s.seq h).state ≠ .stepHold) → (∀ x ∈ [f.r0, f.r1, f.r2, f.r3], x.kind ≠ 0#8) →
         s.orq.lost = false → s.orq.records.length + s.orq.reservations + records.length ≤ 48 →
         (s.counter .assignStale).toNat + stale.length < 65536 → ∃ l, t.orq.records = s.orq.records ++ records ++ l)

/-- R44, R90, R91, R92, R77: at the expected PITCH frame in LOCKED, an IDLE head at the infeed with a container present takes
its CONTAINER entry and a reservation, and becomes RESOLVING. Its request joins the Resolver's list at the end; with no
resolution in progress the oldest request of the list begins at once, its own where none waited.
R44 to R47, R91, R155: every other outcome, at a head that stands alone at the infeed while no other cycle is active. A
CONTAINER entry without a container gives MISSING_CONTAINER, and a container without a CONTAINER entry UNASSIGNED_CONTAINER,
each counted; a CONTAINER entry with its container but no room is declined, and its record lost; a head that is not IDLE, or a
ring in HOLDOVER, loses the entry with HEAD_UNAVAILABLE or HOLDOVER. A declined entry, or a GAP entry without a container,
stays the head's infeed entry (log 33). -/
def Obligations.InfeedStartsTheResolution : Prop :=
  (∀ (time : Ticks) (f : Frame) (q : PitchSequence) (a : Fin 32) (h : HeadId) (e : QueueEntry) (rest : List QueueEntry)
    (s : State), s.usesFrame f → f.kind = 1#8 → s.ring.state = .locked → s.ring.address = some a → f.hop.toNat = a.val →
    s.pitch.sequence = some q → s.pitch.lastBeyond = false → f.serial = q.serial + 1#16 →
    f.position.toNat = (q.position + 1) % s.settings.nPos → f.mgmt.state ≠ 1#2 → (∀ k : HeadId, (s.seq k).state ≠ .stepHold) →
    (s.head h).table.position = f.position.toNat → (s.seq h).state = .idle → (s.seq h).reserved = false →
    (∀ k : HeadId, k < h → (s.head k).table.position = f.position.toNat → (s.seq k).state ≠ .idle) →
    (s.head h).presence = .present → s.queue.entries = e :: rest → e.serial = f.serial → e.kind = .container →
    (∀ x ∈ rest, (x.serial - f.serial).toNat < 32768) →
    s.orq.records.length + s.orq.reservations < 48 →
    ∃ t : State, exec (.pitchFrame time f) s = .next t ∧ (t.seq h).state = .resolving ∧ (t.seq h).entry = some e ∧
      (t.seq h).reserved = true ∧ (t.seq h).flags = ⟨false, false, false, false, false, false, false⟩ ∧
      (t.seq h).elapsed = some 0 ∧
      (let requests := s.resolver.requests ++ [⟨h, e.recipe, false⟩]
       (∀ r, s.resolver.current = some r → t.resolver = ⟨requests, some r⟩) ∧
       ∀ x rest, s.resolver.current = none → requests = x :: rest →
         t.resolver =
          ⟨rest, some ⟨x.head, x.recipe, 0, ⟨none, none, none, none, none, none⟩, .following x.recipe, [], 0, x.overtaken⟩⟩)) ∧
  ∀ (time : Ticks) (f : Frame) (q : PitchSequence) (a : Fin 32) (h : HeadId) (s : State), s.usesFrame f → f.kind = 1#8 →
    (s.ring.state = .locked ∨ s.ring.state = .holdover) → s.ring.address = some a → f.hop.toNat = a.val →
    s.pitch.sequence = some q → s.pitch.lastBeyond = false → f.serial = q.serial + 1#16 →
    f.position.toNat = (q.position + 1) % s.settings.nPos → f.mgmt.state ≠ 1#2 →
    (∀ x ∈ [f.a0, f.a1, f.a2, f.a3, f.a4, f.a5], x.kind = 0#8) →
    (∀ x ∈ [f.r0, f.r1, f.r2, f.r3], x.kind ≠ 0#8) →
    (∀ k : HeadId, (s.head k).table.position = f.position.toNat ↔ k = h) →
    (∀ k : HeadId, k ≠ h → (s.seq k).state ∉ [HeadState.running, .forcedSnift, .stepHold]) → (s.seq h).state ≠ .stepHold →
    (∀ x ∈ s.queue.entries, (x.serial - f.serial).toNat < 32768) → s.orq.lost = false →
    let present := (s.head h).presence = .present
    let named := (s.queue.entries.head?).filter fun e => decide (e.serial = f.serial)
    let container := ∃ e, named = some e ∧ e.kind = .container
    let idle := (s.seq h).state = .idle ∧ s.ring.state = .locked
    let room := s.orq.records.length + s.orq.reservations < 48
    let record := fun (recipe : Byte) (reason : Byte) (a : Nat) =>
      (⟨.notServed, BitVec.ofNat 8 h.val, f.serial, recipe, reason, 0#8, BitVec.ofNat 32 a, 0#24⟩ : Record)
    ∃ t : State, exec (.pitchFrame time f) s = .next t ∧
      (∀ e, named = some e → t.queue.entries = s.queue.entries.tail) ∧
      (idle → (s.seq h).reserved = false →
        (∀ e, named = some e → e.kind = .container → ¬present →
          (t.seq h).state = .idle ∧ (t.seq h).entry = none ∧ (t.seq h).reserved = false ∧
            t.counter .missingContainers = s.counter .missingContainers + 1#16 ∧
            (room → s.counter .missingContainers ≠ 65535#16 →
              t.orq =
                { s.orq with
                  records := s.orq.records ++ [record (BitVec.ofNat 8 e.recipe) 6#8 (s.head h).table.position] })) ∧
        (¬container → present →
          (t.seq h).state = .idle ∧ (t.seq h).entry = none ∧ (t.seq h).reserved = false ∧
            t.counter .unassigned = s.counter .unassigned + 1#16 ∧
            (room → s.counter .unassigned ≠ 65535#16 →
              t.orq =
                { s.orq with
                  records := s.orq.records ++
                    [record (named.elim 255#8 fun e => BitVec.ofNat 8 e.recipe) 7#8 (s.head h).table.position] })) ∧
        (¬container → ¬present →
          (t.seq h).state = .idle ∧ (t.seq h).entry = named ∧ t.orq = s.orq ∧ t.counters = s.counters) ∧
        (container → present → ¬room →
          (t.seq h).state = .idle ∧ (t.seq h).entry = named ∧ t.resolver = s.resolver ∧
            (s.counter .recordsLost ≠ 65535#16 →
              t.counter .recordsLost = s.counter .recordsLost + 1#16 ∧ t.orq = { s.orq with lost := true }))) ∧
      (∀ e, named = some e → e.kind = .container → room →
        ((s.seq h).state ≠ .idle →
          ∃ l, t.orq.records = s.orq.records ++ record (BitVec.ofNat 8 e.recipe) 2#8 e.position :: l) ∧
        ((s.seq h).state = .idle → s.ring.state = .holdover →
          (t.seq h).state = .idle ∧ (t.seq h).entry = (s.seq h).entry ∧
            ∃ l, t.orq.records = s.orq.records ++ record (BitVec.ofNat 8 e.recipe) 3#8 e.position :: l))

/-! ### Requests: which are handled, and how they are answered -/

/-- R9, R11, R172, R173: how every request is sifted before its own rule. To a node that does not answer management, or at an
address that the node does not hold, it passes unchanged. In FAILED all but NODE STATUS are refused with REFUSED_STATE. A
kind that is not open to broadcast is answered with UNKNOWN_KIND at 63, and a kind that is not defined is answered so at
either address. None of these changes anything but the slot and the time. -/
def Obligations.RequestsAreSiftedByState : Prop :=
  let open' : List (BitVec 5) := [1#5, 2#5, 3#5, 4#5, 5#5, 8#5, 10#5, 11#5, 15#5, 16#5]
  (∀ (i : Instr) (q : Envelope) (m : MgmtSlot) (s : State), requestOf i = some (q, m) → s.resetScheduled = false →
    (s.ring.state = .bypass ∨ s.ring.state = .blind ∨ (q.dest ≠ 63#6 ∧ ¬s.ownAddress q.dest) →
      exec i s = .next { s with now := max s.now q.time, mgmtOut := some m }) ∧
    (m.kind ≠ 18#5 → s.ring.state = .failed → (q.dest = 63#6 ∨ s.ownAddress q.dest) →
      exec i s = .next (s.answered q m (Answer.refuse .refusedState))) ∧
    (m.kind ∉ open' → s.judges → q.dest = 63#6 →
      exec i s = .next (s.answered q m (Answer.refuse .unknownKind)))) ∧
  ∀ (time : Ticks) (m : MgmtSlot) (s : State), m.state = 1#2 → s.resetScheduled = false → s.judges →
    (m.dest = 63#6 ∨ s.ownAddress m.dest) →
    (m.kind.toNat = 0 ∨ 21 < m.kind.toNat ∨ (m.dest = 63#6 ∧ m.kind ∉ open')) →
    exec (.undefinedRequest time m) s = .next
      { s with now := max s.now time, mgmtOut := some (replied m (Answer.refuse .unknownKind)) }

/-- R172, R174: how an answer is written. At the node's own address the slot becomes ANSWERED with the result code and six
data words, those that the answer does not name 0, and keeps tag, kind, destination and counts. A broadcast leaves the slot's
state, tag, parameter and data words; it counts an ack for DONE and ACCEPTED and a refusal otherwise, each count stopping at
255, and the first refusal stays in the result field. -/
def Obligations.AnswersAreWrittenBySender : Prop :=
  ∀ (m : MgmtSlot) (s : State), slotHandled m s = true →
    let a := (judgeRequest m s).1
    let out := (handleSlot m s).1
    (m.dest ≠ 63#6 →
      out.state = 2#2 ∧ out.result = BitVec.ofNat 8 a.result.code ∧
        dataList out.data = (a.words ++ List.replicate 6 0#32).take 6 ∧
        out.tag = m.tag ∧ out.kind = m.kind ∧ out.dest = m.dest ∧ out.ack = m.ack ∧ out.refuse = m.refuse) ∧
    (m.dest = 63#6 → (a.result = .done ∨ a.result = .accepted) →
      out = { m with ack := BitVec.ofNat 8 (min 255 (m.ack.toNat + 1)) }) ∧
    (m.dest = 63#6 → a.result ≠ .done → a.result ≠ .accepted →
      out =
        { m with
          refuse := BitVec.ofNat 8 (min 255 (m.refuse.toNat + 1))
          result := if m.result = 0#8 then BitVec.ofNat 8 a.result.code else m.result })

/-! ### Requests on table memory, directory, head table and settings -/

/-- R56: SEGMENT DEFINE, judged in its order of tests; on DONE only the entry changes. -/
def Obligations.SegmentDefineIsJudgedInOrder : Prop :=
  ∀ (q : Envelope) (segment base length kind : Word) (s : State), s.takes q →
    let i := Instr.segmentDefine q segment base length kind
    let m := plainSlot q 1#5 ⟨segment, base, length, kind, 0#32, 0#32⟩
    let b := base.toNat
    let n := length.toNat
    (31 < segment.toNat ∨ (kind ≠ 1#32 ∧ kind ≠ 2#32) →
      exec i s = .next (s.answered q m (Answer.refuse .refusedRange))) ∧
    ∀ g : Fin 32, segment.toNat = g.val → (kind = 1#32 ∨ kind = 2#32) →
      exec i s = .next
        (if (s.segment g).state ≠ .undefined then s.answered q m (Answer.refuse .refusedState)
         else if n = 0 ∨ n % (if kind = 1#32 then 32 else 16) ≠ 0 ∨ 16384 < b + n then
           s.answered q m (Answer.refuse .refusedRange)
         else if ∃ k : Fin 32, (s.segment k).state ≠ .undefined ∧
             ∃ w : Fin 16384, (b ≤ w.val ∧ w.val < b + n) ∧
               (s.segment k).base ≤ w.val ∧ w.val < (s.segment k).base + (s.segment k).length then
           s.answered q m (Answer.refuse .refusedRange)
         else
           (s.modSegment g fun _ =>
             ⟨.empty, some (if kind = 1#32 then .recipe else .curve), b, n, 0#16, 0#16⟩).answered q m Answer.done)

/-- R57, R59: SEGMENT DELETE and LOAD OPEN, each judged in its order of tests. A delete drops the entry and leaves every
word; an open makes the segment LOADING from pointer value 0 with both check values 0. -/
def Obligations.SegmentDeleteAndLoadOpenAreJudged : Prop :=
  ∀ (q : Envelope) (segment : Word) (s : State), s.takes q →
    let i := Instr.segmentDelete q segment
    let j := Instr.loadOpen q segment
    let m := plainSlot q 2#5 (words1 segment)
    let n := plainSlot q 3#5 (words1 segment)
    (31 < segment.toNat →
      exec i s = .next (s.answered q m (Answer.refuse .refusedRange)) ∧
        exec j s = .next (s.answered q n (Answer.refuse .refusedRange))) ∧
    ∀ g : Fin 32, segment.toNat = g.val →
      exec i s = .next
        (if (s.segment g).state = .undefined then s.answered q m (Answer.refuse .refusedState)
         else if (s.segment g).state = .loading ∨ (s.segment g).state = .checking then
           s.answered q m (Answer.refuse .busy)
         else if ∃ r ∈ s.resolver.current, g ∈ r.readSet then s.answered q m (Answer.refuse .busy)
         else (s.modSegment g fun _ => ⟨.undefined, none, 0, 0, 0#16, 0#16⟩).answered q m Answer.done) ∧
      exec j s = .next
        (if (s.segment g).state = .undefined then s.answered q n (Answer.refuse .refusedState)
         else if s.tables.openSegment ≠ none ∧ s.tables.openSegment ≠ some g then
           s.answered q n (Answer.refuse .refusedState)
         else if (s.segment g).state = .checking then s.answered q n (Answer.refuse .busy)
         else if ∃ r ∈ s.resolver.current, g ∈ r.readSet then s.answered q n (Answer.refuse .busy)
         else
           ((s.modSegment g fun x => { x with state := .loading, expected := 0#16, computed := 0#16 }).modTables fun t =>
             { t with openSegment := some g, pointer := 0 }).answered q n Answer.done)

/-- R60: LOAD DATA, judged in its order of tests. On DONE the words named stand in table memory in order from base plus
pointer onward, every other word reads as before, the pointer goes on, and nothing else changes but the answer and the time.
The premises that the memory has its canonical form and that the open segment lies within it hold in every state that a run
reaches. -/
def Obligations.LoadDataWritesItsWords : Prop :=
  ∀ (q : Envelope) (pointer : Half) (count : BitVec 3) (words : DataWords) (s : State), s.takes q → s.memoryWf →
    let i := Instr.loadData q pointer count words
    let m := requestSlot q 4#5 count pointer words
    let n := count.toNat
    let p := s.tables.pointer
    (n = 0 ∨ 6 < n → exec i s = .next (s.answered q m (Answer.refuse .refusedRange))) ∧
    (1 ≤ n → n ≤ 6 → s.tables.openSegment = none →
      exec i s = .next (s.answered q m (Answer.refuse .refusedState))) ∧
    ∀ g : Fin 32, s.tables.openSegment = some g → 1 ≤ n → n ≤ 6 →
      (pointer.toNat ≠ p → exec i s = .next (s.answered q m ⟨.refusedSequence, [BitVec.ofNat 32 p], none⟩)) ∧
      (pointer.toNat = p → (s.segment g).length < p + n →
        exec i s = .next (s.answered q m (Answer.refuse .refusedRange))) ∧
      (pointer.toNat = p → p + n ≤ (s.segment g).length → (s.segment g).base + (s.segment g).length ≤ 16384 →
        ∃ ws, exec i s = .next
            ((s.modTables fun t => { t with words := ws, pointer := p + n }).answered q m Answer.done) ∧
          (∀ k, k < n → some (Memory.read ws ((s.segment g).base + p + k)) = (dataList words)[k]?) ∧
          ∀ a, a < (s.segment g).base + p ∨ (s.segment g).base + p + n ≤ a →
            Memory.read ws a = Memory.read s.tables.words a)

/-- R61: LOAD CLOSE, judged in its order of tests. -/
def Obligations.LoadCloseStartsTheCheck : Prop :=
  ∀ (q : Envelope) (check : Word) (s : State), s.takes q →
    let i := Instr.loadClose q check
    let m := plainSlot q 5#5 (words1 check)
    (s.tables.openSegment = none → exec i s = .next (s.answered q m (Answer.refuse .refusedState))) ∧
    ∀ g : Fin 32, s.tables.openSegment = some g →
      exec i s = .next
        (if s.tables.pointer ≠ (s.segment g).length then
           s.answered q m ⟨.refusedSequence, [BitVec.ofNat 32 s.tables.pointer], none⟩
         else if ∃ c ∈ s.tables.check, c.segment ≠ g then s.answered q m (Answer.refuse .busy)
         else
           ((s.modSegment g fun x =>
               { x with state := .checking, expected := BitVec.ofNat 16 check.toNat }).modTables fun t =>
             { t with openSegment := none, pointer := 0, check := some ⟨g, 0⟩ }).answered q m ⟨.accepted, [], none⟩)

/-- R62: the check that completes judges its segment by the check value of its words, from base to last word. With no check
running there is nothing to complete (log 2); the words are read as the check completes (log 17). -/
def Obligations.CheckCompleteJudgesItsSegment : Prop :=
  ∀ (time : Ticks) (s : State),
    (s.tables.check = none → exec (.checkComplete time) s = .next { s with now := max s.now time }) ∧
    ∀ c : CheckRun, s.tables.check = some c →
    let x := s.segment c.segment
    let k := checkOf (((List.range x.length).map fun j => Memory.read s.tables.words (x.base + j)).flatMap wordBytes)
    exec (.checkComplete time) s = .next
      { s with
        now := max s.now time
        tables :=
          { s.tables with
            check := none
            segments :=
              s.tables.segments.set c.segment.val
                { x with computed := k, state := if k = x.expected then .valid else .bad } c.segment.isLt } }

/-- R63, R64: SEGMENT STATUS reports an entry, an UNDEFINED one with every other field 0, and TABLE READ the words from base
plus index onward, judged in its order of tests; neither changes anything. -/
def Obligations.SegmentsAreReadBack : Prop :=
  ∀ (q : Envelope) (segment index count : Word) (s : State), s.takesOwn q →
    let i := Instr.segmentStatus q segment
    let j := Instr.tableRead q segment index count
    let m := plainSlot q 6#5 (words1 segment)
    let n := plainSlot q 7#5 ⟨segment, index, count, 0#32, 0#32, 0#32⟩
    (31 < segment.toNat → exec i s = .next (s.answered q m (Answer.refuse .refusedRange))) ∧
    (31 < segment.toNat ∨ count.toNat = 0 ∨ 6 < count.toNat →
      exec j s = .next (s.answered q n (Answer.refuse .refusedRange))) ∧
    ∀ g : Fin 32, segment.toNat = g.val →
      let x := s.segment g
      exec i s = .next
        (s.answered q m
          (Answer.data
            (if x.state = .undefined then [0#32, 0#32, 0#32, 0#32, 0#32, 0#32]
             else
              [BitVec.ofNat 32 (segStateCode x.state), BitVec.ofNat 32 (segKindCode x.kind), BitVec.ofNat 32 x.base,
                BitVec.ofNat 32 x.length, BitVec.ofNat 32 (if s.tables.openSegment = some g then s.tables.pointer else 0),
                x.expected ++ x.computed]))) ∧
      (1 ≤ count.toNat → count.toNat ≤ 6 → exec j s = .next
        (if x.state = .undefined then s.answered q n (Answer.refuse .refusedState)
         else if x.length < index.toNat + count.toNat then s.answered q n (Answer.refuse .refusedRange)
         else
           s.answered q n
            (Answer.data ((List.range count.toNat).map fun k =>
              Memory.read s.tables.words (x.base + index.toNat + k)))))

/-- R66: DIRECTORY SET makes an entry present or absent, whatever the segment map holds. A removal is judged by its recipe
number alone (log 18). -/
def Obligations.DirectorySetWritesTheEntry : Prop :=
  ∀ (q : Envelope) (recipe action segment index : Word) (s : State), s.takes q →
    let i := Instr.directorySet q recipe action segment index
    let m := plainSlot q 8#5 ⟨recipe, action, segment, index, 0#32, 0#32⟩
    (127 < recipe.toNat ∨ 1 < action.toNat ∨ (action = 1#32 ∧ (31 < segment.toNat ∨ 511 < index.toNat)) →
      exec i s = .next (s.answered q m (Answer.refuse .refusedRange))) ∧
    ∀ n : Fin 128, recipe.toNat = n.val →
      (action = 0#32 →
        exec i s = .next
          (State.answered { s with directory := s.directory.set n.val none n.isLt } q m Answer.done)) ∧
      ∀ g : Fin 32, action = 1#32 → segment.toNat = g.val → index.toNat ≤ 511 →
        exec i s = .next
          (State.answered { s with directory := s.directory.set n.val (some ⟨g, index.toNat⟩) n.isLt } q m Answer.done)

/-- R68, R69: HEAD SET. Each group is refused for a head above 7, then for a head that is not OFF, then for a field outside
its range, and otherwise writes every field of its group at once and no other field of the node; but AFTERFLOW also clamps
the learned afterflows of the head to their new maxima. -/
def Obligations.HeadSetWritesItsGroup : Prop :=
  ∀ (q : Envelope) (head position wMain wAdd mainMax addMax : Word) (offset gain : Half) (gas fast slow add : Byte)
    (snift : Word) (mainSegment mainRecord addSegment addRecord : Half) (s : State), s.takesOwn q →
    let i := Instr.headSetPlace q head position offset gain gas fast slow add snift
    let m := plainSlot q 9#5 ⟨head, 1#32, position, offset ++ gain, gas ++ fast ++ slow ++ add, snift⟩
    let j := Instr.headSetMeters q head wMain wAdd mainSegment mainRecord addSegment addRecord
    let n := plainSlot q 9#5 ⟨head, 2#32, wMain, wAdd, mainSegment ++ mainRecord, addSegment ++ addRecord⟩
    let k := Instr.headSetAfterflow q head mainMax addMax
    let l := plainSlot q 9#5 ⟨head, 3#32, mainMax, addMax, 0#32, 0#32⟩
    (7 < head.toNat →
      exec i s = .next (s.answered q m (Answer.refuse .refusedRange)) ∧
        exec j s = .next (s.answered q n (Answer.refuse .refusedRange)) ∧
          exec k s = .next (s.answered q l (Answer.refuse .refusedRange))) ∧
    ∀ h : HeadId, head.toNat = h.val →
      exec i s = .next
        (if (s.seq h).state ≠ .off then s.answered q m (Answer.refuse .refusedState)
         else if position.toNat < s.settings.nPos ∧ offset.toNat ≤ 1000 ∧ 1 ≤ gain.toNat ∧ gain.toNat ≤ 20000 ∧
             ∀ ms ∈ [gas.toNat, fast.toNat, slow.toNat, add.toNat, snift.toNat], 5 ≤ ms ∧ ms ≤ 250 then
           (s.modTable h fun t =>
             { t with
               position := position.toNat
               offset := offset.toNat
               gain := gain.toNat
               strokes := ⟨gas.toNat, fast.toNat, slow.toNat, add.toNat, snift.toNat⟩ }).answered q m Answer.done
         else s.answered q m (Answer.refuse .refusedRange)) ∧
      exec j s = .next
        (if (s.seq h).state ≠ .off then s.answered q n (Answer.refuse .refusedState)
         else if (∀ w ∈ [wMain.toNat, wAdd.toNat], 1000 ≤ w ∧ w ≤ 200000) ∧ mainSegment.toNat ≤ 31 ∧
             mainRecord.toNat ≤ 1023 ∧ addSegment.toNat ≤ 31 ∧ addRecord.toNat ≤ 1023 then
           (s.modTable h fun t =>
             { t with
               weight := ⟨wMain.toNat, wAdd.toNat⟩
               curve := ⟨⟨mainSegment.toNat, mainRecord.toNat⟩, ⟨addSegment.toNat, addRecord.toNat⟩⟩ }).answered
            q n Answer.done
         else s.answered q n (Answer.refuse .refusedRange)) ∧
      exec k s = .next
        (if (s.seq h).state ≠ .off then s.answered q l (Answer.refuse .refusedState)
         else if mainMax.toNat ≤ 50000000 ∧ addMax.toNat ≤ 50000000 then
           (s.modTable h fun t =>
             { t with
               afterflowMax := ⟨mainMax.toNat, addMax.toNat⟩
               learned :=
                 ⟨if mainMax.toNat < t.learned.main then mainMax.toNat else t.learned.main,
                   if addMax.toNat < t.learned.additive then addMax.toNat else t.learned.additive⟩ }).answered
            q l Answer.done
         else s.answered q l (Answer.refuse .refusedRange))

/-- R70, R71: NODE SET, judged in its order of tests. On DONE all seven settings take their new values together and the
near-full arming is armed. R36: the last infeed position of the sequence and the join reference stay, and a changed N_pos at
or below the position of either makes the next PITCH frame fail its position test (log 32). With both debounce times as
before nothing else changes, and a new container-present debounce takes the candidates that have held for it, at every head
(R143, log 28). R147, R149: so does a new valve feedback debounce, at every valve: a level that agrees with the commanded output
makes the valve IDLE, one that disagrees leaves a stroke or a fault as it is, and from IDLE it is a drift, which sets FAULTED and
is recorded and counted in the order of log 28, with no other effect on a head that is OFF or IDLE. -/
def Obligations.NodeSetWritesAllSettings : Prop :=
  ∀ (q : Envelope) (nPos depth holdover : Word) (presence feedback : Half) (bowlOffset bowlGain : Word) (s : State),
    s.takes q →
    let i := Instr.nodeSet q nPos depth holdover presence feedback bowlOffset bowlGain
    let m := plainSlot q 10#5 ⟨nPos, depth, holdover, presence ++ feedback, bowlOffset, bowlGain⟩
    let new : Settings :=
      ⟨nPos.toNat, depth.toNat, holdover.toNat, presence.toNat, feedback.toNat, bowlOffset.toNat, bowlGain.toNat⟩
    let inRanges := 2 ≤ new.nPos ∧ new.nPos ≤ 512 ∧ new.depth ∈ [16, 32, 48, 64] ∧ 2 ≤ new.holdover ∧
      new.holdover ≤ 16 ∧ new.presence ≤ 20 ∧ new.feedback ≤ 20 ∧ new.bowlOffset ≤ 1000 ∧ 1 ≤ new.bowlGain ∧
      new.bowlGain ≤ 20000
    let busy := s.queue.entries ≠ [] ∨ ∃ h : HeadId, (s.seq h).state ≠ .off ∧ (s.seq h).state ≠ .idle
    let outside := (∃ p, s.pitch.sequence = some p ∧ new.nPos ≤ p.position) ∨
      ∃ p, s.pitch.joinRef = some p ∧ new.nPos ≤ p.position
    let pitch := fun b : Bool => { s.pitch with lastBeyond := b }
    let beyond := ∃ h : HeadId, (s.seq h).state ≠ .off ∧ new.nPos ≤ (s.head h).table.position
    (busy → exec i s = .next (s.answered q m (Answer.refuse .busy))) ∧
    (¬busy → (¬inRanges ∨ beyond) → exec i s = .next (s.answered q m (Answer.refuse .refusedRange))) ∧
    (¬busy → inRanges → ¬beyond →
      (∃ t : State, exec i s = .next (t.answered q m Answer.done) ∧ t.settings = new ∧ t.queue = ⟨[], true⟩ ∧
        t.pitch = pitch t.pitch.lastBeyond ∧
        (t.pitch.lastBeyond = true ↔ if new.nPos = s.settings.nPos then s.pitch.lastBeyond = true else outside)) ∧
      (new.presence = s.settings.presence → new.feedback = s.settings.feedback →
        ∀ b : Bool, (b = true ↔ if new.nPos = s.settings.nPos then s.pitch.lastBeyond = true else outside) →
          exec i s = .next
            (State.answered { s with settings := new, queue := ⟨[], true⟩, pitch := pitch b } q m Answer.done)) ∧
      (new.presence ≠ s.settings.presence → new.feedback = s.settings.feedback →
        ∃ t : State, exec i s = .next (t.answered q m Answer.done) ∧
          ∀ h : HeadId, t.head h =
            { s.head h with
              presence :=
                if (s.head h).presenceCandidate.since + 10000 * new.presence ≤ max s.now q.time then
                  (if (s.head h).presenceCandidate.level then .present else .absent)
                else (s.head h).presence }) ∧
      (new.feedback ≠ s.settings.feedback →
        let now := max s.now q.time
        let level := fun x : Valve => if x.candidate.level then Feedback.opened else .closed
        let taken := fun x : Valve => x.candidate.since + 10000 * new.feedback ≤ now ∧ x.feedback ≠ level x
        let took := fun x : Valve =>
          if taken x then
            if x.output = x.candidate.level then { x with feedback := level x, supervision := .idle, expiry := none }
            else { x with feedback := level x, supervision := if x.supervision = .idle then .faulted else x.supervision }
          else x
        let drifts := allHeads.flatMap fun h =>
          (allValves.filter fun v =>
            let x := s.valve h v
            decide (taken x ∧ x.output ≠ x.candidate.level ∧ x.supervision = .idle)).map fun v =>
              (⟨.alarm, BitVec.ofNat 8 h.val, s.pitch.sequence.elim 0#16 PitchSequence.serial, 255#8, 3#8, 0#8,
                BitVec.ofNat 32 (valveCode v), if (s.valve h v).candidate.level then 1#24 else 0#24⟩ : Record)
        ∃ t : State, exec i s = .next (t.answered q m Answer.done) ∧
          (∀ h : HeadId, t.head h =
            { s.head h with
              presence :=
                if new.presence ≠ s.settings.presence ∧ (s.head h).presenceCandidate.since + 10000 * new.presence ≤ now then
                  (if (s.head h).presenceCandidate.level then .present else .absent)
                else (s.head h).presence
              valves :=
                ⟨took (s.valve h .gas), took (s.valve h .fast), took (s.valve h .slow), took (s.valve h .add),
                  took (s.valve h .snift)⟩ }) ∧
          (drifts = [] → t.orq = s.orq ∧ t.counters = s.counters) ∧
          (s.orq.lost = false → s.orq.records.length + s.orq.reservations + drifts.length ≤ 48 →
            (s.counter .valveFaults).toNat + drifts.length < 65536 →
            t.orq = { s.orq with records := s.orq.records ++ drifts } ∧
              t.counter .valveFaults = s.counter .valveFaults + BitVec.ofNat 16 drifts.length)))

/-! ### Requests on queue, heads, counters, totals, traces and the node -/

/-- R48, R47: QUEUE CLEAR empties the queue, arms the near-full alarm and answers the number of entries. Only the queue, the
records and their loss, and the totals change. With room for them, each CONTAINER entry gives a NOT_SERVED record with reason
QUEUE_CLEARED in queue order, each counts once in the totals of its recipe, and nothing is counted. -/
def Obligations.QueueClearRecordsEveryContainer : Prop :=
  ∀ (q : Envelope) (s : State), s.takes q →
    let cs := s.queue.entries.filter fun e => decide (e.kind = .container)
    ∃ t : State,
      exec (.queueClear q) s = .next
        (t.answered q (plainSlot q 11#5 words0) (Answer.data [BitVec.ofNat 32 s.queue.entries.length])) ∧
      t.queue = ⟨[], true⟩ ∧
      { t with queue := s.queue, orq := s.orq, counters := s.counters, totals := s.totals } = s ∧
      (∀ n : Fin 128, t.totals[n] =
        { s.totals[n] with
          unservedCount :=
            if n.val ∈ cs.map QueueEntry.recipe then
              min 4294967295 (s.totals[n].unservedCount + (cs.map QueueEntry.recipe).count n.val)
            else s.totals[n].unservedCount }) ∧
      (s.orq.lost = false → s.orq.records.length + s.orq.reservations + cs.length ≤ 48 →
        t.counters = s.counters ∧
        t.orq =
          { s.orq with
            records := s.orq.records ++ cs.map fun e =>
              ⟨.notServed, 255#8, e.serial, BitVec.ofNat 8 e.recipe, 4#8, 0#8, BitVec.ofNat 32 e.position, 0#24⟩ })

/-- R112, section 6.12: every HEAD CONTROL that names a head above 7 is refused with REFUSED_RANGE. ON takes an OFF head with
pulse weights and a position in range into service, and changes only its sequencer. -/
def Obligations.HeadControlOnStartsTheHead : Prop :=
  ∀ (q : Envelope) (head : Word) (s : State), s.takesOwn q →
    (7 < head.toNat →
      ∀ p ∈ [(Instr.headControlOn q head, 1#32), (Instr.headControlOff q head, 2#32),
          (Instr.headControlClear q head, 3#32), (Instr.headControlForget q head, 4#32),
          (Instr.headControlStepOn q head, 5#32), (Instr.headControlStepOff q head, 6#32),
          (Instr.headControlStep q head, 7#32)],
        exec p.1 s = .next (s.answered q (plainSlot q 12#5 (words2 head p.2)) (Answer.refuse .refusedRange))) ∧
    ∀ h : HeadId, head.toNat = h.val →
      let m := plainSlot q 12#5 (words2 head 1#32)
      let t := (s.head h).table
      exec (.headControlOn q head) s = .next
        (if (s.seq h).state ≠ .off then s.answered q m (Answer.refuse .refusedState)
         else if t.weight.main = 0 ∨ t.weight.additive = 0 ∨ s.settings.nPos ≤ t.position then
           s.answered q m (Answer.refuse .refusedRange)
         else
           (s.modSeq h fun x =>
             { x with
               state := if s.ring.state = .locked ∨ s.ring.state = .holdover then .idle else .held
               planIndex := 0
               progress := .none
               timer := none
               flags := ⟨false, false, false, false, false, false, false⟩
               entry := none
               faultPending := false }).answered q m Answer.done)

/-- R112, R136: OFF turns an IDLE, FAULT or HELD head off: outputs and requests closed, step mode and every cycle item clear,
the rest of the head and all other heads kept, its scan channel among it. R134: a conversion of it is abandoned, and the next
starts at once: the bowl for a pending request, which is then done, with the pointer kept, and otherwise the first channel
enabled without this head after the pointer in cyclic order, to which the pointer moves. A conversion of another channel goes
on. It is refused for an OFF head and put off for any other. The elapsed count (R35) stays, and so does the reservation, which
a head in these states does not hold. That the debounce counts become 0 is the model's choice (log 40). -/
def Obligations.HeadControlOffClosesTheHead : Prop :=
  ∀ (q : Envelope) (head : Word) (h : HeadId) (s : State), s.takesOwn q → head.toNat = h.val →
    let i := Instr.headControlOff q head
    let m := plainSlot q 12#5 (words2 head 2#32)
    let x := (s.seq h).state
    (x = .off → exec i s = .next (s.answered q m (Answer.refuse .refusedState))) ∧
    (x = .resolving ∨ x = .running ∨ x = .forcedSnift ∨ x = .stepHold →
      exec i s = .next (s.answered q m (Answer.refuse .busy))) ∧
    (x = .idle ∨ x = .fault ∨ x = .held → ∃ t : State,
      exec i s = .next (t.answered q m Answer.done) ∧
        t.seq h =
          { state := .off, planIndex := 0, progress := .none, timer := none, equalised := false, sniftBegun := false
            stepMode := false, entry := none, flags := ⟨false, false, false, false, false, false, false⟩
            faultPending := false, condCount := 0, burstCount := 0
            reserved := (s.seq h).reserved, elapsed := (s.seq h).elapsed } ∧
        (∀ v, (t.valve h v).output = false ∧ (t.valve h v).request = false) ∧
        { t.head h with seq := (s.head h).seq, valves := (s.head h).valves } = s.head h ∧
        (∀ k, k ≠ h → t.head k = s.head k) ∧ t.scanner.bowl = s.scanner.bowl ∧
        (s.scanner.conversion.channel ≠ .head h → t.scanner = s.scanner) ∧
        (s.scanner.conversion.channel = .head h → s.scanner.request = true →
          t.scanner.conversion = ⟨.bowl, true, some (max s.now q.time)⟩ ∧ t.scanner.request = false ∧
            t.scanner.pointer = s.scanner.pointer) ∧
        (s.scanner.conversion.channel = .head h → s.scanner.request = false →
          let c := t.scanner.conversion.channel
          let ahead := fun x : ScanId => (x.place + 8 - s.scanner.pointer.place) % 9
          t.scanner.conversion = ⟨c, false, some (max s.now q.time)⟩ ∧ t.scanner.request = false ∧
            t.scanner.pointer = c ∧ (c = .bowl ∨ ∃ k, k ≠ h ∧ c = .head k ∧ (s.seq k).state ≠ .off) ∧
            ahead c ≤ ahead .bowl ∧ ∀ k, k ≠ h → (s.seq k).state ≠ .off → ahead c ≤ ahead (.head k)) ∧
        { t with heads := s.heads, scanner := s.scanner, now := s.now } = s)

/-- R113, R147: CLEAR returns a head in FAULT to service when all five feedback levels show closed, and is refused otherwise;
a level of NONE is not closed. FORGET drops the learned afterflows and the last recipe number of an IDLE or OFF head. -/
def Obligations.HeadControlClearAndForget : Prop :=
  ∀ (q : Envelope) (head : Word) (h : HeadId) (s : State), s.takesOwn q → head.toNat = h.val →
    let m := plainSlot q 12#5 (words2 head 3#32)
    let n := plainSlot q 12#5 (words2 head 4#32)
    exec (.headControlClear q head) s = .next
      (if (s.seq h).state = .fault ∧ ∀ v ∈ [ValveId.gas, .fast, .slow, .add, .snift], (s.valve h v).feedback = .closed then
         (s.modSeq h fun x =>
           { x with
             state := if s.ring.state = .locked ∨ s.ring.state = .holdover then .idle else .held
             faultPending := false }).answered q m Answer.done
       else s.answered q m (Answer.refuse .refusedState)) ∧
    exec (.headControlForget q head) s = .next
      (if (s.seq h).state = .idle ∨ (s.seq h).state = .off then
         (s.modTable h fun x => { x with learned := ⟨0, 0⟩, lastRecipe := none }).answered q n Answer.done
       else s.answered q n (Answer.refuse .refusedState))

/-- R110, R111: STEP_ON sets step mode on an IDLE head while the carousel is not RUNNING. STEP_OFF sets it off in any state,
and STEP leaves it on; either takes a head in STEP_HOLD on to its next entry. -/
def Obligations.StepModeIsSetAndStepped : Prop :=
  ∀ (q : Envelope) (head : Word) (h : HeadId) (s : State), s.takesOwn q → head.toNat = h.val →
    let m := fun action => plainSlot q 12#5 (words2 head action)
    exec (.headControlStepOn q head) s = .next
      (if (s.seq h).state = .idle ∧ s.pitch.carousel ≠ .running then
         (s.modSeq h fun x => { x with stepMode := true }).answered q (m 5#32) Answer.done
       else s.answered q (m 5#32) (Answer.refuse .refusedState)) ∧
    exec (.headControlStepOff q head) s = .next
      (if (s.seq h).state = .stepHold then
         (nextEntry h ((s.advance q.time).modSeq h fun x => { x with stepMode := false, state := .running })).answered
          q (m 6#32) Answer.done
       else (s.modSeq h fun x => { x with stepMode := false }).answered q (m 6#32) Answer.done) ∧
    exec (.headControlStep q head) s = .next
      (if (s.seq h).state = .stepHold then
         (nextEntry h ((s.advance q.time).modSeq h fun x => { x with state := .running })).answered
          q (m 7#32) Answer.done
       else s.answered q (m 7#32) (Answer.refuse .refusedState))

/-- R162, R164: COUNTERS READ answers the ten counters two to a word, and TOTALS READ one row; each clears what it has read
when asked to, and nothing else. A clear option other than 0 and 1 is refused with REFUSED_RANGE. -/
def Obligations.CountersAndTotalsAreReadAndCleared : Prop :=
  ∀ (q : Envelope) (recipe clear : Word) (s : State), s.takesOwn q →
    let i := Instr.countersRead q clear
    let m := plainSlot q 13#5 (words1 clear)
    let c := fun k : Fin 10 => s.counters[k]
    let a := Answer.data [c 0 ++ c 1, c 2 ++ c 3, c 4 ++ c 5, c 6 ++ c 7, c 8 ++ c 9]
    let j := Instr.totalsRead q recipe clear
    let n := plainSlot q 14#5 (words2 recipe clear)
    (clear = 0#32 → exec i s = .next (s.answered q m a)) ∧
    (clear = 1#32 → exec i s = .next (State.answered { s with counters := Vector.replicate 10 0#16 } q m a)) ∧
    (1 < clear.toNat → exec i s = .next (s.answered q m (Answer.refuse .refusedRange))) ∧
    (127 < recipe.toNat ∨ 1 < clear.toNat → exec j s = .next (s.answered q n (Answer.refuse .refusedRange))) ∧
    ∀ k : Fin 128, recipe.toNat = k.val →
      let x := s.totals[k]
      let b := Answer.data
        [BitVec.ofNat 32 x.goodCount, BitVec.ofNat 32 x.underCount, BitVec.ofNat 32 x.overCount,
          BitVec.ofNat 32 x.unservedCount, BitVec.ofNat 32 (x.volumeSum / 4294967296 % 65536),
          BitVec.ofNat 32 (x.volumeSum % 4294967296)]
      (clear = 0#32 → exec j s = .next (s.answered q n b)) ∧
      (clear = 1#32 → exec j s = .next
        (State.answered { s with totals := s.totals.set k.val ⟨0, 0, 0, 0, 0⟩ k.isLt } q n b))

/-- R166: TRACE ARM, judged in its order of tests. On DONE the fields are written and both counts become 0, while the buffer
is kept; the descriptor runs at once when its trigger is IMMEDIATE and its link flag clear, and waits otherwise. -/
def Obligations.TraceArmWritesTheDescriptor : Prop :=
  ∀ (q : Envelope) (descriptor head signal divider length : Word) (link trigger : Half) (s : State), s.takes q →
    let i := Instr.traceArm q descriptor head signal divider length link trigger
    let m := plainSlot q 15#5 ⟨descriptor, head, signal, divider, length, link ++ trigger⟩
    let bad := 1 < descriptor.toNat ∨ 7 < head.toNat ∨ 3 < signal.toNat ∨ 1 < trigger.toNat ∨ divider.toNat = 0 ∨
      64 < divider.toNat ∨ length.toNat = 0 ∨ 512 < length.toNat ∨ 1 < link.toNat ∨ (link = 1#16 ∧ descriptor = 0#32)
    (bad → exec i s = .next (s.answered q m (Answer.refuse .refusedRange))) ∧
    (¬bad → ∀ (h : HeadId) (g : Signal), head.toNat = h.val →
      [Signal.mainRate, .addRate, .headPressure, .bowlPressure][signal.toNat]? = some g →
      let isB := decide (descriptor = 1#32)
      let runs := trigger = 0#16 ∧ link = 0#16
      exec i s = .next
        (if (s.trace.get isB).state = .running then s.answered q m (Answer.refuse .busy)
         else if runs ∧ (s.trace.get (!isB)).state = .running then s.answered q m (Answer.refuse .busy)
         else
           (s.setTrace isB
             { s.trace.get isB with
               state := if runs then .running else .armed
               head := h
               signal := g
               divider := divider.toNat
               length := length.toNat
               trigger := if trigger = 0#16 then .immediate else .markedFill
               link := decide (link = 1#16)
               ticks := 0
               samples := 0 }).answered q m Answer.done))

/-- R170, R171: TRACE STOP ends a run with its count kept, disarms a waiting descriptor, and changes nothing otherwise. TRACE
READ answers twelve places of the buffer from the offset onward, 0 beyond the last, with the state and the sample count in
the parameter field, and changes nothing. -/
def Obligations.TraceStopAndTraceRead : Prop :=
  ∀ (q : Envelope) (descriptor offset : Word) (s : State),
    let i := Instr.traceStop q descriptor
    let m := plainSlot q 16#5 (words1 descriptor)
    let j := Instr.traceRead q descriptor offset
    let n := plainSlot q 17#5 (words2 descriptor offset)
    let isB := decide (descriptor = 1#32)
    let d := s.trace.get isB
    let place := fun k => d.buffer.toList.getD (offset.toNat + k) 0#16
    (s.takes q → 1 < descriptor.toNat → exec i s = .next (s.answered q m (Answer.refuse .refusedRange))) ∧
    (s.takes q → descriptor.toNat ≤ 1 → exec i s = .next
      ((s.setTrace isB
        { d with
          state := if d.state = .running then .stopped else if d.state = .armed then .idle else d.state }).answered
        q m Answer.done)) ∧
    (s.takesOwn q → 1 < descriptor.toNat ∨ 511 < offset.toNat →
      exec j s = .next (s.answered q n (Answer.refuse .refusedRange))) ∧
    (s.takesOwn q → descriptor.toNat ≤ 1 → offset.toNat ≤ 511 → exec j s = .next
      (s.answered q n
        ⟨.done, [place 0 ++ place 1, place 2 ++ place 3, place 4 ++ place 5, place 6 ++ place 7, place 8 ++ place 9,
          place 10 ++ place 11], some (BitVec.ofNat 16 (8192 * traceStateCode d.state + d.samples))⟩))

/-- R175, with the layout of R183: NODE STATUS answers the node's state as the request finds it, and changes nothing. It is
answered in FAILED too. -/
def Obligations.NodeStatusReportsTheNode : Prop :=
  ∀ (q : Envelope) (s : State), s.resetScheduled = false → (s.judges ∨ s.ring.state = .failed) → s.ownAddress q.dest →
    ∃ ws : List Word, exec (.nodeStatus q) s = .next (s.answered q (plainSlot q 18#5 words0) (Answer.data ws)) ∧
      ws.length = 6 ∧
      ws[0]? = some (BitVec.ofNat 8 (ringStateCode s.ring.state) ++ q.dest.setWidth 8 ++ BitVec.ofNat 8 s.ring.badCount ++
        BitVec.ofNat 8 (carouselCode s.pitch.carousel)) ∧
      ws[1]? = some (BitVec.ofNat 32 (s.pitch.estimate.getD 0)) ∧
      ws[2]? = some ((s.pitch.sequence.elim 0#16 PitchSequence.serial) ++
        BitVec.ofNat 16 (s.pitch.sequence.elim 0 PitchSequence.position)) ∧
      (∀ h : HeadId, (ws[3]?.map fun w => w.toNat / 2 ^ (28 - 4 * h.val) % 16) = some (headStateCode (s.seq h).state)) ∧
      ws[4]? = some (BitVec.ofNat 8 s.queue.entries.length ++ BitVec.ofNat 8 s.settings.depth ++
        BitVec.ofNat 8 s.orq.records.length ++ BitVec.ofNat 8 s.orq.reservations) ∧
      ws[5]? = some (BitVec.ofNat 16 (s.scanner.bowl.value.getD 0) ++
        BitVec.ofNat 16 ((if s.pitch.sequence.isSome then 4 else 0) + (if s.orq.lost then 2 else 0) +
          (if s.scanner.bowl.fault then 1 else 0)))

/-- R176, with the layout of R183: the parts of HEAD STATUS, each answered in every head state and changing nothing; a head
above 7 is refused. The target serial of 0 where no infeed entry is held is the model's choice (log 39). -/
def Obligations.HeadStatusReportsItsPart : Prop :=
  ∀ (q : Envelope) (head : Word) (s : State), s.takesOwn q →
    let m := fun part => plainSlot q 19#5 (words2 head part)
    (7 < head.toNat →
      exec (.headStatusCycle q head) s = .next (s.answered q (m 1#32) (Answer.refuse .refusedRange)) ∧
      exec (.headStatusValves q head) s = .next (s.answered q (m 2#32) (Answer.refuse .refusedRange)) ∧
      exec (.headStatusMetering q head) s = .next (s.answered q (m 3#32) (Answer.refuse .refusedRange))) ∧
    ∀ h : HeadId, head.toNat = h.val →
      let x := s.head h
      let bit := fun b : Bool => if b then 1 else 0
      let raw := fun c : ScanChannel => BitVec.ofNat 32 (c.raw.elim 65535 BitVec.toNat)
      let valve := fun v : Valve => BitVec.ofNat 8
        (bit v.output + 2 * feedbackCode v.feedback + 8 * supervisionCode v.supervision)
      let volume := fun c : Channel => BitVec.ofNat 32
        (if c.state = .idle then 0 else if c.state = .ended then c.final else c.volume)
      (∃ w0 w1 w2 w3 : Word,
        exec (.headStatusCycle q head) s = .next (s.answered q (m 1#32) (Answer.data [w0, w1, w2, w3])) ∧
        (x.seq.planIndex < 256 →
          w0.toNat = 16777216 * headStateCode x.seq.state + 65536 * x.seq.planIndex + 256 * progressCode x.seq.progress +
            (currentEntry h s).elim 0 fun e => phaseKindCode e.kind) ∧
        w1.toNat = 256 * (bit x.seq.flags.deadline + 2 * bit x.seq.flags.timeout + 4 * bit x.seq.flags.addErr +
            8 * bit x.seq.flags.learnSkipped + 32 * bit x.seq.flags.ringLoss + 64 * bit x.seq.flags.sniftIncomplete +
            128 * bit x.seq.flags.stepMode) +
          16 * bit x.seq.stepMode + 8 * bit x.seq.equalised + 4 * bit x.seq.sniftBegun + 2 * bit x.seq.faultPending +
          bit x.seq.reserved ∧
        (∀ k, x.seq.elapsed = some k → k < 65536 → w2.toNat = k) ∧ (x.seq.elapsed = none → w2.toNat = 65535) ∧
        w3.toNat = x.seq.entry.elim 0 fun e => 65536 + e.serial.toNat) ∧
      exec (.headStatusValves q head) s = .next
        (s.answered q (m 2#32)
          (Answer.data
            [valve x.valves.gas ++ valve x.valves.fast ++ valve x.valves.slow ++ valve x.valves.add,
              valve x.valves.snift ++ BitVec.ofNat 8 (presenceCode x.presence) ++ BitVec.ofNat 8 (bit x.scan.fault) ++ 0#8,
              BitVec.ofNat 32 (x.scan.value.getD 0), BitVec.ofNat 32 x.stray, raw x.scan, raw s.scanner.bowl])) ∧
      exec (.headStatusMetering q head) s = .next
        (s.answered q (m 3#32)
          (Answer.data
            [BitVec.ofNat 8 (x.table.lastRecipe.getD 255) ++ 0#8 ++ BitVec.ofNat 8 (channelStateCode x.chan.main.state) ++
                BitVec.ofNat 8 (channelStateCode x.chan.additive.state),
              volume x.chan.main, volume x.chan.additive, BitVec.ofNat 32 x.table.learned.main,
              BitVec.ofNat 32 x.table.learned.additive, BitVec.ofNat 32 x.lastAdditive]))

/-- R177, R179: NODE RESET schedules the soft reset for the moment at which its frame leaves, unless a head resolves or has
an active cycle. TEST inserts its event while the carousel is not RUNNING: DAMAGE_NEXT sets the pending damage insertion, and
FORCE_RAIL sets the forced rail readings of its head to 2, whatever they were. -/
def Obligations.NodeResetAndTestAreJudged : Prop :=
  ∀ (q : Envelope) (head : Word) (s : State), s.takesOwn q →
    let k := plainSlot q 20#5 words0
    let m := plainSlot q 21#5 (words1 1#32)
    let n := plainSlot q 21#5 (words2 2#32 head)
    exec (.nodeReset q) s = .next
      (if ∃ h : HeadId, (s.seq h).state ∈ [HeadState.resolving, .running, .forcedSnift, .stepHold] then
         s.answered q k (Answer.refuse .busy)
       else State.answered { s with resetScheduled := true } q k Answer.done) ∧
    exec (.testDamageNext q) s = .next
      (if s.pitch.carousel = .running then s.answered q m (Answer.refuse .refusedState)
       else State.answered { s with ring := { s.ring with damagePending := true } } q m Answer.done) ∧
    (7 < head.toNat → exec (.testForceRail q head) s = .next (s.answered q n (Answer.refuse .refusedRange))) ∧
    ∀ h : HeadId, head.toNat = h.val →
      exec (.testForceRail q head) s = .next
        (if s.pitch.carousel = .running then s.answered q n (Answer.refuse .refusedState)
         else (s.modHead h fun x => { x with forced := 2 }).answered q n Answer.done)

/-! ### The Resolver -/

/-- R78 to R82, R85, R88: one step of a resolution, which the model cuts at records and curves (log 16). A step that follows a
recipe number judges directory, segment and index in this order and takes the record it reads; a merged recipe is judged for
its field ranges, its plan rules and its deadlines in this order; then each curve that it needs, main curve first, is judged by
its four tests and read. A step that fails ends the resolution with its fault: it completes at that point as
RESOLUTION_COMPLETE does with that fault, the head is free and the read set empty. A step that passes changes nothing but the
resolution, and one behind the last curve not even that. With no resolution in progress nothing happens (log 2). -/
def Obligations.ResolutionStepFollowsTheChain : Prop :=
  ∀ (time : Ticks) (s : State),
    let i := Instr.resolutionStep time
    (s.resolver.current = none → exec i s = .next { s with now := max s.now time }) ∧
    ∀ r : Resolution, s.resolver.current = some r →
      let goes := fun r' : Resolution =>
        exec i s = .next { s with now := max s.now time, resolver := { s.resolver with current := some r' } }
      let fails := fun (f : ResFault) (detail : Nat) => ∃ t : State, exec i s = .next t ∧
        exec (.resolutionComplete time)
          { s with resolver := { s.resolver with current := some { r with stage := .failed f detail } } } = .next t ∧
        (t.seq r.head).state = (if s.ring.state = .locked ∨ s.ring.state = .holdover then .idle else .held) ∧
        ∀ x ∈ t.resolver.current, x.readSet = []
      let reads := fun g : Fin 32 => if g ∈ r.readSet then r.readSet else r.readSet ++ [g]
      let curve := fun (c : CurveRef) (detail : Nat) (next : List CurvePoint → Stage) =>
        (32 ≤ c.segment → fails .curveInvalid detail) ∧
        ∀ g : Fin 32, c.segment = g.val →
          let x := s.segment g
          let word := fun j => Memory.read s.tables.words (x.base + 16 * c.index + j)
          let count := (word 0).toNat % 16
          let points := (List.range count).map fun j =>
            (⟨(word (1 + j)).toNat / 65536, ((word (1 + j)).setWidth 16).toInt⟩ : CurvePoint)
          let rising := ∀ (j : Nat) (a b : CurvePoint), points[j]? = some a → points[j + 1]? = some b → a.rate < b.rate
          let placed := x.state = .valid ∧ x.kind = some .curve ∧ 16 * (c.index + 1) ≤ x.length
          (¬placed ∨ count < 2 ∨ 8 < count ∨ ¬rising → fails .curveInvalid detail) ∧
          (placed → 2 ≤ count → count ≤ 8 → rising →
            goes { r with stage := next points, readSet := reads g, wordsRead := r.wordsRead + 16 })
      (∀ n, r.stage = .following n →
        (128 ≤ n → fails .noRecipe n) ∧
        ∀ k : Fin 128, n = k.val →
          (s.directory[k] = none → fails .noRecipe n) ∧
          ∀ d : DirEntry, s.directory[k] = some d →
            let g := s.segment d.segment
            let ws := (List.range 32).map fun j => Memory.read s.tables.words (g.base + 32 * d.index + j)
            let kind := (ws.getD 0 0#32).toNat / 2 ^ 30
            let parent := (ws.getD 0 0#32).toNat / 65536 % 256
            let taken :=
              { r with readSet := reads d.segment, chainLength := r.chainLength + 1, wordsRead := r.wordsRead + 32 }
            if g.state = .undefined ∨ g.kind ≠ some .recipe then fails .wrongKind n
            else if g.state ≠ .valid then fails .segmentNotReady n
            else if g.length < 32 * (d.index + 1) then fails .indexRange n
            else if kind = 1 then goes { taken with stage := .merged (mergeFull r.fixed (fullOf ws)) }
            else if kind = 2 ∧ 4 ≤ r.chainLength + 1 then fails .chainTooLong parent
            else if kind = 2 then goes { taken with fixed := fixVariant ws r.fixed, stage := .following parent }
            else fails .fieldRange n) ∧
      (∀ m, r.stage = .merged m →
        let y := m.recipe
        let d := y.deadlines
        let ks := m.plan.map RawEntry.kindCode
        let within := fun (l : List (Nat × Nat × Nat)) => ∀ b ∈ l, b.1 ≤ b.2.1 ∧ b.2.1 ≤ b.2.2
        let ranges :=
          within
            [(50000000, y.vMain, 3000000000), (0, y.tolUnder, 100000000), (0, y.tolOver, 100000000),
              (0, y.startBand, y.vMain), (0, y.slowBand, y.vMain), (0, y.ratio, 2000), (0, y.addTol, 100000000),
              (0, y.smoothing, 4), (1, y.gain, 6), (0, y.seed.main, 50000000), (0, y.seed.additive, 50000000),
              (5, y.settleWindow, 500), (20, y.settleLimit, 5000), (0, y.bowlMin, 16000), (y.bowlMin, y.bowlMax, 16000),
              (0, y.burstDelta, 16000), (1, y.burstDebounce, 4), (1, m.planCount, 10)] ∧
          -20000 ≤ y.factor ∧ y.factor ≤ 20000 ∧
          ∀ e ∈ m.plan, within
            [(1, e.kindCode, 6), (1, e.timeLimit, 10000), (0, e.pressure, 16000), (1, e.debounce, 4), (0, e.hold, 1000)]
        let rules :=
          ks.count 4 = 1 ∧ ks.count 3 = (if y.ratio = 0 then 0 else 1) ∧
            (∃ j : Nat, ks[j]? = some 2 ∧ ∀ k : Nat, k < j → ks[k]? ≠ some 3 ∧ ks[k]? ≠ some 4) ∧ 6 ∈ ks ∧
            ∀ (j k x : Nat), j ≤ k → ks[j]? = some 6 → ks[k]? = some x → x = 6
        let ordered := d.dFill < d.dSnift ∧ d.dSnift < d.dRelease ∧ d.dRelease ≤ s.settings.nPos - 1
        (¬ranges → fails .fieldRange 0) ∧ (ranges → ¬rules → fails .planInvalid 0) ∧
          (ranges → rules → ¬ordered → fails .deadlinesInvalid 0) ∧
          (ranges → rules → ordered → curve (s.head r.head).table.curve.main 0 fun ps => .mainRead m ps)) ∧
      (∀ m ps, r.stage = .mainRead m ps →
        (m.recipe.ratio = 0 → goes { r with stage := .curvesRead m ps none }) ∧
        (m.recipe.ratio ≠ 0 → curve (s.head r.head).table.curve.additive 1 fun qs => .curvesRead m ps (some qs))) ∧
      (∀ m ps qs, r.stage = .curvesRead m ps qs → goes r) ∧ ∀ f d, r.stage = .failed f d → fails f d

/-- R79, R75, R184: a field that the chain has fixed already keeps its value at a VARIANT record, and one that it has not takes
the override when its flag is set; the FULL record supplies what is left. Every field stands at its words and bits, and a plan
entry whose kind is defined stands in the plan of the cycle under its kind. -/
def Obligations.NearestRecordFixesEachField : Prop :=
  ∀ (ws full : List Word) (fx : Fixed),
    let flag := fun i => (ws.getD 0 0#32).getLsbD i
    let got := fixVariant ws fx
    let w := fun i => (full.getD i 0#32).toNat
    let b := fun i lo width => w i / 2 ^ lo % 2 ^ width
    let merged := mergeFull fx (fullOf full)
    (∀ x, fx.target = some x → got.target = some x) ∧
    (fx.target = none → got.target = if flag 0 then some (ws.getD 1 0#32).toNat else none) ∧
    (∀ x, fx.tolUnder = some x → got.tolUnder = some x) ∧
    (fx.tolUnder = none → got.tolUnder = if flag 1 then some ((ws.getD 2 0#32).toNat % 2 ^ 27) else none) ∧
    (∀ x, fx.tolOver = some x → got.tolOver = some x) ∧
    (fx.tolOver = none → got.tolOver = if flag 2 then some ((ws.getD 3 0#32).toNat % 2 ^ 27) else none) ∧
    (∀ x, fx.ratio = some x → got.ratio = some x) ∧
    (fx.ratio = none → got.ratio = if flag 3 then some ((ws.getD 4 0#32).toNat % 2 ^ 11) else none) ∧
    (∀ x, fx.factor = some x → got.factor = some x) ∧
    (fx.factor = none → got.factor = if flag 4 then some ((ws.getD 5 0#32).setWidth 16).toInt else none) ∧
    (∀ x, fx.deadlines = some x → got.deadlines = some x) ∧
    (fx.deadlines = none → got.deadlines =
      if flag 5 then
        some ⟨(ws.getD 6 0#32).toNat / 2 ^ 23, (ws.getD 6 0#32).toNat / 2 ^ 14 % 2 ^ 9, (ws.getD 6 0#32).toNat % 2 ^ 9⟩
      else none) ∧
    merged.recipe =
      { vMain := fx.target.getD (w 5)
        tolUnder := fx.tolUnder.getD (b 0 0 27)
        tolOver := fx.tolOver.getD (b 1 0 27)
        startBand := w 6
        slowBand := w 7
        ratio := fx.ratio.getD (b 11 0 11)
        addTol := b 2 0 27
        factor := fx.factor.getD (BitVec.ofNat 16 (b 8 16 16)).toInt
        smoothing := b 0 27 3
        gain := b 1 29 3
        seed := ⟨b 3 0 26, b 4 0 26⟩
        settleWindow := b 11 14 9
        settleLimit := b 10 0 13
        bowlMin := b 8 0 14
        bowlMax := b 9 16 14
        burstDelta := b 9 0 14
        burstDebounce := b 2 29 3
        deadlines := fx.deadlines.getD ⟨b 10 23 9, b 10 14 9, b 11 23 9⟩ } ∧
    merged.planCount = b 3 28 4 ∧ merged.plan.length = min (b 3 28 4) 10 ∧
    (∀ i, i < min (b 3 28 4) 10 →
      merged.plan[i]? =
        some ⟨b (12 + 2 * i) 29 3, decide (b (12 + 2 * i) 28 1 = 1), b (12 + 2 * i) 25 3, b (12 + 2 * i) 0 14,
          b (13 + 2 * i) 16 14, b (13 + 2 * i) 0 10⟩) ∧
    ((∀ e ∈ merged.plan, 1 ≤ e.kindCode ∧ e.kindCode ≤ 6) → ∀ (i : Nat) (e : RawEntry), merged.plan[i]? = some e →
      ∃ k : PhaseKind, phaseKindCode k = e.kindCode ∧
        (planOf merged)[i]? = some ⟨k, e.continues, e.debounce, e.timeLimit, e.pressure, e.hold⟩)

/-- R87, R88, R92, R83, R84: how a resolution completes, once its steps have come to an end (log 16). A fault, found before or
in the validation of a merged recipe, gives NOT_SERVED RECIPE_FAULT with its code and detail; a resolution that passed
validation writes the head's cycle record and reseeds a head whose last recipe is another, and its container is then
NOT_SERVED by the first test that applies: RING_LOSS when a ring loss overtook it, LATE with the elapsed count at or past
D_fill, BOWL_SENSOR with a bowl sensor fault or no bowl value, BOWL_PRESSURE outside the bowl limits. Whatever the reason, the
head is free again and the record stands in the place that was reserved for it; a fault leaves the head's table and cycle
record as they were, and behind the four tests the head's valves are as they were. When none of the four applies the cycle
starts, said here of a plan that begins with PURGE. R115: a cycle that starts puts both channels at their reset values, the
smoothed rate with the others; the rate that stood is held for the traces (log 34). R77: however it ends, the oldest request
that waits leaves the list and its resolution begins, with its overtaken mark; with none waiting the Resolver is free. -/
def Obligations.ResolutionEndsWithItsOutcome : Prop :=
  ∀ (time : Ticks) (l : List ResRequest) (r : Resolution) (e : QueueEntry) (s : State), s.resolver = ⟨l, some r⟩ →
    (s.seq r.head).entry = some e → s.orq.lost = false → 0 < s.orq.reservations →
    let next : Resolver :=
      match l with
      | [] => ⟨[], none⟩
      | x :: rest =>
        ⟨rest, some ⟨x.head, x.recipe, 0, ⟨none, none, none, none, none, none⟩, .following x.recipe, [], 0, x.overtaken⟩⟩
    let free := if s.ring.state = .locked ∨ s.ring.state = .holdover then HeadState.idle else .held
    let stands := fun c : Channel => if c.state = .idle then c.heldRate else c.rate
    let record := fun (reason : Byte) (a b : Nat) =>
      (⟨.notServed, BitVec.ofNat 8 r.head.val, e.serial, BitVec.ofNat 8 e.recipe, reason, 0#8, BitVec.ofNat 32 a,
        BitVec.ofNat 24 b⟩ : Record)
    (∀ (f : ResFault) (d : Nat),
      (r.stage = .failed f d ∨ d = 0 ∧ ∃ m, r.stage = .merged m ∧ validate s.settings.nPos m = some f) →
      ∃ t : State, exec (.resolutionComplete time) s = .next t ∧ t.resolver = next ∧
        t.orq = ⟨s.orq.records ++ [record 8#8 (resFaultCode f) d], s.orq.reservations - 1, false⟩ ∧
        (t.seq r.head).state = free ∧ (t.seq r.head).entry = none ∧ (t.seq r.head).reserved = false ∧
        (t.head r.head).table = (s.head r.head).table ∧ (t.head r.head).cycle = (s.head r.head).cycle) ∧
    ∀ (m : Merged) (ps : List CurvePoint) (qs : Option (List CurvePoint)), r.stage = .curvesRead m ps qs →
      let old := (s.head r.head).table
      let record2 : CycleRecord :=
        ⟨m.recipe, (m.recipe.vMain * m.recipe.ratio + 5000) / 10000, planOf m, ps, qs⟩
      let table2 :=
        if old.lastRecipe = some r.named then old
        else
          { old with
            learned := ⟨min m.recipe.seed.main old.afterflowMax.main, min m.recipe.seed.additive old.afterflowMax.additive⟩
            lastRecipe := some r.named }
      let declined := fun reason : Byte => ∃ t : State, exec (.resolutionComplete time) s = .next t ∧
        t.resolver = next ∧ t.orq = ⟨s.orq.records ++ [record reason 0 0], s.orq.reservations - 1, false⟩ ∧
        (t.seq r.head).state = free ∧ (t.seq r.head).entry = none ∧ (t.seq r.head).reserved = false ∧ (t.head r.head).cycle = some record2 ∧
        (t.head r.head).table = table2 ∧ (t.head r.head).valves = (s.head r.head).valves ∧
        ∀ n : Fin 128, t.totals[n] =
          if n.val = e.recipe then
            { s.totals[n] with unservedCount := min 4294967295 (s.totals[n].unservedCount + 1) }
          else s.totals[n]
      let early := ∀ n, (s.seq r.head).elapsed = some n → n < m.recipe.deadlines.dFill
      (r.overtaken = true → declined 5#8) ∧
      (r.overtaken = false → ∀ n, (s.seq r.head).elapsed = some n → m.recipe.deadlines.dFill ≤ n → declined 9#8) ∧
      (r.overtaken = false → early → s.scanner.bowl.fault = true ∨ s.scanner.bowl.value = none → declined 10#8) ∧
      (r.overtaken = false → early → s.scanner.bowl.fault = false → ∀ b, s.scanner.bowl.value = some b →
        b < m.recipe.bowlMin ∨ m.recipe.bowlMax < b → declined 11#8) ∧
      ∀ (b : Nat) (x : PhaseEntry) (rest : List PhaseEntry), r.overtaken = false → early →
        s.scanner.bowl.fault = false → s.scanner.bowl.value = some b → m.recipe.bowlMin ≤ b → b ≤ m.recipe.bowlMax →
        planOf m = x :: rest → x.kind = .purge →
        ∃ t : State, exec (.resolutionComplete time) s = .next t ∧ t.resolver = next ∧
          (t.seq r.head).state = .running ∧ (t.seq r.head).planIndex = 1 ∧ (t.seq r.head).progress = .active ∧
          (t.seq r.head).timer = some (max s.now time + 10000 * x.timeLimit) ∧ (t.seq r.head).entry = some e ∧
          (t.seq r.head).equalised = false ∧ (t.valve r.head .gas).request = true ∧
          (t.valve r.head .snift).request = true ∧ (t.head r.head).cycle = some record2 ∧
          (t.head r.head).table = table2 ∧
          ∀ k, t.chan r.head k =
            ⟨.idle, 0, 0, 0, 0, none, 0, .none, none, none, none, .none, 0, .none, stands (s.chan r.head k)⟩

/-! ### The head cycle -/

/-- R93 to R100, R111: what follows an entry that is over. In step mode a RUNNING head holds; otherwise the next entry of the
plan begins, its progress ACTIVE and its timer running for its time limit, with the valves that its kind commands. A
PRESSURISE entry under a sensor fault opens GAS and fails at once, with no flag: the cycle goes on behind it, or with ABORT
its snift is forced. R103, R116, R122: an ADDITIVE entry at or past D_fill is over at once with no dose; any other ADDITIVE
or FILL entry starts its dose, with its valve requested open, FAST by the bands, or, where the learned afterflow is at or
above the target, settles from dose start with its valves closed. R169: a FILL entry whose container is marked starts a
descriptor that waits for a marked fill at the head, A ahead of B, while the other is not RUNNING.
R145: a GAS or SNIFT opening is carried out at once, and one whose request stands open changes nothing. R148: a commanded
output that changes is STROKING for the stroke time of its valve, unless the feedback level agrees with it, which makes the
valve IDLE. R146: a product opening is carried out with the equalised flag set and SNIFT commanded closed; otherwise the output
stays as it was, with ALARM INTERLOCK where there is room, its value A the valve and its value B 0 with the flag clear and 1 with
SNIFT commanded open, in the order SLOW, FAST at a fill (log 35). A SNIFT opening (value B 1), and the clearing of the
equalised flag (value B 0), close each product output that is commanded open, with its alarm, in the order FAST, SLOW, ADD
(log 35); their requests stand. -/
def Obligations.NextEntryBeginsOrHolds : Prop :=
  ∀ (h : HeadId) (s : State),
    let q := s.seq h
    let t := goOn h s
    let driven := fun (v : ValveId) (o : Bool) (x : Valve) =>
      if x.output = o then x
      else if x.feedback = (if o then .opened else .closed) then { x with output := o, supervision := .idle, expiry := none }
      else
        { x with output := o, supervision := .stroking, expiry := some (s.now + 10000 * (s.head h).table.strokes.get v) }
    let opened := fun v : ValveId =>
      if (s.valve h v).request then s.valve h v else driven v true { s.valve h v with request := true }
    let allowed := q.equalised = true ∧ (s.valve h .snift).output = false
    let dosed := fun v : ValveId => if allowed then opened v else { s.valve h v with request := true }
    let products := [ValveId.fast, .slow, .add]
    let suppressed := fun vs : List ValveId => if allowed then [] else vs.filter fun v => !(s.valve h v).request
    let raises := fun (b : BitVec 24) (vs : List ValveId) =>
      vs = [] ∨ s.orq.lost = false ∧ s.orq.records.length + s.orq.reservations + vs.length ≤ 48 →
        t.orq =
          { s.orq with
            records := s.orq.records ++ vs.map fun v =>
              ⟨.alarm, BitVec.ofNat 8 h.val, s.pitch.sequence.elim 0#16 PitchSequence.serial, 255#8, 4#8, 0#8,
                BitVec.ofNat 32 (valveCode v), b⟩ }
    let unequalised := if q.equalised then 1#24 else 0#24
    let interlocks := fun b : BitVec 24 =>
      (∀ v ∈ products, t.valve h v = driven v false (s.valve h v)) ∧ raises b (products.filter fun v => (s.valve h v).output)
    (q.stepMode = true → q.state = .running →
      t = s.modSeq h fun x => { x with state := .stepHold, progress := .none, timer := none }) ∧
    ∀ (e : PhaseEntry) (c : CycleRecord), (q.stepMode = false ∨ q.state ≠ .running) → (s.head h).cycle = some c →
      c.plan[q.planIndex]? = some e →
      (e.kind = .purge ∨ e.kind = .rest ∨ e.kind = .snift ∨
        (e.kind = .pressurise ∧ (s.head h).scan.fault = false ∧ s.scanner.bowl.fault = false) →
        (t.seq h).planIndex = q.planIndex + 1 ∧ (t.seq h).progress = .active ∧ (t.seq h).state = q.state ∧
          (t.seq h).timer = some (s.now + 10000 * e.timeLimit) ∧ (t.seq h).condCount = 0) ∧
      (e.kind = .purge → (t.valve h .gas).request = true ∧ (t.valve h .snift).request = true ∧
        (t.seq h).equalised = false ∧ t.valve h .gas = opened .gas ∧ t.valve h .snift = opened .snift ∧
        if (s.valve h .snift).request = false then interlocks 1#24
        else if q.equalised = true then interlocks 0#24
        else (∀ v ∈ products, t.valve h v = s.valve h v) ∧ t.orq = s.orq) ∧
      (e.kind = .pressurise → (s.head h).scan.fault = false → s.scanner.bowl.fault = false →
        (t.valve h .gas).request = true ∧ (t.seq h).equalised = q.equalised ∧ t.valve h .gas = opened .gas ∧ t.orq = s.orq ∧
          ∀ v : ValveId, v ≠ .gas → t.valve h v = s.valve h v) ∧
      (e.kind = .rest → (t.valve h .gas).request = true ∧ t.valve h .gas = opened .gas ∧
        t.valve h .snift = s.valve h .snift ∧ t.orq = s.orq ∧
        ∀ v ∈ [ValveId.fast, .slow, .add], (t.valve h v).request = false ∧ (t.valve h v).output = false) ∧
      (e.kind = .snift → (t.seq h).sniftBegun = true ∧ (t.valve h .snift).request = true ∧
        t.valve h .snift = opened .snift ∧
        (if q.sniftBegun = false ∧ q.equalised = true then interlocks 0#24
         else if (s.valve h .snift).request = false then interlocks 1#24
         else (∀ v ∈ products, t.valve h v = s.valve h v) ∧ t.orq = s.orq) ∧
        (q.sniftBegun = false →
          (t.seq h).equalised = false ∧ (t.valve h .gas).request = false ∧ (t.valve h .gas).output = false)) ∧
      (let begun : Sequencer :=
         { q with
           planIndex := q.planIndex + 1, progress := .active, timer := some (s.now + 10000 * e.timeLimit), condCount := 0,
           burstCount := 0 }
       let settles : Sequencer := { begun with progress := .settling, timer := none }
       let fresh := fun (m : Meter) (target : Nat) => (t.chan h m).target = target ∧ (t.chan h m).volume = 0 ∧
         (t.chan h m).rem = 0 ∧ (t.chan h m).pulses = 0 ∧ (t.chan h m).rate = 0 ∧ (t.chan h m).prevStamp = none ∧
         (t.chan h m).endKind = .none ∧ (t.chan h m).learn = .none
       let doses := fun (m : Meter) (target : Nat) =>
         fresh m target ∧ (t.chan h m).state = .dosing ∧ (t.chan h m).closeKind = .none ∧ t.seq h = begun
       let closes := fun (m : Meter) (target : Nat) =>
         fresh m target ∧ (t.chan h m).state = .settling ∧ (t.chan h m).closeKind = .cutoff ∧
           (t.chan h m).closeVolume = some 0 ∧ (t.chan h m).settleStart = some s.now ∧ (t.chan h m).lastPulse = none ∧
           t.seq h = settles
       let late := ∃ n, q.elapsed = some n ∧ c.recipe.deadlines.dFill ≤ n
       (e.kind = .pressurise → (s.head h).scan.fault = true ∨ s.scanner.bowl.fault = true →
         (e.continues = true → t = goOn h (requestOpen h .gas (s.modSeq h fun _ => begun))) ∧
         (e.continues = false → q.state = .running → q.sniftBegun = false → (∃ x ∈ c.plan, x.kind = .snift) →
           (t.seq h).state = .forcedSnift ∧ (t.seq h).progress = .active ∧ (t.seq h).flags = q.flags ∧
             (t.seq h).sniftBegun = true ∧ (t.seq h).equalised = false ∧ (t.valve h .snift).request = true ∧
             (∀ v ∈ [ValveId.gas, .fast, .slow, .add], (t.valve h v).request = false ∧ (t.valve h v).output = false) ∧
             ∀ m, (t.chan h m).state = .idle ∨ (t.chan h m).state = .ended)) ∧
       (e.kind = .additive → late → t = goOn h (s.modSeq h fun _ => begun)) ∧
       (e.kind = .additive → ¬late → (s.head h).table.learned.additive < c.vAdd →
         doses .additive c.vAdd ∧ (t.valve h .add).request = true ∧ t.valve h .add = dosed .add ∧
           raises unequalised (suppressed [.add])) ∧
       (e.kind = .additive → ¬late → c.vAdd ≤ (s.head h).table.learned.additive →
         closes .additive c.vAdd ∧ (t.valve h .add).request = false ∧ (t.valve h .add).output = false) ∧
       (e.kind = .fill → (s.head h).table.learned.main < c.recipe.vMain →
         doses .main c.recipe.vMain ∧ (t.valve h .slow).request = true ∧
           t.valve h .slow = dosed .slow ∧
           let fast := c.recipe.startBand = 0 ∧ c.recipe.slowBand < c.recipe.vMain
           (t.valve h .fast).request = decide fast ∧ raises unequalised (suppressed (if fast then [.slow, .fast] else [.slow])) ∧
             (fast → t.valve h .fast = dosed .fast) ∧ (¬fast → (t.valve h .fast).output = false)) ∧
       (e.kind = .fill → c.recipe.vMain ≤ (s.head h).table.learned.main →
         closes .main c.recipe.vMain ∧
           ∀ v ∈ [ValveId.fast, .slow], (t.valve h v).request = false ∧ (t.valve h v).output = false)) ∧
      (e.kind = .fill →
        let marked := q.entry.elim false QueueEntry.trace
        let waits := fun d : Descriptor =>
          decide (d.state = .armed ∧ d.trigger = .markedFill ∧ d.head = h ∧ d.link = false)
        let started := fun d : Descriptor => { d with state := .running, ticks := 0, samples := 0 }
        let a := s.trace.a
        let b := s.trace.b
        t.trace.a = (if marked && waits a && decide (b.state ≠ .running) then started a else a) ∧
          t.trace.b = (if marked && waits b && decide (t.trace.a.state ≠ .running) then started b else b))

/-- R93 to R101, R111: the entry timer expires, at its due time (log 25). With none running nothing happens (log 2). At the
time limit, a PRESSURISE, ADDITIVE or FILL entry with ABORT disposition sets TIMEOUT and forces the snift, with product
valves and GAS closed and the equalised flag clear; one with CONTINUE sets TIMEOUT, closes the valves of its dose, which is
cut, and the cycle goes on. A PURGE entry closes GAS and SNIFT, a REST entry closes none, and the cycle goes on. Where it goes
on, the next entry begins, or in step mode the head holds. A SNIFT entry that is not the last closes SNIFT, sets TIMEOUT, and
the next SNIFT entry begins at once, whatever step mode. At the end of a hold the next SNIFT entry begins, or in step mode a
RUNNING head holds. -/
def Obligations.EntryTimerExpires : Prop :=
  ∀ (h : HeadId) (s : State),
    let q := s.seq h
    let i := Instr.phaseTimeLimitExpiry h
    let j := Instr.sniftHoldExpiry h
    let idle := q.timer = none ∨ q.state ∈ [HeadState.off, .idle, .resolving, .fault, .held]
    (idle ∨ q.progress ≠ .active → exec i s = .next s) ∧ (idle ∨ q.progress ≠ .holding → exec j s = .next s) ∧
    (∀ (due : Ticks) (e : PhaseEntry) (c : CycleRecord), q.timer = some due → q.progress = .active →
      (s.head h).cycle = some c → 1 ≤ q.planIndex → c.plan[q.planIndex - 1]? = some e →
      (e.kind ∈ [PhaseKind.pressurise, .additive, .fill] → e.continues = false → q.state = .running →
        q.sniftBegun = false → (∃ x ∈ c.plan, x.kind = .snift) →
        ∃ t : State, exec i s = .next t ∧ t.now = max s.now due ∧ (t.seq h).state = .forcedSnift ∧
          (t.seq h).flags = { q.flags with timeout := true } ∧ (t.seq h).progress = .active ∧
          (t.seq h).sniftBegun = true ∧ (t.seq h).equalised = false ∧ (t.valve h .snift).request = true ∧
          (∀ v ∈ [ValveId.gas, .fast, .slow, .add], (t.valve h v).request = false ∧ (t.valve h v).output = false) ∧
          ∀ m, (t.chan h m).state = .idle ∨ (t.chan h m).state = .ended) ∧
      (e.kind = .purge → q.state = .running → q.stepMode = true →
        ∃ t : State, exec i s = .next t ∧ t.now = max s.now due ∧ (t.seq h).state = .stepHold ∧
          (t.seq h).planIndex = q.planIndex ∧ (t.seq h).progress = .none ∧ (t.seq h).timer = none ∧
          (t.seq h).flags = q.flags ∧
          ∀ v ∈ [ValveId.gas, .snift], (t.valve h v).request = false ∧ (t.valve h v).output = false) ∧
      (e.kind = .rest → q.state = .running → q.stepMode = true →
        exec i s = .next
          ((s.advance due).modSeq h fun x => { x with state := .stepHold, progress := .none, timer := none })) ∧
      (let late := e.kind ∈ [PhaseKind.pressurise, .additive, .fill]
       let flags := if late then { q.flags with timeout := true } else q.flags
       let own : List ValveId :=
         match e.kind with
         | .purge => [.gas, .snift]
         | .additive => [.add]
         | .fill => [.fast, .slow]
         | _ => []
       let cuts := fun m : Meter => e.kind = (match m with | .main => PhaseKind.fill | .additive => .additive) ∧
         (s.chan h m).state = .dosing
       late ∧ e.continues = true ∨ e.kind = .purge ∨ e.kind = .rest → q.state = .running →
         ∃ u : State, exec i s = .next (goOn h u) ∧ u.now = max s.now due ∧
           u.seq h = { q with timer := none, flags := flags } ∧ (u.head h).cycle = some c ∧
           (∀ v, if v ∈ own then (u.valve h v).request = false ∧ (u.valve h v).output = false
             else u.valve h v = s.valve h v) ∧
           (∀ m, u.chan h m =
             if cuts m then
               { s.chan h m with
                 state := .settling, closeKind := .cut, closeVolume := some (s.chan h m).volume,
                 settleStart := some (max s.now due), lastPulse := none }
             else s.chan h m) ∧
           (q.stepMode = true → (goOn h u).seq h =
             { q with state := .stepHold, progress := .none, timer := none, flags := flags }) ∧
           (q.stepMode = false → ∀ n, c.plan[q.planIndex]? = some n →
             n.kind ∈ [PhaseKind.purge, .rest, .snift] ∨
               n.kind = .pressurise ∧ (s.head h).scan.fault = false ∧ s.scanner.bowl.fault = false →
             let x := (goOn h u).seq h
             x.state = .running ∧ x.planIndex = q.planIndex + 1 ∧ x.progress = .active ∧ x.flags = flags ∧
               x.timer = some (max s.now due + 10000 * n.timeLimit))) ∧
      (e.kind = .snift → (q.state = .running ∨ q.state = .forcedSnift) → ∀ n, c.plan[q.planIndex]? = some n →
        n.kind = .snift →
        ∃ t : State, exec i s = .next t ∧ t.now = max s.now due ∧ (t.seq h).state = q.state ∧
          (t.seq h).planIndex = q.planIndex + 1 ∧ (t.seq h).progress = .active ∧
          (t.seq h).timer = some (max s.now due + 10000 * n.timeLimit) ∧
          (t.seq h).flags = { q.flags with timeout := true } ∧ (t.seq h).sniftBegun = true ∧
          (t.valve h .snift).request = true)) ∧
    ∀ due : Ticks, q.timer = some due → q.progress = .holding →
      (q.state = .running → q.stepMode = true → exec j s = .next
        ((s.advance due).modSeq h fun x => { x with state := .stepHold, progress := .none, timer := none })) ∧
      ∀ (e : PhaseEntry) (c : CycleRecord), (q.state = .forcedSnift ∨ q.state = .running ∧ q.stepMode = false) →
        (s.head h).cycle = some c → c.plan[q.planIndex]? = some e → e.kind = .snift →
        ∃ t : State, exec j s = .next t ∧ t.now = max s.now due ∧ (t.seq h).state = q.state ∧
          (t.seq h).planIndex = q.planIndex + 1 ∧ (t.seq h).progress = .active ∧
          (t.seq h).timer = some (max s.now due + 10000 * e.timeLimit) ∧ (t.valve h .snift).request = true

/-- R99, R107, R126, R130, R131, R154 to R159, R163: the last SNIFT entry fails at its time limit, and the cycle ends. With
room for it the alarm stands ahead of the FILL record, which takes the place that was reserved for it and carries the
outcome, the flags, the volume and the error of the main channel; the totals of its recipe follow, and the head is in FAULT
with its cycle items clear. A channel that still doses or settles is frozen first. A head pressure that is absent counts as 0
(log 23). -/
def Obligations.FailedSniftEndsTheCycle : Prop :=
  ∀ (h : HeadId) (due : Ticks) (e : PhaseEntry) (c : CycleRecord) (x : QueueEntry) (s : State),
    let q := s.seq h
    q.timer = some due → q.progress = .active → (q.state = .running ∨ q.state = .forcedSnift) →
    (s.head h).cycle = some c → q.planIndex = c.plan.length → c.plan[q.planIndex - 1]? = some e → e.kind = .snift →
    q.entry = some x → (∀ v ∈ [ValveId.fast, .slow, .add], (s.valve h v).output = false) →
    s.orq.lost = false → 0 < s.orq.reservations → s.orq.records.length + s.orq.reservations < 48 →
    let frozen := fun m => (s.chan h m).state = .dosing ∨ (s.chan h m).state = .settling
    let final := fun m => if frozen m then (s.chan h m).volume else (s.chan h m).final
    let error := (final .main : Int) - (c.recipe.vMain : Int)
    let main := s.chan h .main
    let outcome : Nat :=
      if main.state = .idle ∨ main.closeKind = .none ∧ (frozen .main ∨ main.endKind = .frozen) then 3
      else if error < -(c.recipe.tolUnder : Int) then 1
      else if (c.recipe.tolOver : Int) < error then 2
      else 0
    let addErr := c.addCurve ≠ none ∧ (c.recipe.addTol : Int) < |(final .additive : Int) - (c.vAdd : Int)|
    let skipped := fun m => frozen m ∨ (s.chan h m).learn = .skipped
    let flags : CycleFlags :=
      { q.flags with
        timeout := true
        sniftIncomplete := true
        addErr := q.flags.addErr || decide addErr
        learnSkipped := q.flags.learnSkipped || decide (skipped .main ∨ skipped .additive) }
    let bit := fun (b : Bool) (n : Nat) => if b then n else 0
    let byte := bit flags.deadline 1 + 2 + bit flags.addErr 4 + bit flags.learnSkipped 8 + bit flags.ringLoss 32 + 64 +
      bit flags.stepMode 128
    ∃ t : State, exec (.phaseTimeLimitExpiry h) s = .next t ∧ t.now = max s.now due ∧
      t.orq =
        ⟨s.orq.records ++
          [⟨.alarm, BitVec.ofNat 8 h.val, s.pitch.sequence.elim 0#16 PitchSequence.serial, 255#8, 8#8, 0#8,
              BitVec.ofNat 32 ((s.head h).scan.value.getD 0), 0#24⟩,
            ⟨.fill, BitVec.ofNat 8 h.val, x.serial, BitVec.ofNat 8 x.recipe, BitVec.ofNat 8 outcome, BitVec.ofNat 8 byte,
              BitVec.ofNat 32 (final .main / 1000), BitVec.ofInt 24 (max (-8388607) (min 8388607 (error.tdiv 1000)))⟩],
          s.orq.reservations - 1, false⟩ ∧
      (∀ n : Fin 128, t.totals[n] =
        if n.val = x.recipe then
          let y := s.totals[n]
          let more := fun (k count : Nat) => if outcome = k then min 4294967295 (count + 1) else count
          ⟨more 0 y.goodCount, more 1 y.underCount, more 2 y.overCount, more 3 y.unservedCount,
            min 281474976710655 (y.volumeSum + final .main / 1000)⟩
        else s.totals[n]) ∧
      (t.seq h).state = .fault ∧ (t.seq h).entry = none ∧ (t.seq h).planIndex = 0 ∧ (t.seq h).progress = .none ∧
      (t.seq h).timer = none ∧ (t.seq h).reserved = false ∧ (t.seq h).equalised = false ∧ (t.seq h).sniftBegun = false ∧
      (t.seq h).stepMode = false ∧ (t.seq h).flags = flags ∧ (t.valve h .snift).request = false ∧
      (t.valve h .snift).output = false ∧ (t.head h).lastAdditive = final .additive ∧
      (∀ k, k ≠ h → t.head k = s.head k) ∧ t.counters = s.counters

/-! ### Conversions, meters, valves and containers -/

/-- R134, R137 to R139, R142: a conversion completes 25 µs after its start. Its reading is judged against the channel's sensor
fault, a forced reading being taken as 0 counts, and becomes the last raw reading; a fault that it sets is recorded where there
is room, ahead of its count (log 29), and counted. The bowl follows for a pending request, and otherwise the first enabled
channel after the pointer in cyclic order. With no conversion in flight, as while RESET is held, nothing happens (log 2, log 5).
R95, R99, R102, R140, R141: a sound head conversion counts for the condition of the entry in progress, and any other empties
its count. When PRESSURISE holds, the equalised flag is set and the cycle goes on, or holds in step mode; when SNIFT holds,
SNIFT closes and the hold or the cycle end follows; a burst counts only with the equalised flag set (R89, log 38), and a
confirmed one is recorded and counted and forces the snift with fault pending. A new sensor fault ends an ACTIVE PRESSURISE
entry: with ABORT its snift is forced and no flag is set.
R167, R168: a RUNNING descriptor of the channel stores the value of its signal at each divider-th tick, the rate of an IDLE
channel being the one held from its last dose (log 34), and is DONE at its length; a linked B that waits then starts. -/
def Obligations.ConversionIsJudgedAndFollowed : Prop :=
  ∀ (raw : BitVec 12) (s : State),
    (s.scanner.conversion.started = none → exec (.conversionComplete raw) s = .next s) ∧
    ∀ start : Ticks, s.scanner.conversion.started = some start →
      ∃ t : State, exec (.conversionComplete raw) s = .next t ∧ t.now = max s.now (start + 250) ∧
        (let judged := fun (x y : ScanChannel) (r : BitVec 12) (offset gain : Nat) =>
           let p := min 16000 (if r.toNat < offset then 0 else (r.toNat - offset) * gain / 4095)
           let rail := r = 0#12 ∨ r = 4095#12
           y.raw = some r ∧
             (x.fault = false → ¬rail → y.value = some p ∧ y.fault = false ∧ y.runCount = 0) ∧
             (x.fault = false → rail → y.value = x.value ∧
               if x.runCount = 0 then y.fault = false ∧ y.runCount = 1 else y.fault = true ∧ y.runCount = 0) ∧
             (x.fault = true → rail → y.value = x.value ∧ y.fault = true ∧ y.runCount = 0) ∧
             (x.fault = true → ¬rail →
               if x.runCount = 0 then y.value = x.value ∧ y.fault = true ∧ y.runCount = 1
               else y.value = some p ∧ y.fault = false ∧ y.runCount = 0)
         (s.scanner.conversion.channel = .bowl →
           judged s.scanner.bowl t.scanner.bowl raw s.settings.bowlOffset s.settings.bowlGain ∧
             ∀ h : HeadId, (t.head h).scan = (s.head h).scan) ∧
         ∀ h : HeadId, s.scanner.conversion.channel = .head h →
           judged (s.head h).scan (t.head h).scan (if (s.head h).forced = 0 then raw else 0#12)
               (s.head h).table.offset (s.head h).table.gain ∧
             (t.head h).forced = (s.head h).forced - 1 ∧ t.scanner.bowl = s.scanner.bowl) ∧
        t.scanner.conversion.started = some (max s.now (start + 250)) ∧ t.scanner.request = false ∧
        (s.scanner.request = true →
          t.scanner.conversion.channel = .bowl ∧ t.scanner.conversion.byRequest = true ∧
            t.scanner.pointer = s.scanner.pointer) ∧
        (s.scanner.request = false →
          let c := t.scanner.conversion.channel
          let ahead := fun x : ScanId => (x.place + 8 - s.scanner.pointer.place) % 9
          t.scanner.conversion.byRequest = false ∧ t.scanner.pointer = c ∧
            (c = .bowl ∨ ∃ h : HeadId, c = .head h ∧ (s.seq h).state ≠ .off) ∧ ahead c ≤ ahead .bowl ∧
            ∀ h : HeadId, (s.seq h).state ≠ .off → ahead c ≤ ahead (.head h)) ∧
        (let plan := fun h : HeadId => (s.head h).cycle.elim [] CycleRecord.plan
         let entry := fun h : HeadId => if (s.seq h).planIndex = 0 then none else (plan h)[(s.seq h).planIndex - 1]?
         let rail := fun r : BitVec 12 => r = 0#12 ∨ r = 4095#12
         let sets := fun (x : ScanChannel) (r : BitVec 12) => x.fault = false ∧ rail r ∧ x.runCount ≠ 0
         let alarm := fun (code head : Byte) (a b : Nat) =>
           (⟨.alarm, head, s.pitch.sequence.elim 0#16 PitchSequence.serial, 255#8, code, 0#8, BitVec.ofNat 32 a,
             BitVec.ofNat 24 b⟩ : Record)
         let recorded := fun r : Record =>
           s.orq.lost = false → s.orq.records.length + s.orq.reservations < 48 →
             ∃ l, t.orq.records = s.orq.records ++ r :: l
         let snifts := fun h : HeadId =>
           (s.seq h).state = .running → (s.seq h).sniftBegun = false → (∃ e ∈ plan h, e.kind = .snift) →
             (t.seq h).state = .forcedSnift ∧ (t.seq h).flags = (s.seq h).flags ∧ (t.seq h).progress = .active ∧
               (t.seq h).equalised = false ∧ (t.valve h .snift).request = true ∧
               ∀ v ∈ [ValveId.gas, .fast, .slow, .add], (t.valve h v).request = false ∧ (t.valve h v).output = false
         let breaks := fun h : HeadId => (s.seq h).state = .running ∧ (s.seq h).progress = .active ∧
           ∃ e, entry h = some e ∧ e.kind = .pressurise
         let now := max s.now (start + 250)
         (s.scanner.conversion.channel = .bowl →
           (sets s.scanner.bowl raw →
             t.counter .sensorFaults = s.counter .sensorFaults + 1#16 ∧
               recorded (alarm 6#8 255#8 raw.toNat (s.scanner.bowl.value.getD 0)) ∧
               ∀ h : HeadId, (¬breaks h → t.head h = s.head h) ∧
                 (breaks h → (∀ e, entry h = some e → e.continues = false) → snifts h)) ∧
           (¬sets s.scanner.bowl raw → t.heads = s.heads ∧ t.orq = s.orq ∧ t.counters = s.counters)) ∧
         (∀ h : HeadId, s.scanner.conversion.channel = .head h →
           let r := if (s.head h).forced = 0 then raw else 0#12
           let x := (s.head h).scan
           let q := s.seq h
           let p := (t.head h).scan.value.getD 0
           let b := s.scanner.bowl.value.getD 0
           let sound := ¬rail r ∧ (x.fault = true → x.runCount ≠ 0) ∧ s.scanner.bowl.fault = false ∧
             s.scanner.bowl.value ≠ none
           (∀ k : HeadId, k ≠ h → t.head k = s.head k) ∧
           (sets x r →
             t.counter .sensorFaults = s.counter .sensorFaults + 1#16 ∧
               recorded (alarm 5#8 (BitVec.ofNat 8 h.val) r.toNat (x.value.getD 0)) ∧
               (breaks h → (∀ e, entry h = some e → e.continues = false) → snifts h)) ∧
           (¬sets x r → t.counter .sensorFaults = s.counter .sensorFaults) ∧
           ((q.state ≠ .running ∧ q.state ≠ .forcedSnift) ∨ entry h = none → t.seq h = q) ∧
           ∀ e : PhaseEntry, q.state = .running ∨ q.state = .forcedSnift → entry h = some e →
             (e.kind = .purge → t.seq h = q) ∧
             (e.kind = .pressurise → q.progress = .active → ¬sets x r →
               let met := sound ∧ b - e.pressure ≤ p
               (¬met → t.seq h = { q with condCount := 0 }) ∧
               (met → q.condCount + 1 < e.debounce → t.seq h = { q with condCount := q.condCount + 1 }) ∧
               (met → e.debounce ≤ q.condCount + 1 →
                 (q.stepMode = true → q.state = .running → t.seq h =
                   { q with
                     equalised := true, condCount := q.condCount + 1, state := .stepHold, progress := .none, timer := none }) ∧
                 ∀ n : PhaseEntry, (q.stepMode = false ∨ q.state ≠ .running) → (plan h)[q.planIndex]? = some n →
                   (n.kind = .rest → (t.seq h).equalised = true ∧ (t.seq h).planIndex = q.planIndex + 1 ∧
                     (t.seq h).progress = .active ∧ (t.seq h).timer = some (now + 10000 * n.timeLimit)) ∧
                   (n.kind = .fill →
                     (s.head h).table.learned.main < (s.head h).cycle.elim 0 (fun c => c.recipe.vMain) →
                     (s.valve h .slow).request = false → (s.valve h .snift).output = false →
                     (t.seq h).equalised = true ∧ (t.valve h .slow).output = true))) ∧
             (e.kind = .snift → q.progress = .active →
               let met := sound ∧ p ≤ e.pressure
               (¬met → t.seq h = { q with condCount := 0 }) ∧
               (met → q.condCount + 1 < e.debounce → t.seq h = { q with condCount := q.condCount + 1 }) ∧
               (met → e.debounce ≤ q.condCount + 1 →
                 (q.planIndex < (plan h).length → 0 < e.hold →
                   (t.valve h .snift).request = false ∧ (t.valve h .snift).output = false ∧ t.seq h =
                     { q with
                       condCount := q.condCount + 1, progress := .holding, timer := some (now + 10000 * e.hold) }) ∧
                 ((plan h).length ≤ q.planIndex →
                   (t.valve h .snift).request = false ∧ (t.valve h .snift).output = false ∧
                     (t.seq h).entry = none ∧ (t.seq h).planIndex = 0 ∧ (t.seq h).equalised = false ∧
                     (t.seq h).state =
                       (if q.faultPending = true then .fault
                        else if s.ring.state = .locked ∨ s.ring.state = .holdover then .idle else .held) ∧
                     (0 < s.orq.reservations → ∃ y ∈ t.orq.records, y.kind = .fill ∧ y.head = BitVec.ofNat 8 h.val)))) ∧
             (e.kind ∈ [PhaseKind.additive, .fill, .rest] → q.progress = .active ∨ q.progress = .settling →
               ∀ c : CycleRecord, (s.head h).cycle = some c →
               let met := sound ∧ q.equalised = true ∧ p < b - c.recipe.burstDelta
               (¬met → t.seq h = { q with burstCount := 0 }) ∧
               (met → q.burstCount + 1 < c.recipe.burstDebounce → t.seq h = { q with burstCount := q.burstCount + 1 }) ∧
               (met → c.recipe.burstDebounce ≤ q.burstCount + 1 →
                 t.counter .bursts = s.counter .bursts + 1#16 ∧ (t.seq h).faultPending = true ∧
                   recorded (alarm 7#8 (BitVec.ofNat 8 h.val) p b) ∧ snifts h))) ∧
         ∀ isB : Bool,
           let d := s.trace.get isB
           let place := if d.signal = .bowlPressure then ScanId.bowl else .head d.head
           let stands := fun c : Channel => if c.state = .idle then c.heldRate else c.rate
           let sample : Nat :=
             match d.signal with
             | .mainRate => stands (t.chan d.head .main)
             | .addRate => stands (t.chan d.head .additive)
             | .headPressure => (t.head d.head).scan.value.getD 0
             | .bowlPressure => t.scanner.bowl.value.getD 0
           let takes := fun y : Descriptor => y.state = .running ∧
             s.scanner.conversion.channel = if y.signal = .bowlPressure then ScanId.bowl else .head y.head
           let a := s.trace.a
           (d.state = .running → s.scanner.conversion.channel ≠ place → t.trace.get isB = d) ∧
           (takes d → d.ticks + 1 < d.divider → t.trace.get isB = { d with ticks := d.ticks + 1 }) ∧
           (∀ k : Fin 512, takes d → d.divider ≤ d.ticks + 1 → d.samples = k.val → t.trace.get isB =
             { d with
               ticks := 0
               buffer := d.buffer.set k.val (BitVec.ofNat 16 sample) k.isLt
               samples := d.samples + 1
               state := if d.length ≤ d.samples + 1 then .done else .running }) ∧
           (isB = true → d.state = .armed → d.link = true → takes a → a.divider ≤ a.ticks + 1 → a.length ≤ a.samples + 1 →
             t.trace.get isB = { d with state := .running, ticks := 0, samples := 0 }))

/-- R117 to R123: a pulse. In IDLE and ENDED it is a stray pulse and changes nothing else. In DOSING and SETTLING it makes
the rate, smoothing, linearisation and volume steps on the full integers; in SETTLING it restarts the settle window, and in
DOSING the cutoff test and the band test follow. The timestamp is taken from the model's one time (log 1). While RESET is
held no pulse is taken (log 5). -/
def Obligations.PulseAddsItsVolume : Prop :=
  ∀ (time : Ticks) (h : HeadId) (m : Meter) (s : State),
    let c := s.chan h m
    let i := Instr.meterPulse time h m
    let now := max s.now time
    let stamp : Word := BitVec.ofNat 32 now
    (s.resetHeld = true → exec i s = .next { s with now := now }) ∧
    (s.resetHeld = false → (c.state = .idle ∨ c.state = .ended) → exec i s = .next
      ((s.modHead h fun x => { x with stray := min 65535 (x.stray + 1) }).advance time)) ∧
    ∀ y : CycleRecord, s.resetHeld = false → (c.state = .dosing ∨ c.state = .settling) → (s.head h).cycle = some y →
      let w := (s.head h).table.weight.get m
      let rate : Nat :=
        match c.prevStamp with
        | none => c.rate
        | some p =>
          let d := (stamp - p).toNat
          let r := if d = 0 then 65535 else if d ≤ 16777215 then min 65535 (100 * w / d) else 0
          if c.pulses ≤ 1 then r else ((c.rate : Int) + ((r : Int) - (c.rate : Int)) / (2 : Int) ^ y.recipe.smoothing).toNat
      let curve := match m with | .main => y.mainCurve | .additive => y.addCurve.getD []
      let factor : Int := match m with | .main => y.recipe.factor | .additive => 0
      let n := ((w : Int) * (1000000 + max (-50000) (min 50000 (curveAt rate curve + factor))) + (c.rem : Int)).toNat
      let full := 4294967295 < c.volume + n / 1000000 ∨ 4294967295 ≤ c.volume
      let v := if full then 4294967295 else c.volume + n / 1000000
      ∃ t : State, exec i s = .next t ∧ t.now = now ∧ (t.chan h m).volume = v ∧
        (t.chan h m).rem = (if full then c.rem else n % 1000000) ∧ (t.chan h m).rate = rate ∧
        (t.chan h m).prevStamp = some stamp ∧ (t.chan h m).pulses = min 4294967295 (c.pulses + 1) ∧
        (c.state = .settling → (t.chan h m).state = .settling ∧ (t.chan h m).lastPulse = some now) ∧
        (c.state = .dosing → c.target ≤ v + (s.head h).table.learned.get m →
          (t.chan h m).state = .settling ∧ (t.chan h m).closeKind = .cutoff ∧ (t.chan h m).closeVolume = some v ∧
            (t.chan h m).settleStart = some now ∧ (t.seq h).progress = .settling ∧ (t.seq h).timer = none ∧
            ∀ x, (m = .main → x = ValveId.fast ∨ x = .slow) → (m = .additive → x = .add) →
              (t.valve h x).request = false ∧ (t.valve h x).output = false) ∧
        (c.state = .dosing → v + (s.head h).table.learned.get m < c.target → (t.chan h m).state = .dosing ∧
          (m = .main →
            if y.recipe.startBand ≤ v ∧ v < y.recipe.vMain - y.recipe.slowBand then (t.valve h .fast).request = true
            else (t.valve h .fast).request = false ∧ (t.valve h .fast).output = false))

/-- R119: the correction of a curve with strictly increasing rates. At or below its first point it is the first correction,
at or above its last the last, and between two neighbours their interpolation, truncated toward zero. -/
def Obligations.CurveIsInterpolated : Prop :=
  ∀ (ps : List CurvePoint) (rate : Nat), ratesRise ps = true →
    (∀ p ∈ ps.head?, rate ≤ p.rate → curveAt rate ps = p.corr) ∧
    (∀ p ∈ ps.getLast?, p.rate ≤ rate → curveAt rate ps = p.corr) ∧
    ∀ (k : Nat) (p r : CurvePoint), ps[k]? = some p → ps[k + 1]? = some r → p.rate ≤ rate → rate < r.rate →
      curveAt rate ps =
        p.corr + ((r.corr - p.corr) * ((rate : Int) - (p.rate : Int))).tdiv ((r.rate : Int) - (p.rate : Int))

/-- R125, R127, R128: the settle of a channel ends by its window or its limit, whichever comes first. Its volume becomes
final; a dose that reached its cutoff and settled by its window learns its afterflow when that is plausible, and every other
is skipped. An afterflow beyond four times the maximum raises ALARM AFTERFLOW_IMPLAUSIBLE where there is room. The ADDITIVE or
FILL entry that settles with the channel is over, and the next entry begins, or in step mode the head holds; in any other
case the report ends no entry and moves no valve. With none of the two due nothing happens (log 3). The premise on the plan
holds by R81: no later entry doses with the same meter. -/
def Obligations.SettleEndsAndLearns : Prop :=
  ∀ (h : HeadId) (m : Meter) (s : State),
    let c := s.chan h m
    let y := fun f : Recipe → Nat => (s.head h).cycle.elim 0 fun z => f z.recipe
    let start := c.settleStart.getD 0
    let window := max start (c.lastPulse.getD 0) + 10000 * y Recipe.settleWindow
    let limit := start + 10000 * y Recipe.settleLimit
    (c.state ≠ .settling →
      exec (.settleWindowExpiry h m) s = .next s ∧ exec (.settleLimitExpiry h m) s = .next s) ∧
    let q := s.seq h
    let plan := (s.head h).cycle.elim [] CycleRecord.plan
    let entryOf : Meter → PhaseKind := fun m => match m with | .main => .fill | .additive => .additive
    let settles := q.state = .running ∧ q.progress = .settling ∧ 1 ≤ q.planIndex ∧
      ∃ e, plan[q.planIndex - 1]? = some e ∧ e.kind = entryOf m
    let goesOn := fun t : State =>
      (¬settles → t.seq h = q ∧ (t.head h).valves = (s.head h).valves) ∧
      (settles → q.stepMode = true →
        t.seq h = { q with state := .stepHold, progress := .none, timer := none } ∧
          (t.head h).valves = (s.head h).valves) ∧
      (settles → ∃ u : State, t = goOn h u ∧ u.now = t.now ∧ u.seq h = q ∧ (u.head h).valves = (s.head h).valves ∧
        (u.head h).cycle = (s.head h).cycle) ∧
      (settles → q.stepMode = false → ∀ n, plan[q.planIndex]? = some n →
        n.kind ∈ [PhaseKind.purge, .rest, .snift, .fill] ∨
          n.kind = .pressurise ∧ (s.head h).scan.fault = false ∧ s.scanner.bowl.fault = false →
        (t.seq h).state = .running ∧ (t.seq h).planIndex = q.planIndex + 1 ∧
          (n.kind ≠ .fill → (t.seq h).progress = .active ∧ (t.seq h).timer = some (t.now + 10000 * n.timeLimit)))
    (c.state = .settling →
      (limit < window → exec (.settleWindowExpiry h m) s = .next s) ∧
      (window < limit → exec (.settleLimitExpiry h m) s = .next s) ∧
      ((∀ e ∈ plan.drop q.planIndex, e.kind ≠ entryOf m) →
        let maxA := (s.head h).table.afterflowMax.get m
        let a := (s.head h).table.learned.get m
        let actual := c.volume - c.closeVolume.getD 0
        (window ≤ limit → ∃ t : State, exec (.settleWindowExpiry h m) s = .next t ∧ t.now = max s.now window ∧
          (t.chan h m).state = .ended ∧ (t.chan h m).final = c.volume ∧ (t.chan h m).endKind = .window ∧
          (let learns := c.closeKind = .cutoff ∧ actual ≤ 4 * maxA
           (t.chan h m).learn = (if learns then .learned else .skipped) ∧
             (t.head h).table.learned.get m =
               if learns then
                 (max 0 (min (maxA : Int)
                   ((a : Int) + ((actual : Int) - (a : Int)).tdiv ((2 : Int) ^ y Recipe.gain)))).toNat
               else a) ∧
          goesOn t ∧
          (let alarm : Record :=
             ⟨.alarm, BitVec.ofNat 8 h.val, s.pitch.sequence.elim 0#16 PitchSequence.serial, 255#8, 10#8, 0#8,
               BitVec.ofNat 32 actual, match m with | .main => 0#24 | .additive => 1#24⟩
           (c.closeKind = .cutoff → 4 * maxA < actual → s.orq.lost = false →
             s.orq.records.length + s.orq.reservations < 48 →
             (∃ l, t.orq.records = s.orq.records ++ alarm :: l) ∧
               (¬settles ∨ q.stepMode = true → t.orq = { s.orq with records := s.orq.records ++ [alarm] })) ∧
           (c.closeKind ≠ .cutoff ∨ actual ≤ 4 * maxA → ¬settles ∨ q.stepMode = true → t.orq = s.orq))) ∧
        (limit ≤ window → ∃ t : State, exec (.settleLimitExpiry h m) s = .next t ∧ t.now = max s.now limit ∧
          (t.chan h m).state = .ended ∧ (t.chan h m).final = c.volume ∧ (t.chan h m).endKind = .limit ∧
          (t.chan h m).learn = .skipped ∧ (t.head h).table.learned.get m = a ∧ goesOn t ∧
          (¬settles ∨ q.stepMode = true → t.orq = s.orq))))

/-- R147, R149, R151: a feedback input. A change to another level becomes the candidate, and is followed at once when the
debounce time is 0; a candidate that has held becomes the feedback level. A level that agrees with the output makes the valve
IDLE; one that differs leaves a STROKING or FAULTED valve as it is, and is a drift of an IDLE valve: FAULTED, and counted.
R106: the drift of a product valve in an active cycle sets fault pending and takes the head to FORCED_SNIFT, its channels
frozen, also once the snift has begun (log 15); in FORCED_SNIFT the snift goes on. While RESET is held only the pin is
followed (log 5). -/
def Obligations.FeedbackIsDebouncedAndJudged : Prop :=
  ∀ (time : Ticks) (h : HeadId) (v : ValveId) (active : Bool) (s : State),
    let x := s.valve h v
    let change := Instr.feedbackInputChange time h v active
    let level := if x.candidate.level then Feedback.opened else .closed
    let due := x.candidate.since + 10000 * s.settings.feedback
    (s.resetHeld = true →
      exec change s = .next ((s.modValve h v fun y => { y with pin := active }).advance time) ∧
        exec (.feedbackDebounceExpiry h v) s = .next s) ∧
    (s.resetHeld = false → x.candidate.level = active →
      exec change s = .next ((s.modValve h v fun y => { y with pin := active }).advance time)) ∧
    (s.resetHeld = false → x.candidate.level ≠ active → 0 < s.settings.feedback →
      exec change s = .next
        ((s.modValve h v fun y => { y with pin := active, candidate := ⟨active, max s.now time⟩ }).advance time)) ∧
    (s.resetHeld = false → x.candidate.level ≠ active → s.settings.feedback = 0 →
      exec change s = exec (.feedbackDebounceExpiry h v)
        ((s.modValve h v fun y => { y with pin := active, candidate := ⟨active, max s.now time⟩ }).advance time)) ∧
    (s.resetHeld = false → x.feedback = level → exec (.feedbackDebounceExpiry h v) s = .next s) ∧
    (s.resetHeld = false → x.feedback ≠ level → x.output = x.candidate.level →
      exec (.feedbackDebounceExpiry h v) s = .next
        ((s.modValve h v fun y => { y with feedback := level, supervision := .idle, expiry := none }).advance due)) ∧
    (s.resetHeld = false → x.feedback ≠ level → x.output ≠ x.candidate.level → x.supervision ≠ .idle →
      exec (.feedbackDebounceExpiry h v) s = .next ((s.modValve h v fun y => { y with feedback := level }).advance due)) ∧
    (s.resetHeld = false → x.feedback ≠ level → x.output ≠ x.candidate.level → x.supervision = .idle →
      (v = .gas ∨ v = .snift ∨ (s.seq h).state ∉ [HeadState.running, .forcedSnift, .stepHold]) →
      ∃ t : State, exec (.feedbackDebounceExpiry h v) s = .next t ∧ t.now = max s.now due ∧
        t.valve h v = { x with feedback := level, supervision := .faulted } ∧ t.seq h = s.seq h ∧
        t.counter .valveFaults = s.counter .valveFaults + 1#16) ∧
    (s.resetHeld = false → x.feedback ≠ level → x.output ≠ x.candidate.level → x.supervision = .idle →
      v ∈ [ValveId.fast, .slow, .add] → (s.seq h).state ∈ [HeadState.running, .forcedSnift, .stepHold] →
      ∃ t : State, exec (.feedbackDebounceExpiry h v) s = .next t ∧ t.now = max s.now due ∧
        t.counter .valveFaults = s.counter .valveFaults + 1#16 ∧ (t.seq h).state = .forcedSnift ∧
        (t.seq h).faultPending = true ∧
        ((s.seq h).state = .forcedSnift → t.seq h = { s.seq h with faultPending := true }) ∧
        ((s.seq h).state ≠ .forcedSnift → ∀ m, (t.chan h m).state = .idle ∨ (t.chan h m).state = .ended))

/-- R150, R151, R106: the stroke of a valve expires. The valve is FAULTED and the fault is counted: VALVE_NO_OPEN when it is
commanded OPEN, VALVE_STUCK_OPEN when it is commanded CLOSED, with the stroke time of the head table (log 31). A product
valve that sticks open ends an active cycle in FAULT with every valve closed; one that does not open forces the snift of a
RUNNING cycle with fault pending. With no stroke running nothing happens (log 2). R157, R161: where no cycle takes the fault,
its alarm enters while there is room, with RECORD_LOST_BEFORE and the lost flag clear again when the flag was set; without
room it is lost, which sets the flag and counts RECORDS_LOST, 1 when that wraps. A count at 65,535 becomes 0 and raises ALARM
COUNTER_WRAP behind the alarm, or loses it. -/
def Obligations.StrokeExpiryReportsTheFault : Prop :=
  ∀ (h : HeadId) (v : ValveId) (s : State),
    let x := s.valve h v
    let q := s.seq h
    let i := Instr.strokeExpiry h v
    (x.supervision ≠ .stroking ∨ x.expiry = none → exec i s = .next s) ∧
    ∀ due : Ticks, x.supervision = .stroking → x.expiry = some due →
      ∃ t : State, exec i s = .next t ∧ t.now = max s.now due ∧
        t.counter .valveFaults = s.counter .valveFaults + 1#16 ∧
        (v = .gas ∨ v = .snift ∨ q.state ∉ [HeadState.running, .forcedSnift, .stepHold] →
          t.valve h v = { x with supervision := .faulted, expiry := none } ∧ t.seq h = q ∧
            (let serial := s.pitch.sequence.elim 0#16 PitchSequence.serial
             let alarm : Record :=
               ⟨.alarm, BitVec.ofNat 8 h.val, serial, 255#8, if x.output then 2#8 else 1#8,
                 if s.orq.lost then 16#8 else 0#8, BitVec.ofNat 32 (valveCode v),
                 BitVec.ofNat 24 ((s.head h).table.strokes.get v)⟩
             let wrap : Record := ⟨.alarm, 255#8, serial, 255#8, 12#8, 0#8, 5#32, 0#24⟩
             let wraps := s.counter .valveFaults = 65535#16
             let places := s.orq.records.length + s.orq.reservations
             let lost := s.counter .recordsLost
             (places < 48 → ¬wraps →
               t.orq = ⟨s.orq.records ++ [alarm], s.orq.reservations, false⟩ ∧ t.counter .recordsLost = lost) ∧
             (places < 47 → wraps →
               t.orq = ⟨s.orq.records ++ [alarm, wrap], s.orq.reservations, false⟩ ∧ t.counter .recordsLost = lost) ∧
             (places = 47 → wraps →
               t.orq = ⟨s.orq.records ++ [alarm], s.orq.reservations, true⟩ ∧
                 t.counter .recordsLost = if lost = 65535#16 then 1#16 else lost + 1#16) ∧
             (48 ≤ places →
               t.orq = { s.orq with lost := true } ∧
                 (¬wraps → t.counter .recordsLost = if lost = 65535#16 then 1#16 else lost + 1#16) ∧
                 (wraps → t.counter .recordsLost =
                   if lost = 65535#16 then 2#16 else if lost = 65534#16 then 1#16 else lost + 2#16)))) ∧
        (v ∈ [ValveId.fast, .slow, .add] → x.output = false → q.state ∈ [HeadState.running, .forcedSnift, .stepHold] →
          (t.seq h).state = .fault ∧ (t.seq h).entry = none ∧ (t.seq h).equalised = false ∧
            ∀ y, (t.valve h y).request = false ∧ (t.valve h y).output = false) ∧
        (v ∈ [ValveId.fast, .slow, .add] → x.output = true → q.state = .running →
          (t.seq h).state = .forcedSnift ∧ (t.seq h).faultPending = true ∧
            (q.sniftBegun = false → (t.seq h).equalised = false ∧
              ∀ y ∈ [ValveId.gas, .fast, .slow, .add], (t.valve h y).request = false ∧ (t.valve h y).output = false))

/-- R143: a container-present input. A change to another level becomes the candidate, and is taken at once when the debounce
time is 0; a candidate that has held is taken, PRESENT when the input is active. While RESET is held only the pin is followed
(log 5). -/
def Obligations.ContainerLevelIsDebounced : Prop :=
  ∀ (time : Ticks) (h : HeadId) (active : Bool) (s : State),
    let x := s.head h
    let change := Instr.containerPresentChange time h active
    let expiry := Instr.containerDebounceExpiry h
    let level := if x.presenceCandidate.level then Presence.present else .absent
    (s.resetHeld = true →
      exec change s = .next ((s.modHead h fun y => { y with presentPin := active }).advance time) ∧
        exec expiry s = .next s) ∧
    (s.resetHeld = false →
      exec change s = .next
        ((s.modHead h fun y =>
          { y with
            presentPin := active
            presenceCandidate := if x.presenceCandidate.level = active then x.presenceCandidate else ⟨active, max s.now time⟩
            presence :=
              if x.presenceCandidate.level ≠ active ∧ s.settings.presence = 0 then (if active then .present else .absent)
              else x.presence }).advance time) ∧
      exec expiry s = .next
        (if x.presence = level then s
         else
           (s.modHead h fun y => { y with presence := level }).advance
             (x.presenceCandidate.since + 10000 * s.settings.presence)))
end

