-- ==== Sys2Proof/Laws/State.lean ====
section
/-! SUPPORT. What each named update of the state changes and what it leaves: one lemma for each field and update, true by
rfl, so that no proof unfolds a record update; and the read-after-write lemmas of heads, valves, channels, segments and
counters. -/

namespace Sys2Proof.Machine

variable (s : State)

/-! ### Fields that an update leaves -/

@[simp] theorem advance_pending (t : Ticks) : (s.advance t).pending = s.pending := rfl
@[simp] theorem advance_resetHeld (t : Ticks) : (s.advance t).resetHeld = s.resetHeld := rfl
@[simp] theorem advance_selfTest (t : Ticks) : (s.advance t).selfTest = s.selfTest := rfl
@[simp] theorem advance_resetScheduled (t : Ticks) : (s.advance t).resetScheduled = s.resetScheduled := rfl
@[simp] theorem advance_ring (t : Ticks) : (s.advance t).ring = s.ring := rfl
@[simp] theorem advance_pitch (t : Ticks) : (s.advance t).pitch = s.pitch := rfl
@[simp] theorem advance_queue (t : Ticks) : (s.advance t).queue = s.queue := rfl
@[simp] theorem advance_tables (t : Ticks) : (s.advance t).tables = s.tables := rfl
@[simp] theorem advance_directory (t : Ticks) : (s.advance t).directory = s.directory := rfl
@[simp] theorem advance_settings (t : Ticks) : (s.advance t).settings = s.settings := rfl
@[simp] theorem advance_resolver (t : Ticks) : (s.advance t).resolver = s.resolver := rfl
@[simp] theorem advance_heads (t : Ticks) : (s.advance t).heads = s.heads := rfl
@[simp] theorem advance_scanner (t : Ticks) : (s.advance t).scanner = s.scanner := rfl
@[simp] theorem advance_orq (t : Ticks) : (s.advance t).orq = s.orq := rfl
@[simp] theorem advance_counters (t : Ticks) : (s.advance t).counters = s.counters := rfl
@[simp] theorem advance_totals (t : Ticks) : (s.advance t).totals = s.totals := rfl
@[simp] theorem advance_trace (t : Ticks) : (s.advance t).trace = s.trace := rfl
@[simp] theorem advance_frameOut (t : Ticks) : (s.advance t).frameOut = s.frameOut := rfl
@[simp] theorem advance_assignOut (t : Ticks) : (s.advance t).assignOut = s.assignOut := rfl
@[simp] theorem advance_mgmtOut (t : Ticks) : (s.advance t).mgmtOut = s.mgmtOut := rfl

@[simp] theorem modHead_pending (h : HeadId) (f : Head → Head) : (s.modHead h f).pending = s.pending := rfl
@[simp] theorem modHead_now (h : HeadId) (f : Head → Head) : (s.modHead h f).now = s.now := rfl
@[simp] theorem modHead_resetHeld (h : HeadId) (f : Head → Head) : (s.modHead h f).resetHeld = s.resetHeld := rfl
@[simp] theorem modHead_selfTest (h : HeadId) (f : Head → Head) : (s.modHead h f).selfTest = s.selfTest := rfl
@[simp] theorem modHead_resetScheduled (h : HeadId) (f : Head → Head) : (s.modHead h f).resetScheduled = s.resetScheduled := rfl
@[simp] theorem modHead_ring (h : HeadId) (f : Head → Head) : (s.modHead h f).ring = s.ring := rfl
@[simp] theorem modHead_pitch (h : HeadId) (f : Head → Head) : (s.modHead h f).pitch = s.pitch := rfl
@[simp] theorem modHead_queue (h : HeadId) (f : Head → Head) : (s.modHead h f).queue = s.queue := rfl
@[simp] theorem modHead_tables (h : HeadId) (f : Head → Head) : (s.modHead h f).tables = s.tables := rfl
@[simp] theorem modHead_directory (h : HeadId) (f : Head → Head) : (s.modHead h f).directory = s.directory := rfl
@[simp] theorem modHead_settings (h : HeadId) (f : Head → Head) : (s.modHead h f).settings = s.settings := rfl
@[simp] theorem modHead_resolver (h : HeadId) (f : Head → Head) : (s.modHead h f).resolver = s.resolver := rfl
@[simp] theorem modHead_scanner (h : HeadId) (f : Head → Head) : (s.modHead h f).scanner = s.scanner := rfl
@[simp] theorem modHead_orq (h : HeadId) (f : Head → Head) : (s.modHead h f).orq = s.orq := rfl
@[simp] theorem modHead_counters (h : HeadId) (f : Head → Head) : (s.modHead h f).counters = s.counters := rfl
@[simp] theorem modHead_totals (h : HeadId) (f : Head → Head) : (s.modHead h f).totals = s.totals := rfl
@[simp] theorem modHead_trace (h : HeadId) (f : Head → Head) : (s.modHead h f).trace = s.trace := rfl
@[simp] theorem modHead_frameOut (h : HeadId) (f : Head → Head) : (s.modHead h f).frameOut = s.frameOut := rfl
@[simp] theorem modHead_assignOut (h : HeadId) (f : Head → Head) : (s.modHead h f).assignOut = s.assignOut := rfl
@[simp] theorem modHead_mgmtOut (h : HeadId) (f : Head → Head) : (s.modHead h f).mgmtOut = s.mgmtOut := rfl

@[simp] theorem modSeq_pending (h : HeadId) (f : Sequencer → Sequencer) : (s.modSeq h f).pending = s.pending := rfl
@[simp] theorem modSeq_now (h : HeadId) (f : Sequencer → Sequencer) : (s.modSeq h f).now = s.now := rfl
@[simp] theorem modSeq_resetHeld (h : HeadId) (f : Sequencer → Sequencer) : (s.modSeq h f).resetHeld = s.resetHeld := rfl
@[simp] theorem modSeq_selfTest (h : HeadId) (f : Sequencer → Sequencer) : (s.modSeq h f).selfTest = s.selfTest := rfl
@[simp] theorem modSeq_resetScheduled (h : HeadId) (f : Sequencer → Sequencer) : (s.modSeq h f).resetScheduled = s.resetScheduled := rfl
@[simp] theorem modSeq_ring (h : HeadId) (f : Sequencer → Sequencer) : (s.modSeq h f).ring = s.ring := rfl
@[simp] theorem modSeq_pitch (h : HeadId) (f : Sequencer → Sequencer) : (s.modSeq h f).pitch = s.pitch := rfl
@[simp] theorem modSeq_queue (h : HeadId) (f : Sequencer → Sequencer) : (s.modSeq h f).queue = s.queue := rfl
@[simp] theorem modSeq_tables (h : HeadId) (f : Sequencer → Sequencer) : (s.modSeq h f).tables = s.tables := rfl
@[simp] theorem modSeq_directory (h : HeadId) (f : Sequencer → Sequencer) : (s.modSeq h f).directory = s.directory := rfl
@[simp] theorem modSeq_settings (h : HeadId) (f : Sequencer → Sequencer) : (s.modSeq h f).settings = s.settings := rfl
@[simp] theorem modSeq_resolver (h : HeadId) (f : Sequencer → Sequencer) : (s.modSeq h f).resolver = s.resolver := rfl
@[simp] theorem modSeq_scanner (h : HeadId) (f : Sequencer → Sequencer) : (s.modSeq h f).scanner = s.scanner := rfl
@[simp] theorem modSeq_orq (h : HeadId) (f : Sequencer → Sequencer) : (s.modSeq h f).orq = s.orq := rfl
@[simp] theorem modSeq_counters (h : HeadId) (f : Sequencer → Sequencer) : (s.modSeq h f).counters = s.counters := rfl
@[simp] theorem modSeq_totals (h : HeadId) (f : Sequencer → Sequencer) : (s.modSeq h f).totals = s.totals := rfl
@[simp] theorem modSeq_trace (h : HeadId) (f : Sequencer → Sequencer) : (s.modSeq h f).trace = s.trace := rfl
@[simp] theorem modSeq_frameOut (h : HeadId) (f : Sequencer → Sequencer) : (s.modSeq h f).frameOut = s.frameOut := rfl
@[simp] theorem modSeq_assignOut (h : HeadId) (f : Sequencer → Sequencer) : (s.modSeq h f).assignOut = s.assignOut := rfl
@[simp] theorem modSeq_mgmtOut (h : HeadId) (f : Sequencer → Sequencer) : (s.modSeq h f).mgmtOut = s.mgmtOut := rfl

@[simp] theorem modFlags_pending (h : HeadId) (f : CycleFlags → CycleFlags) : (s.modFlags h f).pending = s.pending := rfl
@[simp] theorem modFlags_now (h : HeadId) (f : CycleFlags → CycleFlags) : (s.modFlags h f).now = s.now := rfl
@[simp] theorem modFlags_resetHeld (h : HeadId) (f : CycleFlags → CycleFlags) : (s.modFlags h f).resetHeld = s.resetHeld := rfl
@[simp] theorem modFlags_selfTest (h : HeadId) (f : CycleFlags → CycleFlags) : (s.modFlags h f).selfTest = s.selfTest := rfl
@[simp] theorem modFlags_resetScheduled (h : HeadId) (f : CycleFlags → CycleFlags) : (s.modFlags h f).resetScheduled = s.resetScheduled := rfl
@[simp] theorem modFlags_ring (h : HeadId) (f : CycleFlags → CycleFlags) : (s.modFlags h f).ring = s.ring := rfl
@[simp] theorem modFlags_pitch (h : HeadId) (f : CycleFlags → CycleFlags) : (s.modFlags h f).pitch = s.pitch := rfl
@[simp] theorem modFlags_queue (h : HeadId) (f : CycleFlags → CycleFlags) : (s.modFlags h f).queue = s.queue := rfl
@[simp] theorem modFlags_tables (h : HeadId) (f : CycleFlags → CycleFlags) : (s.modFlags h f).tables = s.tables := rfl
@[simp] theorem modFlags_directory (h : HeadId) (f : CycleFlags → CycleFlags) : (s.modFlags h f).directory = s.directory := rfl
@[simp] theorem modFlags_settings (h : HeadId) (f : CycleFlags → CycleFlags) : (s.modFlags h f).settings = s.settings := rfl
@[simp] theorem modFlags_resolver (h : HeadId) (f : CycleFlags → CycleFlags) : (s.modFlags h f).resolver = s.resolver := rfl
@[simp] theorem modFlags_scanner (h : HeadId) (f : CycleFlags → CycleFlags) : (s.modFlags h f).scanner = s.scanner := rfl
@[simp] theorem modFlags_orq (h : HeadId) (f : CycleFlags → CycleFlags) : (s.modFlags h f).orq = s.orq := rfl
@[simp] theorem modFlags_counters (h : HeadId) (f : CycleFlags → CycleFlags) : (s.modFlags h f).counters = s.counters := rfl
@[simp] theorem modFlags_totals (h : HeadId) (f : CycleFlags → CycleFlags) : (s.modFlags h f).totals = s.totals := rfl
@[simp] theorem modFlags_trace (h : HeadId) (f : CycleFlags → CycleFlags) : (s.modFlags h f).trace = s.trace := rfl
@[simp] theorem modFlags_frameOut (h : HeadId) (f : CycleFlags → CycleFlags) : (s.modFlags h f).frameOut = s.frameOut := rfl
@[simp] theorem modFlags_assignOut (h : HeadId) (f : CycleFlags → CycleFlags) : (s.modFlags h f).assignOut = s.assignOut := rfl
@[simp] theorem modFlags_mgmtOut (h : HeadId) (f : CycleFlags → CycleFlags) : (s.modFlags h f).mgmtOut = s.mgmtOut := rfl

@[simp] theorem modValve_pending (h : HeadId) (v : ValveId) (f : Valve → Valve) : (s.modValve h v f).pending = s.pending := rfl
@[simp] theorem modValve_now (h : HeadId) (v : ValveId) (f : Valve → Valve) : (s.modValve h v f).now = s.now := rfl
@[simp] theorem modValve_resetHeld (h : HeadId) (v : ValveId) (f : Valve → Valve) : (s.modValve h v f).resetHeld = s.resetHeld := rfl
@[simp] theorem modValve_selfTest (h : HeadId) (v : ValveId) (f : Valve → Valve) : (s.modValve h v f).selfTest = s.selfTest := rfl
@[simp] theorem modValve_resetScheduled (h : HeadId) (v : ValveId) (f : Valve → Valve) : (s.modValve h v f).resetScheduled = s.resetScheduled := rfl
@[simp] theorem modValve_ring (h : HeadId) (v : ValveId) (f : Valve → Valve) : (s.modValve h v f).ring = s.ring := rfl
@[simp] theorem modValve_pitch (h : HeadId) (v : ValveId) (f : Valve → Valve) : (s.modValve h v f).pitch = s.pitch := rfl
@[simp] theorem modValve_queue (h : HeadId) (v : ValveId) (f : Valve → Valve) : (s.modValve h v f).queue = s.queue := rfl
@[simp] theorem modValve_tables (h : HeadId) (v : ValveId) (f : Valve → Valve) : (s.modValve h v f).tables = s.tables := rfl
@[simp] theorem modValve_directory (h : HeadId) (v : ValveId) (f : Valve → Valve) : (s.modValve h v f).directory = s.directory := rfl
@[simp] theorem modValve_settings (h : HeadId) (v : ValveId) (f : Valve → Valve) : (s.modValve h v f).settings = s.settings := rfl
@[simp] theorem modValve_resolver (h : HeadId) (v : ValveId) (f : Valve → Valve) : (s.modValve h v f).resolver = s.resolver := rfl
@[simp] theorem modValve_scanner (h : HeadId) (v : ValveId) (f : Valve → Valve) : (s.modValve h v f).scanner = s.scanner := rfl
@[simp] theorem modValve_orq (h : HeadId) (v : ValveId) (f : Valve → Valve) : (s.modValve h v f).orq = s.orq := rfl
@[simp] theorem modValve_counters (h : HeadId) (v : ValveId) (f : Valve → Valve) : (s.modValve h v f).counters = s.counters := rfl
@[simp] theorem modValve_totals (h : HeadId) (v : ValveId) (f : Valve → Valve) : (s.modValve h v f).totals = s.totals := rfl
@[simp] theorem modValve_trace (h : HeadId) (v : ValveId) (f : Valve → Valve) : (s.modValve h v f).trace = s.trace := rfl
@[simp] theorem modValve_frameOut (h : HeadId) (v : ValveId) (f : Valve → Valve) : (s.modValve h v f).frameOut = s.frameOut := rfl
@[simp] theorem modValve_assignOut (h : HeadId) (v : ValveId) (f : Valve → Valve) : (s.modValve h v f).assignOut = s.assignOut := rfl
@[simp] theorem modValve_mgmtOut (h : HeadId) (v : ValveId) (f : Valve → Valve) : (s.modValve h v f).mgmtOut = s.mgmtOut := rfl

@[simp] theorem modChan_pending (h : HeadId) (m : Meter) (f : Channel → Channel) : (s.modChan h m f).pending = s.pending := rfl
@[simp] theorem modChan_now (h : HeadId) (m : Meter) (f : Channel → Channel) : (s.modChan h m f).now = s.now := rfl
@[simp] theorem modChan_resetHeld (h : HeadId) (m : Meter) (f : Channel → Channel) : (s.modChan h m f).resetHeld = s.resetHeld := rfl
@[simp] theorem modChan_selfTest (h : HeadId) (m : Meter) (f : Channel → Channel) : (s.modChan h m f).selfTest = s.selfTest := rfl
@[simp] theorem modChan_resetScheduled (h : HeadId) (m : Meter) (f : Channel → Channel) : (s.modChan h m f).resetScheduled = s.resetScheduled := rfl
@[simp] theorem modChan_ring (h : HeadId) (m : Meter) (f : Channel → Channel) : (s.modChan h m f).ring = s.ring := rfl
@[simp] theorem modChan_pitch (h : HeadId) (m : Meter) (f : Channel → Channel) : (s.modChan h m f).pitch = s.pitch := rfl
@[simp] theorem modChan_queue (h : HeadId) (m : Meter) (f : Channel → Channel) : (s.modChan h m f).queue = s.queue := rfl
@[simp] theorem modChan_tables (h : HeadId) (m : Meter) (f : Channel → Channel) : (s.modChan h m f).tables = s.tables := rfl
@[simp] theorem modChan_directory (h : HeadId) (m : Meter) (f : Channel → Channel) : (s.modChan h m f).directory = s.directory := rfl
@[simp] theorem modChan_settings (h : HeadId) (m : Meter) (f : Channel → Channel) : (s.modChan h m f).settings = s.settings := rfl
@[simp] theorem modChan_resolver (h : HeadId) (m : Meter) (f : Channel → Channel) : (s.modChan h m f).resolver = s.resolver := rfl
@[simp] theorem modChan_scanner (h : HeadId) (m : Meter) (f : Channel → Channel) : (s.modChan h m f).scanner = s.scanner := rfl
@[simp] theorem modChan_orq (h : HeadId) (m : Meter) (f : Channel → Channel) : (s.modChan h m f).orq = s.orq := rfl
@[simp] theorem modChan_counters (h : HeadId) (m : Meter) (f : Channel → Channel) : (s.modChan h m f).counters = s.counters := rfl
@[simp] theorem modChan_totals (h : HeadId) (m : Meter) (f : Channel → Channel) : (s.modChan h m f).totals = s.totals := rfl
@[simp] theorem modChan_trace (h : HeadId) (m : Meter) (f : Channel → Channel) : (s.modChan h m f).trace = s.trace := rfl
@[simp] theorem modChan_frameOut (h : HeadId) (m : Meter) (f : Channel → Channel) : (s.modChan h m f).frameOut = s.frameOut := rfl
@[simp] theorem modChan_assignOut (h : HeadId) (m : Meter) (f : Channel → Channel) : (s.modChan h m f).assignOut = s.assignOut := rfl
@[simp] theorem modChan_mgmtOut (h : HeadId) (m : Meter) (f : Channel → Channel) : (s.modChan h m f).mgmtOut = s.mgmtOut := rfl

@[simp] theorem modTable_pending (h : HeadId) (f : HeadRecord → HeadRecord) : (s.modTable h f).pending = s.pending := rfl
@[simp] theorem modTable_now (h : HeadId) (f : HeadRecord → HeadRecord) : (s.modTable h f).now = s.now := rfl
@[simp] theorem modTable_resetHeld (h : HeadId) (f : HeadRecord → HeadRecord) : (s.modTable h f).resetHeld = s.resetHeld := rfl
@[simp] theorem modTable_selfTest (h : HeadId) (f : HeadRecord → HeadRecord) : (s.modTable h f).selfTest = s.selfTest := rfl
@[simp] theorem modTable_resetScheduled (h : HeadId) (f : HeadRecord → HeadRecord) : (s.modTable h f).resetScheduled = s.resetScheduled := rfl
@[simp] theorem modTable_ring (h : HeadId) (f : HeadRecord → HeadRecord) : (s.modTable h f).ring = s.ring := rfl
@[simp] theorem modTable_pitch (h : HeadId) (f : HeadRecord → HeadRecord) : (s.modTable h f).pitch = s.pitch := rfl
@[simp] theorem modTable_queue (h : HeadId) (f : HeadRecord → HeadRecord) : (s.modTable h f).queue = s.queue := rfl
@[simp] theorem modTable_tables (h : HeadId) (f : HeadRecord → HeadRecord) : (s.modTable h f).tables = s.tables := rfl
@[simp] theorem modTable_directory (h : HeadId) (f : HeadRecord → HeadRecord) : (s.modTable h f).directory = s.directory := rfl
@[simp] theorem modTable_settings (h : HeadId) (f : HeadRecord → HeadRecord) : (s.modTable h f).settings = s.settings := rfl
@[simp] theorem modTable_resolver (h : HeadId) (f : HeadRecord → HeadRecord) : (s.modTable h f).resolver = s.resolver := rfl
@[simp] theorem modTable_scanner (h : HeadId) (f : HeadRecord → HeadRecord) : (s.modTable h f).scanner = s.scanner := rfl
@[simp] theorem modTable_orq (h : HeadId) (f : HeadRecord → HeadRecord) : (s.modTable h f).orq = s.orq := rfl
@[simp] theorem modTable_counters (h : HeadId) (f : HeadRecord → HeadRecord) : (s.modTable h f).counters = s.counters := rfl
@[simp] theorem modTable_totals (h : HeadId) (f : HeadRecord → HeadRecord) : (s.modTable h f).totals = s.totals := rfl
@[simp] theorem modTable_trace (h : HeadId) (f : HeadRecord → HeadRecord) : (s.modTable h f).trace = s.trace := rfl
@[simp] theorem modTable_frameOut (h : HeadId) (f : HeadRecord → HeadRecord) : (s.modTable h f).frameOut = s.frameOut := rfl
@[simp] theorem modTable_assignOut (h : HeadId) (f : HeadRecord → HeadRecord) : (s.modTable h f).assignOut = s.assignOut := rfl
@[simp] theorem modTable_mgmtOut (h : HeadId) (f : HeadRecord → HeadRecord) : (s.modTable h f).mgmtOut = s.mgmtOut := rfl

@[simp] theorem modRing_pending (f : RingPort → RingPort) : (s.modRing f).pending = s.pending := rfl
@[simp] theorem modRing_now (f : RingPort → RingPort) : (s.modRing f).now = s.now := rfl
@[simp] theorem modRing_resetHeld (f : RingPort → RingPort) : (s.modRing f).resetHeld = s.resetHeld := rfl
@[simp] theorem modRing_selfTest (f : RingPort → RingPort) : (s.modRing f).selfTest = s.selfTest := rfl
@[simp] theorem modRing_resetScheduled (f : RingPort → RingPort) : (s.modRing f).resetScheduled = s.resetScheduled := rfl
@[simp] theorem modRing_pitch (f : RingPort → RingPort) : (s.modRing f).pitch = s.pitch := rfl
@[simp] theorem modRing_queue (f : RingPort → RingPort) : (s.modRing f).queue = s.queue := rfl
@[simp] theorem modRing_tables (f : RingPort → RingPort) : (s.modRing f).tables = s.tables := rfl
@[simp] theorem modRing_directory (f : RingPort → RingPort) : (s.modRing f).directory = s.directory := rfl
@[simp] theorem modRing_settings (f : RingPort → RingPort) : (s.modRing f).settings = s.settings := rfl
@[simp] theorem modRing_resolver (f : RingPort → RingPort) : (s.modRing f).resolver = s.resolver := rfl
@[simp] theorem modRing_heads (f : RingPort → RingPort) : (s.modRing f).heads = s.heads := rfl
@[simp] theorem modRing_scanner (f : RingPort → RingPort) : (s.modRing f).scanner = s.scanner := rfl
@[simp] theorem modRing_orq (f : RingPort → RingPort) : (s.modRing f).orq = s.orq := rfl
@[simp] theorem modRing_counters (f : RingPort → RingPort) : (s.modRing f).counters = s.counters := rfl
@[simp] theorem modRing_totals (f : RingPort → RingPort) : (s.modRing f).totals = s.totals := rfl
@[simp] theorem modRing_trace (f : RingPort → RingPort) : (s.modRing f).trace = s.trace := rfl
@[simp] theorem modRing_frameOut (f : RingPort → RingPort) : (s.modRing f).frameOut = s.frameOut := rfl
@[simp] theorem modRing_assignOut (f : RingPort → RingPort) : (s.modRing f).assignOut = s.assignOut := rfl
@[simp] theorem modRing_mgmtOut (f : RingPort → RingPort) : (s.modRing f).mgmtOut = s.mgmtOut := rfl

@[simp] theorem modPitch_pending (f : PitchTimer → PitchTimer) : (s.modPitch f).pending = s.pending := rfl
@[simp] theorem modPitch_now (f : PitchTimer → PitchTimer) : (s.modPitch f).now = s.now := rfl
@[simp] theorem modPitch_resetHeld (f : PitchTimer → PitchTimer) : (s.modPitch f).resetHeld = s.resetHeld := rfl
@[simp] theorem modPitch_selfTest (f : PitchTimer → PitchTimer) : (s.modPitch f).selfTest = s.selfTest := rfl
@[simp] theorem modPitch_resetScheduled (f : PitchTimer → PitchTimer) : (s.modPitch f).resetScheduled = s.resetScheduled := rfl
@[simp] theorem modPitch_ring (f : PitchTimer → PitchTimer) : (s.modPitch f).ring = s.ring := rfl
@[simp] theorem modPitch_queue (f : PitchTimer → PitchTimer) : (s.modPitch f).queue = s.queue := rfl
@[simp] theorem modPitch_tables (f : PitchTimer → PitchTimer) : (s.modPitch f).tables = s.tables := rfl
@[simp] theorem modPitch_directory (f : PitchTimer → PitchTimer) : (s.modPitch f).directory = s.directory := rfl
@[simp] theorem modPitch_settings (f : PitchTimer → PitchTimer) : (s.modPitch f).settings = s.settings := rfl
@[simp] theorem modPitch_resolver (f : PitchTimer → PitchTimer) : (s.modPitch f).resolver = s.resolver := rfl
@[simp] theorem modPitch_heads (f : PitchTimer → PitchTimer) : (s.modPitch f).heads = s.heads := rfl
@[simp] theorem modPitch_scanner (f : PitchTimer → PitchTimer) : (s.modPitch f).scanner = s.scanner := rfl
@[simp] theorem modPitch_orq (f : PitchTimer → PitchTimer) : (s.modPitch f).orq = s.orq := rfl
@[simp] theorem modPitch_counters (f : PitchTimer → PitchTimer) : (s.modPitch f).counters = s.counters := rfl
@[simp] theorem modPitch_totals (f : PitchTimer → PitchTimer) : (s.modPitch f).totals = s.totals := rfl
@[simp] theorem modPitch_trace (f : PitchTimer → PitchTimer) : (s.modPitch f).trace = s.trace := rfl
@[simp] theorem modPitch_frameOut (f : PitchTimer → PitchTimer) : (s.modPitch f).frameOut = s.frameOut := rfl
@[simp] theorem modPitch_assignOut (f : PitchTimer → PitchTimer) : (s.modPitch f).assignOut = s.assignOut := rfl
@[simp] theorem modPitch_mgmtOut (f : PitchTimer → PitchTimer) : (s.modPitch f).mgmtOut = s.mgmtOut := rfl

@[simp] theorem modTables_pending (f : Tables → Tables) : (s.modTables f).pending = s.pending := rfl
@[simp] theorem modTables_now (f : Tables → Tables) : (s.modTables f).now = s.now := rfl
@[simp] theorem modTables_resetHeld (f : Tables → Tables) : (s.modTables f).resetHeld = s.resetHeld := rfl
@[simp] theorem modTables_selfTest (f : Tables → Tables) : (s.modTables f).selfTest = s.selfTest := rfl
@[simp] theorem modTables_resetScheduled (f : Tables → Tables) : (s.modTables f).resetScheduled = s.resetScheduled := rfl
@[simp] theorem modTables_ring (f : Tables → Tables) : (s.modTables f).ring = s.ring := rfl
@[simp] theorem modTables_pitch (f : Tables → Tables) : (s.modTables f).pitch = s.pitch := rfl
@[simp] theorem modTables_queue (f : Tables → Tables) : (s.modTables f).queue = s.queue := rfl
@[simp] theorem modTables_directory (f : Tables → Tables) : (s.modTables f).directory = s.directory := rfl
@[simp] theorem modTables_settings (f : Tables → Tables) : (s.modTables f).settings = s.settings := rfl
@[simp] theorem modTables_resolver (f : Tables → Tables) : (s.modTables f).resolver = s.resolver := rfl
@[simp] theorem modTables_heads (f : Tables → Tables) : (s.modTables f).heads = s.heads := rfl
@[simp] theorem modTables_scanner (f : Tables → Tables) : (s.modTables f).scanner = s.scanner := rfl
@[simp] theorem modTables_orq (f : Tables → Tables) : (s.modTables f).orq = s.orq := rfl
@[simp] theorem modTables_counters (f : Tables → Tables) : (s.modTables f).counters = s.counters := rfl
@[simp] theorem modTables_totals (f : Tables → Tables) : (s.modTables f).totals = s.totals := rfl
@[simp] theorem modTables_trace (f : Tables → Tables) : (s.modTables f).trace = s.trace := rfl
@[simp] theorem modTables_frameOut (f : Tables → Tables) : (s.modTables f).frameOut = s.frameOut := rfl
@[simp] theorem modTables_assignOut (f : Tables → Tables) : (s.modTables f).assignOut = s.assignOut := rfl
@[simp] theorem modTables_mgmtOut (f : Tables → Tables) : (s.modTables f).mgmtOut = s.mgmtOut := rfl

@[simp] theorem modSegment_pending (g : Fin 32) (f : Segment → Segment) : (s.modSegment g f).pending = s.pending := rfl
@[simp] theorem modSegment_now (g : Fin 32) (f : Segment → Segment) : (s.modSegment g f).now = s.now := rfl
@[simp] theorem modSegment_resetHeld (g : Fin 32) (f : Segment → Segment) : (s.modSegment g f).resetHeld = s.resetHeld := rfl
@[simp] theorem modSegment_selfTest (g : Fin 32) (f : Segment → Segment) : (s.modSegment g f).selfTest = s.selfTest := rfl
@[simp] theorem modSegment_resetScheduled (g : Fin 32) (f : Segment → Segment) : (s.modSegment g f).resetScheduled = s.resetScheduled := rfl
@[simp] theorem modSegment_ring (g : Fin 32) (f : Segment → Segment) : (s.modSegment g f).ring = s.ring := rfl
@[simp] theorem modSegment_pitch (g : Fin 32) (f : Segment → Segment) : (s.modSegment g f).pitch = s.pitch := rfl
@[simp] theorem modSegment_queue (g : Fin 32) (f : Segment → Segment) : (s.modSegment g f).queue = s.queue := rfl
@[simp] theorem modSegment_directory (g : Fin 32) (f : Segment → Segment) : (s.modSegment g f).directory = s.directory := rfl
@[simp] theorem modSegment_settings (g : Fin 32) (f : Segment → Segment) : (s.modSegment g f).settings = s.settings := rfl
@[simp] theorem modSegment_resolver (g : Fin 32) (f : Segment → Segment) : (s.modSegment g f).resolver = s.resolver := rfl
@[simp] theorem modSegment_heads (g : Fin 32) (f : Segment → Segment) : (s.modSegment g f).heads = s.heads := rfl
@[simp] theorem modSegment_scanner (g : Fin 32) (f : Segment → Segment) : (s.modSegment g f).scanner = s.scanner := rfl
@[simp] theorem modSegment_orq (g : Fin 32) (f : Segment → Segment) : (s.modSegment g f).orq = s.orq := rfl
@[simp] theorem modSegment_counters (g : Fin 32) (f : Segment → Segment) : (s.modSegment g f).counters = s.counters := rfl
@[simp] theorem modSegment_totals (g : Fin 32) (f : Segment → Segment) : (s.modSegment g f).totals = s.totals := rfl
@[simp] theorem modSegment_trace (g : Fin 32) (f : Segment → Segment) : (s.modSegment g f).trace = s.trace := rfl
@[simp] theorem modSegment_frameOut (g : Fin 32) (f : Segment → Segment) : (s.modSegment g f).frameOut = s.frameOut := rfl
@[simp] theorem modSegment_assignOut (g : Fin 32) (f : Segment → Segment) : (s.modSegment g f).assignOut = s.assignOut := rfl
@[simp] theorem modSegment_mgmtOut (g : Fin 32) (f : Segment → Segment) : (s.modSegment g f).mgmtOut = s.mgmtOut := rfl

@[simp] theorem setTrace_pending (b : Bool) (d : Descriptor) : (s.setTrace b d).pending = s.pending := rfl
@[simp] theorem setTrace_now (b : Bool) (d : Descriptor) : (s.setTrace b d).now = s.now := rfl
@[simp] theorem setTrace_resetHeld (b : Bool) (d : Descriptor) : (s.setTrace b d).resetHeld = s.resetHeld := rfl
@[simp] theorem setTrace_selfTest (b : Bool) (d : Descriptor) : (s.setTrace b d).selfTest = s.selfTest := rfl
@[simp] theorem setTrace_resetScheduled (b : Bool) (d : Descriptor) : (s.setTrace b d).resetScheduled = s.resetScheduled := rfl
@[simp] theorem setTrace_ring (b : Bool) (d : Descriptor) : (s.setTrace b d).ring = s.ring := rfl
@[simp] theorem setTrace_pitch (b : Bool) (d : Descriptor) : (s.setTrace b d).pitch = s.pitch := rfl
@[simp] theorem setTrace_queue (b : Bool) (d : Descriptor) : (s.setTrace b d).queue = s.queue := rfl
@[simp] theorem setTrace_tables (b : Bool) (d : Descriptor) : (s.setTrace b d).tables = s.tables := rfl
@[simp] theorem setTrace_directory (b : Bool) (d : Descriptor) : (s.setTrace b d).directory = s.directory := rfl
@[simp] theorem setTrace_settings (b : Bool) (d : Descriptor) : (s.setTrace b d).settings = s.settings := rfl
@[simp] theorem setTrace_resolver (b : Bool) (d : Descriptor) : (s.setTrace b d).resolver = s.resolver := rfl
@[simp] theorem setTrace_heads (b : Bool) (d : Descriptor) : (s.setTrace b d).heads = s.heads := rfl
@[simp] theorem setTrace_scanner (b : Bool) (d : Descriptor) : (s.setTrace b d).scanner = s.scanner := rfl
@[simp] theorem setTrace_orq (b : Bool) (d : Descriptor) : (s.setTrace b d).orq = s.orq := rfl
@[simp] theorem setTrace_counters (b : Bool) (d : Descriptor) : (s.setTrace b d).counters = s.counters := rfl
@[simp] theorem setTrace_totals (b : Bool) (d : Descriptor) : (s.setTrace b d).totals = s.totals := rfl
@[simp] theorem setTrace_frameOut (b : Bool) (d : Descriptor) : (s.setTrace b d).frameOut = s.frameOut := rfl
@[simp] theorem setTrace_assignOut (b : Bool) (d : Descriptor) : (s.setTrace b d).assignOut = s.assignOut := rfl
@[simp] theorem setTrace_mgmtOut (b : Bool) (d : Descriptor) : (s.setTrace b d).mgmtOut = s.mgmtOut := rfl

@[simp] theorem setCounter_pending (c : CounterId) (v : Half) : (setCounter c v s).pending = s.pending := rfl
@[simp] theorem setCounter_now (c : CounterId) (v : Half) : (setCounter c v s).now = s.now := rfl
@[simp] theorem setCounter_resetHeld (c : CounterId) (v : Half) : (setCounter c v s).resetHeld = s.resetHeld := rfl
@[simp] theorem setCounter_selfTest (c : CounterId) (v : Half) : (setCounter c v s).selfTest = s.selfTest := rfl
@[simp] theorem setCounter_resetScheduled (c : CounterId) (v : Half) : (setCounter c v s).resetScheduled = s.resetScheduled := rfl
@[simp] theorem setCounter_ring (c : CounterId) (v : Half) : (setCounter c v s).ring = s.ring := rfl
@[simp] theorem setCounter_pitch (c : CounterId) (v : Half) : (setCounter c v s).pitch = s.pitch := rfl
@[simp] theorem setCounter_queue (c : CounterId) (v : Half) : (setCounter c v s).queue = s.queue := rfl
@[simp] theorem setCounter_tables (c : CounterId) (v : Half) : (setCounter c v s).tables = s.tables := rfl
@[simp] theorem setCounter_directory (c : CounterId) (v : Half) : (setCounter c v s).directory = s.directory := rfl
@[simp] theorem setCounter_settings (c : CounterId) (v : Half) : (setCounter c v s).settings = s.settings := rfl
@[simp] theorem setCounter_resolver (c : CounterId) (v : Half) : (setCounter c v s).resolver = s.resolver := rfl
@[simp] theorem setCounter_heads (c : CounterId) (v : Half) : (setCounter c v s).heads = s.heads := rfl
@[simp] theorem setCounter_scanner (c : CounterId) (v : Half) : (setCounter c v s).scanner = s.scanner := rfl
@[simp] theorem setCounter_orq (c : CounterId) (v : Half) : (setCounter c v s).orq = s.orq := rfl
@[simp] theorem setCounter_totals (c : CounterId) (v : Half) : (setCounter c v s).totals = s.totals := rfl
@[simp] theorem setCounter_trace (c : CounterId) (v : Half) : (setCounter c v s).trace = s.trace := rfl
@[simp] theorem setCounter_frameOut (c : CounterId) (v : Half) : (setCounter c v s).frameOut = s.frameOut := rfl
@[simp] theorem setCounter_assignOut (c : CounterId) (v : Half) : (setCounter c v s).assignOut = s.assignOut := rfl
@[simp] theorem setCounter_mgmtOut (c : CounterId) (v : Half) : (setCounter c v s).mgmtOut = s.mgmtOut := rfl

@[simp] theorem appendRecord_pending (r : Record) : (appendRecord r s).pending = s.pending := rfl
@[simp] theorem appendRecord_now (r : Record) : (appendRecord r s).now = s.now := rfl
@[simp] theorem appendRecord_resetHeld (r : Record) : (appendRecord r s).resetHeld = s.resetHeld := rfl
@[simp] theorem appendRecord_selfTest (r : Record) : (appendRecord r s).selfTest = s.selfTest := rfl
@[simp] theorem appendRecord_resetScheduled (r : Record) : (appendRecord r s).resetScheduled = s.resetScheduled := rfl
@[simp] theorem appendRecord_ring (r : Record) : (appendRecord r s).ring = s.ring := rfl
@[simp] theorem appendRecord_pitch (r : Record) : (appendRecord r s).pitch = s.pitch := rfl
@[simp] theorem appendRecord_queue (r : Record) : (appendRecord r s).queue = s.queue := rfl
@[simp] theorem appendRecord_tables (r : Record) : (appendRecord r s).tables = s.tables := rfl
@[simp] theorem appendRecord_directory (r : Record) : (appendRecord r s).directory = s.directory := rfl
@[simp] theorem appendRecord_settings (r : Record) : (appendRecord r s).settings = s.settings := rfl
@[simp] theorem appendRecord_resolver (r : Record) : (appendRecord r s).resolver = s.resolver := rfl
@[simp] theorem appendRecord_heads (r : Record) : (appendRecord r s).heads = s.heads := rfl
@[simp] theorem appendRecord_scanner (r : Record) : (appendRecord r s).scanner = s.scanner := rfl
@[simp] theorem appendRecord_counters (r : Record) : (appendRecord r s).counters = s.counters := rfl
@[simp] theorem appendRecord_totals (r : Record) : (appendRecord r s).totals = s.totals := rfl
@[simp] theorem appendRecord_trace (r : Record) : (appendRecord r s).trace = s.trace := rfl
@[simp] theorem appendRecord_frameOut (r : Record) : (appendRecord r s).frameOut = s.frameOut := rfl
@[simp] theorem appendRecord_assignOut (r : Record) : (appendRecord r s).assignOut = s.assignOut := rfl
@[simp] theorem appendRecord_mgmtOut (r : Record) : (appendRecord r s).mgmtOut = s.mgmtOut := rfl

@[simp] theorem setDirectory_pending (n : Fin 128) (d : Option DirEntry) : (setDirectory n d s).pending = s.pending := rfl
@[simp] theorem setDirectory_now (n : Fin 128) (d : Option DirEntry) : (setDirectory n d s).now = s.now := rfl
@[simp] theorem setDirectory_resetHeld (n : Fin 128) (d : Option DirEntry) : (setDirectory n d s).resetHeld = s.resetHeld := rfl
@[simp] theorem setDirectory_selfTest (n : Fin 128) (d : Option DirEntry) : (setDirectory n d s).selfTest = s.selfTest := rfl
@[simp] theorem setDirectory_resetScheduled (n : Fin 128) (d : Option DirEntry) : (setDirectory n d s).resetScheduled = s.resetScheduled := rfl
@[simp] theorem setDirectory_ring (n : Fin 128) (d : Option DirEntry) : (setDirectory n d s).ring = s.ring := rfl
@[simp] theorem setDirectory_pitch (n : Fin 128) (d : Option DirEntry) : (setDirectory n d s).pitch = s.pitch := rfl
@[simp] theorem setDirectory_queue (n : Fin 128) (d : Option DirEntry) : (setDirectory n d s).queue = s.queue := rfl
@[simp] theorem setDirectory_tables (n : Fin 128) (d : Option DirEntry) : (setDirectory n d s).tables = s.tables := rfl
@[simp] theorem setDirectory_settings (n : Fin 128) (d : Option DirEntry) : (setDirectory n d s).settings = s.settings := rfl
@[simp] theorem setDirectory_resolver (n : Fin 128) (d : Option DirEntry) : (setDirectory n d s).resolver = s.resolver := rfl
@[simp] theorem setDirectory_heads (n : Fin 128) (d : Option DirEntry) : (setDirectory n d s).heads = s.heads := rfl
@[simp] theorem setDirectory_scanner (n : Fin 128) (d : Option DirEntry) : (setDirectory n d s).scanner = s.scanner := rfl
@[simp] theorem setDirectory_orq (n : Fin 128) (d : Option DirEntry) : (setDirectory n d s).orq = s.orq := rfl
@[simp] theorem setDirectory_counters (n : Fin 128) (d : Option DirEntry) : (setDirectory n d s).counters = s.counters := rfl
@[simp] theorem setDirectory_totals (n : Fin 128) (d : Option DirEntry) : (setDirectory n d s).totals = s.totals := rfl
@[simp] theorem setDirectory_trace (n : Fin 128) (d : Option DirEntry) : (setDirectory n d s).trace = s.trace := rfl
@[simp] theorem setDirectory_frameOut (n : Fin 128) (d : Option DirEntry) : (setDirectory n d s).frameOut = s.frameOut := rfl
@[simp] theorem setDirectory_assignOut (n : Fin 128) (d : Option DirEntry) : (setDirectory n d s).assignOut = s.assignOut := rfl
@[simp] theorem setDirectory_mgmtOut (n : Fin 128) (d : Option DirEntry) : (setDirectory n d s).mgmtOut = s.mgmtOut := rfl

/-! ### The field that an update changes -/

@[simp] theorem advance_now (t : Ticks) : (s.advance t).now = max s.now t := rfl

@[simp] theorem modRing_ring (f : RingPort → RingPort) : (s.modRing f).ring = f s.ring := rfl

@[simp] theorem modPitch_pitch (f : PitchTimer → PitchTimer) : (s.modPitch f).pitch = f s.pitch := rfl

@[simp] theorem modTables_tables (f : Tables → Tables) : (s.modTables f).tables = f s.tables := rfl

@[simp] theorem advance_head (t : Ticks) (h : HeadId) : (s.advance t).head h = s.head h := rfl

@[simp] theorem advance_seq (t : Ticks) (h : HeadId) : (s.advance t).seq h = s.seq h := rfl

@[simp] theorem advance_valve (t : Ticks) (h : HeadId) (v : ValveId) : (s.advance t).valve h v = s.valve h v := rfl

@[simp] theorem advance_chan (t : Ticks) (h : HeadId) (m : Meter) : (s.advance t).chan h m = s.chan h m := rfl

@[simp] theorem advance_segment (t : Ticks) (g : Fin 32) : (s.advance t).segment g = s.segment g := rfl

@[simp] theorem advance_counter (t : Ticks) (c : CounterId) : (s.advance t).counter c = s.counter c := rfl

/-! ### Read after write: heads -/

@[simp] theorem modHead_head (h : HeadId) (f : Head → Head) : (s.modHead h f).head h = f (s.head h) := by
  simp [State.modHead, State.head]

theorem modHead_head_ne (h g : HeadId) (f : Head → Head) (hg : g ≠ h) : (s.modHead h f).head g = s.head g := by
  have : h.val ≠ g.val := fun e => hg (Fin.ext e.symm)
  simp [State.modHead, State.head, Vector.getElem_set_ne, this]

@[simp] theorem modSeq_seq (h : HeadId) (f : Sequencer → Sequencer) : (s.modSeq h f).seq h = f (s.seq h) := by
  simp [State.modSeq, State.seq]

theorem modSeq_seq_ne (h g : HeadId) (f : Sequencer → Sequencer) (hg : g ≠ h) : (s.modSeq h f).seq g = s.seq g := by
  simp [State.modSeq, State.seq, modHead_head_ne s h g _ hg]

@[simp] theorem modSeq_valve (h g : HeadId) (v : ValveId) (f : Sequencer → Sequencer) :
    (s.modSeq h f).valve g v = s.valve g v := by
  by_cases hg : g = h
  · subst hg; simp [State.modSeq, State.valve]
  · simp [State.modSeq, State.valve, modHead_head_ne s h g _ hg]

@[simp] theorem modSeq_chan (h g : HeadId) (m : Meter) (f : Sequencer → Sequencer) :
    (s.modSeq h f).chan g m = s.chan g m := by
  by_cases hg : g = h
  · subst hg; simp [State.modSeq, State.chan]
  · simp [State.modSeq, State.chan, modHead_head_ne s h g _ hg]

/-! ### Read after write: valves and channels -/

@[simp] theorem perValve_get_set {α : Type} (p : PerValve α) (v : ValveId) (x : α) : (p.set v x).get v = x := by
  cases v <;> rfl

theorem perValve_get_set_ne {α : Type} (p : PerValve α) (v w : ValveId) (x : α) (h : w ≠ v) : (p.set v x).get w = p.get w := by
  cases v <;> cases w <;> first | rfl | exact absurd rfl h

@[simp] theorem perMeter_get_set {α : Type} (p : PerMeter α) (m : Meter) (x : α) : (p.set m x).get m = x := by
  cases m <;> rfl

theorem perMeter_get_set_ne {α : Type} (p : PerMeter α) (m n : Meter) (x : α) (h : n ≠ m) : (p.set m x).get n = p.get n := by
  cases m <;> cases n <;> first | rfl | exact absurd rfl h

@[simp] theorem modValve_valve (h : HeadId) (v : ValveId) (f : Valve → Valve) :
    (s.modValve h v f).valve h v = f (s.valve h v) := by
  simp [State.modValve, State.valve]

theorem modValve_valve_other (h g : HeadId) (v w : ValveId) (f : Valve → Valve) (hw : g ≠ h ∨ w ≠ v) :
    (s.modValve h v f).valve g w = s.valve g w := by
  by_cases hg : g = h
  · subst hg
    have hne : w ≠ v := hw.resolve_left fun n => n rfl
    simp [State.modValve, State.valve, perValve_get_set_ne _ v w _ hne]
  · simp [State.modValve, State.valve, modHead_head_ne s h g _ hg]

@[simp] theorem modValve_seq (h g : HeadId) (v : ValveId) (f : Valve → Valve) : (s.modValve h v f).seq g = s.seq g := by
  by_cases hg : g = h
  · subst hg; simp [State.modValve, State.seq]
  · simp [State.modValve, State.seq, modHead_head_ne s h g _ hg]

@[simp] theorem modChan_chan (h : HeadId) (m : Meter) (f : Channel → Channel) :
    (s.modChan h m f).chan h m = f (s.chan h m) := by
  simp [State.modChan, State.chan]

@[simp] theorem modChan_seq (h g : HeadId) (m : Meter) (f : Channel → Channel) : (s.modChan h m f).seq g = s.seq g := by
  by_cases hg : g = h
  · subst hg; simp [State.modChan, State.seq]
  · simp [State.modChan, State.seq, modHead_head_ne s h g _ hg]

@[simp] theorem modChan_valve (h g : HeadId) (m : Meter) (v : ValveId) (f : Channel → Channel) :
    (s.modChan h m f).valve g v = s.valve g v := by
  by_cases hg : g = h
  · subst hg; simp [State.modChan, State.valve]
  · simp [State.modChan, State.valve, modHead_head_ne s h g _ hg]

@[simp] theorem modTable_seq (h g : HeadId) (f : HeadRecord → HeadRecord) : (s.modTable h f).seq g = s.seq g := by
  by_cases hg : g = h
  · subst hg; simp [State.modTable, State.seq]
  · simp [State.modTable, State.seq, modHead_head_ne s h g _ hg]

@[simp] theorem modTable_valve (h g : HeadId) (v : ValveId) (f : HeadRecord → HeadRecord) :
    (s.modTable h f).valve g v = s.valve g v := by
  by_cases hg : g = h
  · subst hg; simp [State.modTable, State.valve]
  · simp [State.modTable, State.valve, modHead_head_ne s h g _ hg]

/-! ### Read after write: segments and counters -/

@[simp] theorem modSegment_segment (g : Fin 32) (f : Segment → Segment) : (s.modSegment g f).segment g = f (s.segment g) := by
  simp [State.modSegment, State.segment, State.modTables]

theorem modSegment_segment_ne (g k : Fin 32) (f : Segment → Segment) (hk : k ≠ g) :
    (s.modSegment g f).segment k = s.segment k := by
  have : g.val ≠ k.val := fun e => hk (Fin.ext e.symm)
  simp [State.modSegment, State.segment, State.modTables, Vector.getElem_set_ne, this]

@[simp] theorem modSegment_words (g : Fin 32) (f : Segment → Segment) : (s.modSegment g f).tables.words = s.tables.words := rfl

@[simp] theorem setCounter_counter (c : CounterId) (v : Half) : (setCounter c v s).counter c = v := by
  simp [setCounter, State.counter]

theorem counterId_id_ne (c d : CounterId) (h : c ≠ d) : c.id ≠ d.id := by
  cases c <;> cases d <;> first | exact absurd rfl h | decide

theorem setCounter_counter_ne (c d : CounterId) (v : Half) (h : d ≠ c) : (setCounter c v s).counter d = s.counter d := by
  have : c.id.val ≠ d.id.val := fun e => counterId_id_ne d c h (Fin.ext e.symm)
  simp [setCounter, State.counter, Vector.getElem_set_ne, this]

end Sys2Proof.Machine
end

