-- ==== Sys2Proof/Laws/Kept.lean ====
section
/-! SUPPORT. What each shared operation keeps: `Kept s t` says that every safety property of Safety.lean that holds of `s`
holds of `t`, each on its own. One lemma for each operation, in the order of the model's files, up to the frame. -/

namespace Sys2Proof.Machine

/-- Every safety property of `s` is one of `t`, each without help from the others. -/
structure Kept (s t : State) : Prop where
  interlocked : s.interlocked → t.interlocked
  records : s.recordsBounded → t.recordsBounded
  memory : s.memoryWf → t.memoryWf
  learned : s.learnedBounded → t.learnedBounded
  traces : s.oneTraceRuns → t.oneTraceRuns
  queue : s.queueBounded → t.queueBounded
  settings : s.settingsInRange → t.settingsInRange
  segments : s.segmentsPlaced → t.segmentsPlaced

namespace Kept

variable {s t u : State}

theorem refl (s : State) : Kept s s := ⟨id, id, id, id, id, id, id, id⟩

theorem trans (a : Kept s t) (b : Kept t u) : Kept s u :=
  ⟨fun h => b.1 (a.1 h), fun h => b.2 (a.2 h), fun h => b.3 (a.3 h), fun h => b.4 (a.4 h), fun h => b.5 (a.5 h),
    fun h => b.6 (a.6 h), fun h => b.7 (a.7 h), fun h => b.8 (a.8 h)⟩

/-- The last change first: its start is then known where the change before it is looked at. -/
theorem after (b : Kept t u) (a : Kept s t) : Kept s u := a.trans b

/-- A change of none of the fields that the properties read. -/
theorem same (h1 : t.heads = s.heads) (h2 : t.orq = s.orq) (h3 : t.tables = s.tables) (h4 : t.trace = s.trace)
    (h5 : t.queue.entries = s.queue.entries) (h6 : t.settings = s.settings) : Kept s t := by
  refine ⟨?_, ?_, ?_, ?_, ?_, ?_, ?_, ?_⟩
  · intro h; simpa [State.interlocked, State.head, h1] using h
  · intro h; simpa [State.recordsBounded, h2] using h
  · intro h; simpa [State.memoryWf, h3] using h
  · intro h; simpa [State.learnedBounded, State.head, h1] using h
  · intro h; simpa [State.oneTraceRuns, h4] using h
  · intro h; simpa [State.queueBounded, h5, h6] using h
  · intro h; simpa [State.settingsInRange, h6] using h
  · intro h; simpa [State.segmentsPlaced, h3] using h

/-- A change of the records and reservations alone. -/
theorem ofOrq (o : Orq) (h : s.recordsBounded → o.records.length + o.reservations ≤ 48) : Kept s { s with orq := o } :=
  ⟨id, h, id, id, id, id, id, id⟩

theorem ite {p : Prop} [Decidable p] {a b : State} (ha : p → Kept s a) (hb : ¬p → Kept s b) : Kept s (if p then a else b) := by
  by_cases h : p
  · simpa [h] using ha h
  · simpa [h] using hb h

/-- A fold of operations that each keep. -/
theorem foldl {α : Type} (f : State → α → State) (hf : ∀ s x, Kept s (f s x)) (l : List α) (s : State) : Kept s (l.foldl f s) := by
  induction l generalizing s with
  | nil => exact refl s
  | cons x l ih => exact (hf s x).trans (ih _)

end Kept

/-- The learned afterflows of a record lie within its maxima. -/
def HeadRecord.bounded (t : HeadRecord) : Prop := ∀ m : Meter, t.learned.get m ≤ t.afterflowMax.get m

section
variable (s : State)

/-! ### Heads -/

/-- A change of one head that keeps its interlock and its bounds. -/
theorem kept_modHead (h : HeadId) (f : Head → Head) (h1 : (s.head h).interlocked → (f (s.head h)).interlocked)
    (h2 : (s.head h).table.bounded → (f (s.head h)).table.bounded) : Kept s (s.modHead h f) := by
  refine ⟨?_, id, id, ?_, id, id, id, id⟩
  · intro hi g
    by_cases hg : g = h
    · subst hg; rw [modHead_head]; exact h1 (hi g)
    · rw [modHead_head_ne s h g f hg]; exact hi g
  · intro hi g m
    by_cases hg : g = h
    · subst hg; rw [modHead_head]; exact h2 (fun m => hi g m) m
    · rw [modHead_head_ne s h g f hg]; exact hi g m

/-- A change of a sequencer that leaves its equalised flag. -/
theorem kept_modSeq (h : HeadId) (f : Sequencer → Sequencer) (he : ∀ q, (f q).equalised = q.equalised) :
    Kept s (s.modSeq h f) :=
  kept_modHead s h _ (by simp [Head.interlocked, he]) id

/-- Setting the equalised flag. -/
theorem kept_setEqualised (h : HeadId) : Kept s (s.modSeq h fun q => { q with equalised := true }) :=
  kept_modHead s h _ (fun hi hp => ⟨rfl, (hi hp).2⟩) id

theorem kept_modFlags (h : HeadId) (f : CycleFlags → CycleFlags) : Kept s (s.modFlags h f) :=
  kept_modSeq s h _ fun _ => rfl

/-- A change of a valve that leaves its output. -/
theorem kept_modValve (h : HeadId) (v : ValveId) (f : Valve → Valve) (ho : (f (s.valve h v)).output = (s.valve h v).output) :
    Kept s (s.modValve h v f) := by
  refine kept_modHead s h _ ?_ id
  intro hi
  cases v <;> simp only [Head.interlocked, PerValve.set, PerValve.get, State.valve] at * <;> simpa [ho] using hi

/-- A change of a valve that closes it. -/
theorem kept_closeValve (h : HeadId) (v : ValveId) (f : Valve → Valve) (ho : (f (s.valve h v)).output = false) :
    Kept s (s.modValve h v f) := by
  refine kept_modHead s h _ ?_ id
  intro hi
  cases v <;> simp only [Head.interlocked, PerValve.set, PerValve.get, State.valve] at ho hi ⊢ <;> (try simp only [ho]) <;> tauto

theorem kept_modChan (h : HeadId) (m : Meter) (f : Channel → Channel) : Kept s (s.modChan h m f) :=
  kept_modHead s h _ id id

/-- A change of a head table record that keeps its bounds. -/
theorem kept_modTable (h : HeadId) (f : HeadRecord → HeadRecord) (hf : (s.head h).table.bounded → (f (s.head h).table).bounded) :
    Kept s (s.modTable h f) :=
  kept_modHead s h _ id hf

theorem kept_forHeads (f : HeadId → State → State) (hf : ∀ h s, Kept s (f h s)) : Kept s (forHeads f s) :=
  Kept.foldl _ (fun s h => hf h s) _ s

theorem kept_forValves (f : HeadId → ValveId → State → State) (hf : ∀ h v s, Kept s (f h v s)) : Kept s (forValves f s) :=
  kept_forHeads s _ fun h s => Kept.foldl _ (fun s v => hf h v s) _ s

/-- A change of every head that keeps each head's interlock and bounds. -/
theorem kept_mapHeads (f : Head → Head) (h1 : ∀ x : Head, x.interlocked → (f x).interlocked)
    (h2 : ∀ x : Head, x.table.bounded → (f x).table.bounded) : Kept s { s with heads := s.heads.map f } := by
  refine ⟨?_, id, id, ?_, id, id, id, id⟩
  · intro hi h
    have := h1 _ (hi h)
    simpa [State.head] using this
  · intro hi h m
    have := h2 (s.head h) (fun m => hi h m) m
    simpa [State.head] using this

/-! ### Records and counters (R154 to R163) -/

theorem kept_advance (t : Ticks) : Kept s (s.advance t) := Kept.same rfl rfl rfl rfl rfl rfl

theorem kept_setCounter (c : CounterId) (v : Half) : Kept s (setCounter c v s) := Kept.same rfl rfl rfl rfl rfl rfl

/-- Room is a place fewer than 48 taken (R155, R157). -/
theorem orqRoom_lt (hr : orqRoom s = true) : s.orq.records.length + s.orq.reservations < 48 := of_decide_eq_true hr

theorem kept_appendRecord (r : Record) (hr : orqRoom s = true) : Kept s (appendRecord r s) := by
  refine Kept.ofOrq _ fun _ => ?_
  have hr := orqRoom_lt s hr
  simp only [List.length_append, List.length_cons, List.length_nil]
  omega

theorem kept_loseRecord : Kept s (loseRecord s) := by
  refine Kept.trans ?_ (Kept.ofOrq _ id)
  refine Kept.ite (fun _ => ?_) fun _ => kept_setCounter s _ _
  refine Kept.trans (kept_setCounter s .recordsLost 0#16) (Kept.ite (fun hr => ?_) fun _ => kept_setCounter _ _ _)
  exact kept_appendRecord _ _ hr

theorem kept_enterUnreserved (r : Record) : Kept s (enterUnreserved r s) :=
  Kept.ite (fun hr => kept_appendRecord s r hr) fun _ => kept_loseRecord s

theorem kept_raiseAlarm (c : AlarmCode) (head : Byte) (a b : Nat) : Kept s (raiseAlarm c head a b s) :=
  kept_enterUnreserved s _

theorem kept_countEvent (c : CounterId) : Kept s (countEvent c s) :=
  Kept.ite (fun _ => (kept_setCounter s c 0#16).trans (kept_raiseAlarm _ _ _ _ _)) fun _ => kept_setCounter s _ _

theorem kept_takeReservation (h : HeadId) (hr : orqRoom s = true) : Kept s (takeReservation h s) := by
  refine Kept.trans (Kept.ofOrq (s := s) { s.orq with reservations := s.orq.reservations + 1 } fun _ => ?_)
    (kept_modSeq _ h _ fun _ => rfl)
  have hr := orqRoom_lt s hr
  show s.orq.records.length + (s.orq.reservations + 1) ≤ 48
  omega

theorem kept_placeRecord (h : HeadId) (r : Record) : Kept s (placeRecord h r s) := by
  have hk : Kept s (s.modSeq h fun q => { q with reserved := false }) := kept_modSeq s h _ fun _ => rfl
  refine Kept.ite (fun _ => hk.trans (kept_enterUnreserved _ r)) fun hz => ?_
  refine hk.trans (Kept.ofOrq _ fun hb => ?_)
  simp only [State.recordsBounded, modSeq_orq] at hb
  simp only [List.length_append, List.length_cons, List.length_nil, modSeq_orq]
  omega

theorem kept_modTotals (recipe : Nat) (f : TotalsRow → TotalsRow) : Kept s (modTotals recipe f s) := by
  unfold modTotals
  split
  · exact Kept.same rfl rfl rfl rfl rfl rfl
  · exact Kept.refl s

theorem kept_countUnserved (recipe : Nat) : Kept s (countUnserved recipe s) := kept_modTotals s _ _

theorem kept_countFill (recipe : Nat) (o : FillOutcome) (v : Nat) : Kept s (countFill recipe o v s) := kept_modTotals s _ _

theorem kept_countNotServed (recipe : Nat) (r : NotServedReason) : Kept s (countNotServed recipe r s) :=
  Kept.ite (fun _ => Kept.refl s) fun _ => kept_countUnserved s _

/-! ### Valves (R145 to R151) -/

theorem kept_setClosed (h : HeadId) (v : ValveId) : Kept s (setOutput h v false s) := by
  refine Kept.ite (fun _ => Kept.refl s) fun _ => kept_closeValve s h v _ ?_
  unfold Valve.change; split <;> rfl

/-- Opening a product valve under the interlock. -/
theorem kept_setOpen_product (h : HeadId) (v : ValveId) (hv : v = .fast ∨ v = .slow ∨ v = .add) (he : (s.seq h).equalised = true)
    (hs : (s.valve h .snift).output = false) : Kept s (setOutput h v true s) := by
  refine Kept.ite (fun _ => Kept.refl s) fun _ => kept_modHead s h _ ?_ id
  intro _ _
  refine ⟨he, ?_⟩
  rcases hv with rfl | rfl | rfl <;> exact hs

/-- Opening GAS. -/
theorem kept_setOpen_gas (h : HeadId) : Kept s (setOutput h .gas true s) :=
  Kept.ite (fun _ => Kept.refl s) fun _ => kept_modHead s h _ id id

/-- Opening SNIFT while every product output is closed. -/
theorem kept_setOpen_snift (h : HeadId) (hf : (s.valve h .fast).output = false) (hs : (s.valve h .slow).output = false)
    (ha : (s.valve h .add).output = false) : Kept s (setOutput h .snift true s) := by
  refine Kept.ite (fun _ => Kept.refl s) fun _ => kept_modHead s h _ ?_ id
  intro _ hp
  simp only [PerValve.set, State.valve, PerValve.get] at hp hf hs ha
  simp [hf, hs, ha] at hp

theorem kept_interlockCloseOne (h : HeadId) (b : Nat) (v : ValveId) : Kept s (interlockCloseOne h b v s) :=
  Kept.ite (fun _ => (kept_setClosed s h v).trans (kept_raiseAlarm _ _ _ _ _)) fun _ => Kept.refl s

theorem kept_interlockClose (h : HeadId) (b : Nat) : Kept s (interlockClose h b s) :=
  ((kept_interlockCloseOne s h b .fast).trans (kept_interlockCloseOne _ h b .slow)).trans (kept_interlockCloseOne _ h b .add)

end

/-! ### Outputs after a close -/

section
variable (s : State)

@[simp] theorem appendRecord_valve (r : Record) (h : HeadId) (v : ValveId) : (appendRecord r s).valve h v = s.valve h v := rfl

@[simp] theorem setCounter_valve (c : CounterId) (x : Half) (h : HeadId) (v : ValveId) :
    (setCounter c x s).valve h v = s.valve h v := rfl

theorem loseRecord_heads : (loseRecord s).heads = s.heads := by
  unfold loseRecord
  dsimp only
  split
  · split <;> rfl
  · rfl

theorem enterUnreserved_heads (r : Record) : (enterUnreserved r s).heads = s.heads := by
  unfold enterUnreserved
  split
  · rfl
  · exact loseRecord_heads s

theorem raiseAlarm_heads (c : AlarmCode) (head : Byte) (a b : Nat) : (raiseAlarm c head a b s).heads = s.heads :=
  enterUnreserved_heads s _

theorem countEvent_heads (c : CounterId) : (countEvent c s).heads = s.heads := by
  unfold countEvent
  split
  · exact raiseAlarm_heads _ _ _ _ _
  · rfl

@[simp] theorem raiseAlarm_head (c : AlarmCode) (head : Byte) (a b : Nat) (h : HeadId) :
    (raiseAlarm c head a b s).head h = s.head h := by
  simp [State.head, raiseAlarm_heads]

@[simp] theorem raiseAlarm_valve (c : AlarmCode) (head : Byte) (a b : Nat) (h : HeadId) (v : ValveId) :
    (raiseAlarm c head a b s).valve h v = s.valve h v := by
  simp [State.valve]

@[simp] theorem raiseAlarm_seq (c : AlarmCode) (head : Byte) (a b : Nat) (h : HeadId) :
    (raiseAlarm c head a b s).seq h = s.seq h := by
  simp [State.seq]

@[simp] theorem countEvent_head (c : CounterId) (h : HeadId) : (countEvent c s).head h = s.head h := by
  simp [State.head, countEvent_heads]

/-- A commanded output is the level commanded. -/
theorem setOutput_output (h : HeadId) (v : ValveId) (o : Bool) : ((setOutput h v o s).valve h v).output = o := by
  unfold setOutput
  split
  · assumption
  · rw [modValve_valve]; unfold Valve.change; split <;> rfl

/-- Commanding an output leaves every other valve. -/
theorem setOutput_valve_other (h g : HeadId) (v w : ValveId) (o : Bool) (hw : g ≠ h ∨ w ≠ v) :
    (setOutput h v o s).valve g w = s.valve g w := by
  unfold setOutput
  split
  · rfl
  · exact modValve_valve_other s h g v w _ hw

@[simp] theorem setOutput_seq (h g : HeadId) (v : ValveId) (o : Bool) : (setOutput h v o s).seq g = s.seq g := by
  unfold setOutput
  split
  · rfl
  · exact modValve_seq s h g v _

/-- After the interlock has closed one valve, it is closed. -/
theorem interlockCloseOne_output (h : HeadId) (b : Nat) (v : ValveId) :
    ((interlockCloseOne h b v s).valve h v).output = false := by
  unfold interlockCloseOne
  split
  · rw [raiseAlarm_valve]; exact setOutput_output s h v false
  · rename_i hv; exact Bool.eq_false_iff.mpr hv

theorem interlockCloseOne_valve_other (h : HeadId) (b : Nat) (v w : ValveId) (hw : w ≠ v) :
    (interlockCloseOne h b v s).valve h w = s.valve h w := by
  unfold interlockCloseOne
  split
  · rw [raiseAlarm_valve]; exact setOutput_valve_other s h h v w false (.inr hw)
  · rfl

@[simp] theorem interlockCloseOne_seq (h g : HeadId) (b : Nat) (v : ValveId) :
    (interlockCloseOne h b v s).seq g = s.seq g := by
  unfold interlockCloseOne
  split <;> simp

/-- After the interlock has closed the product valves of a head, they are closed. -/
theorem interlockClose_outputs (h : HeadId) (b : Nat) :
    ((interlockClose h b s).valve h .fast).output = false ∧ ((interlockClose h b s).valve h .slow).output = false ∧
      ((interlockClose h b s).valve h .add).output = false := by
  unfold interlockClose
  refine ⟨?_, ?_, interlockCloseOne_output _ h b .add⟩
  · rw [interlockCloseOne_valve_other _ h b .add .fast (by decide), interlockCloseOne_valve_other _ h b .slow .fast (by decide)]
    exact interlockCloseOne_output _ h b .fast
  · rw [interlockCloseOne_valve_other _ h b .add .slow (by decide)]
    exact interlockCloseOne_output _ h b .slow

/-! ### Requests of the sequencer to the drives -/

/-- Clearing the equalised flag of a head whose product outputs are closed afterwards. -/
theorem kept_clearEqualised (h : HeadId) : Kept s (clearEqualised h s) := by
  unfold clearEqualised
  split
  · have h0 := kept_interlockClose (s.modSeq h fun q => { q with equalised := false }) h 0
    refine ⟨fun hi g => ?_, fun a => h0.2 a, fun a => h0.3 a, fun a => h0.4 ?_, fun a => h0.5 a, fun a => h0.6 a, fun a => h0.7 a,
      fun a => h0.8 a⟩
    · by_cases hg : g = h
      · subst hg
        have ho := interlockClose_outputs (s.modSeq g fun q => { q with equalised := false }) g 0
        intro hp
        simp only [State.valve, PerValve.get] at ho
        simp [ho] at hp
      · have hne : ∀ (f : ValveId → ValveId) (t : State) v, (interlockCloseOne h 0 v t).head g = t.head g := by
          intro _ t v
          unfold interlockCloseOne
          split
          · rw [raiseAlarm_head]
            unfold setOutput
            split
            · rfl
            · exact modHead_head_ne _ h g _ hg
          · rfl
        have hh : (interlockClose h 0 (s.modSeq h fun q => { q with equalised := false })).head g = s.head g := by
          unfold interlockClose
          rw [hne id, hne id, hne id]
          exact modHead_head_ne s h g _ hg
        rw [hh]; exact hi g
    · exact (kept_modHead s h (fun x => { x with seq := x.seq }) id id).4 a |> fun _ => by
        intro g m
        by_cases hg : g = h
        · subst hg; simpa [State.modSeq] using a g m
        · simpa [State.modSeq, modHead_head_ne s h g _ hg] using a g m
  · exact Kept.refl s

theorem kept_openProduct (h : HeadId) (v : ValveId) (hv : v = .fast ∨ v = .slow ∨ v = .add) : Kept s (openProduct h v s) := by
  refine Kept.ite (fun _ => kept_raiseAlarm s _ _ _ _) fun he => Kept.ite (fun _ => kept_raiseAlarm s _ _ _ _) fun hs => ?_
  exact kept_setOpen_product s h v hv (by simpa using he) (by simpa using hs)

theorem kept_requestOpen (h : HeadId) (v : ValveId) : Kept s (requestOpen h v s) := by
  refine Kept.ite (fun _ => Kept.refl s) fun _ => ?_
  have h0 : Kept s (s.modValve h v fun x => { x with request := true }) := kept_modValve s h v _ rfl
  refine h0.trans ?_
  cases v
  · exact kept_setOpen_gas _ h
  · exact kept_openProduct _ h .fast (.inl rfl)
  · exact kept_openProduct _ h .slow (.inr (.inl rfl))
  · exact kept_openProduct _ h .add (.inr (.inr rfl))
  · have ho := interlockClose_outputs (s.modValve h .snift fun x => { x with request := true }) h 1
    exact (kept_interlockClose _ h 1).trans (kept_setOpen_snift _ h ho.1 ho.2.1 ho.2.2)

theorem kept_requestClose (h : HeadId) (v : ValveId) : Kept s (requestClose h v s) :=
  (kept_modValve s h v _ rfl).trans (kept_setClosed _ h v)

theorem kept_closeProducts (h : HeadId) : Kept s (closeProducts h s) :=
  ((kept_requestClose s h .fast).trans (kept_requestClose _ h .slow)).trans (kept_requestClose _ h .add)

theorem kept_closeAll (h : HeadId) : Kept s (closeAll h s) :=
  ((kept_requestClose s h .gas).trans (kept_closeProducts _ h)).trans (kept_requestClose _ h .snift)

theorem kept_announceFault (h : HeadId) (v : ValveId) (k : ValveFault) : Kept s (announceFault h v k s) :=
  (kept_raiseAlarm s _ _ _ _).trans (kept_countEvent _ _)

end

end Sys2Proof.Machine
end

