-- ==== Sys2Proof/Laws/KeptCycle.lean ====
section
/-! SUPPORT. What the operations of metering, trace, the head cycle and the Resolver keep (see Kept.lean). -/

namespace Sys2Proof.Machine

variable (s : State)

/-! ### Metering (R114 to R128) -/

theorem kept_pulseSteps (h : HeadId) (m : Meter) : Kept s (pulseSteps h m s) := kept_modChan s h m _

theorem kept_strayPulse (h : HeadId) : Kept s (strayPulse h s) := kept_modHead s h _ id id

theorem kept_cutoffTest (h : HeadId) (m : Meter) : Kept s (cutoffTest h m s) :=
  Kept.ite (fun _ => kept_modChan s h m _) fun _ => Kept.refl s

theorem kept_doseStart (h : HeadId) (m : Meter) : Kept s (doseStart h m s) :=
  Kept.after (kept_cutoffTest _ h m) (kept_modChan s h m _)

theorem kept_cutChannel (h : HeadId) (m : Meter) : Kept s (cutChannel h m s) :=
  Kept.ite (fun _ => kept_modChan s h m _) fun _ => Kept.refl s

theorem kept_cutBoth (h : HeadId) : Kept s (cutBoth h s) := Kept.after (kept_cutChannel _ h .additive) (kept_cutChannel s h .main)

theorem kept_freezeBoth (h : HeadId) : Kept s (freezeBoth h s) := Kept.after (kept_modChan _ h .additive _) (kept_modChan s h .main _)

theorem kept_resetChannels (h : HeadId) : Kept s (resetChannels h s) := kept_modHead s h _ id id

/-- A learned afterflow stays within its maximum (R127). -/
theorem learnedAfter_le (a actual g maxA : Nat) : learnedAfter a actual g maxA ≤ maxA := by
  unfold learnedAfter clampInt
  omega

theorem kept_judgeLearning (h : HeadId) (m : Meter) : Kept s (judgeLearning h m s) := by
  unfold judgeLearning
  dsimp only
  refine Kept.ite (fun _ => Kept.ite (fun _ => ?_) fun _ => ?_) fun _ => kept_modChan s h m _
  · exact Kept.after (kept_raiseAlarm _ _ _ _ _) (kept_modChan s h m _)
  · refine Kept.after (kept_modChan _ h m _) (kept_modTable s h _ fun hb n => ?_)
    by_cases hn : n = m
    · subst hn
      simp only [perMeter_get_set]
      exact learnedAfter_le _ _ _ _
    · rw [perMeter_get_set_ne _ m n _ hn]
      exact hb n

theorem kept_settleEnd (h : HeadId) (m : Meter) (k : EndKind) : Kept s (settleEnd h m k s) :=
  Kept.after (kept_judgeLearning _ h m) (kept_modChan s h m _)

/-! ### Trace (R167 to R169) -/

/-- A change of the descriptors under which two RUNNING ones come only from two RUNNING ones. -/
theorem kept_trace (t : Trace) (h : t.a.state = .running ∧ t.b.state = .running →
    s.trace.a.state = .running ∧ s.trace.b.state = .running) : Kept s { s with trace := t } :=
  ⟨id, id, id, id, fun hn hr => hn (h hr), id, id, id⟩

/-- A tick leaves a descriptor RUNNING only if it was. -/
theorem tick_running (d : Descriptor) (x : Half) (hd : d.state ≠ .running) (c : ScanId) :
    (if d.takes c = true then d.tick x else d).state ≠ .running := by
  have : d.takes c = false := by simp [Descriptor.takes, hd]
  simpa [this] using hd

/-- B is RUNNING after a tick only if it was, or if A has completed. -/
theorem kept_traceTick (c : ScanId) : Kept s (traceTick c s) := by
  unfold traceTick
  dsimp only
  refine kept_trace s _ ?_
  rintro ⟨ha, hb⟩
  have ha' : s.trace.a.state = .running := by
    by_contra hn
    exact tick_running s.trace.a _ hn c ha
  refine ⟨ha', ?_⟩
  by_contra hn
  have hc := tick_running s.trace.b (sampleOf s.trace.b s) hn c
  dsimp only at ha hb hc
  rw [ha] at hb
  simp only [reduceCtorEq, decide_false, Bool.and_false, Bool.false_and, Bool.false_eq_true, if_false] at hb
  exact hc hb

theorem kept_markedFill (h : HeadId) : Kept s (markedFill h s) := by
  unfold markedFill
  dsimp only
  refine kept_trace s _ ?_
  rintro ⟨ha, hb⟩
  dsimp only at ha hb
  rw [ha] at hb
  simp only [ne_eq, not_true_eq_false, decide_false, Bool.and_false, Bool.false_eq_true, if_false] at hb
  refine ⟨?_, hb⟩
  rw [hb] at ha
  simpa using ha

/-! ### The cycle (R93 to R111) -/

theorem kept_judgeFlags (h : HeadId) : Kept s (judgeFlags h s) := by
  unfold judgeFlags
  exact kept_modFlags s h _

theorem kept_sniftIncomplete (h : HeadId) : Kept s (sniftIncomplete h s) := by
  unfold sniftIncomplete
  exact Kept.after (kept_modSeq _ h _ fun _ => rfl) (Kept.after (kept_raiseAlarm _ _ _ _ _) (kept_modFlags s h _))

theorem kept_recordFill (b : Bool) (h : HeadId) : Kept s (recordFill b h s) := by
  unfold recordFill
  split
  · exact Kept.refl s
  · exact Kept.after (kept_modHead _ h _ id id) (Kept.after (kept_countFill _ _ _ _) (kept_placeRecord s h _))

theorem kept_clearCycleItems (h : HeadId) : Kept s (clearCycleItems h s) :=
  Kept.after (kept_clearEqualised _ h) (kept_modSeq s h _ fun _ => rfl)

theorem kept_enterFault (h : HeadId) : Kept s (enterFault h s) := kept_modSeq s h _ fun _ => rfl

theorem kept_endCycle (how : CycleEnd) (h : HeadId) : Kept s (endCycle how h s) := by
  unfold endCycle
  dsimp only
  have h1 := kept_requestClose s h .snift
  have h2 := Kept.after (kept_modSeq _ h (fun q => { q with timer := none }) fun _ => rfl) h1
  have h3 := Kept.after (kept_freezeBoth _ h) h2
  have h4 := Kept.after (kept_judgeFlags _ h) h3
  have h5 := Kept.after (Kept.ite (p := how = .sniftFailed) (fun _ => kept_sniftIncomplete _ h) fun _ => Kept.refl _) h4
  have h6 := Kept.after (kept_recordFill _ (how == .stuckOpen) h) h5
  have h7 := Kept.after (kept_clearCycleItems _ h) h6
  exact Kept.after (Kept.ite (fun _ => kept_enterFault _ h) fun _ => kept_modSeq _ h _ fun _ => rfl) h7

theorem kept_enterEntry (h : HeadId) (e : PhaseEntry) : Kept s (enterEntry h e s) := kept_modSeq s h _ fun _ => rfl

theorem kept_cutoffReached (h : HeadId) (m : Meter) : Kept s (cutoffReached h m s) := by
  unfold cutoffReached
  cases m <;> dsimp only
  · exact Kept.after (kept_modSeq _ h _ fun _ => rfl) (Kept.after (kept_requestClose _ h .slow) (kept_requestClose s h .fast))
  · exact Kept.after (kept_modSeq _ h _ fun _ => rfl) (kept_requestClose s h .add)

theorem kept_fastBand (h : HeadId) : Kept s (fastBand h s) :=
  Kept.ite (fun _ => kept_requestOpen s h .fast) fun _ => kept_requestClose s h .fast

theorem kept_beginSnift (h : HeadId) : Kept s (beginSnift h s) := by
  unfold beginSnift
  refine Kept.ite (fun _ => Kept.refl s) fun _ => ?_
  exact Kept.after (kept_modSeq _ h _ fun _ => rfl) (Kept.after (kept_clearEqualised _ h) (kept_requestClose s h .gas))

theorem kept_startEntry (h : HeadId) (e : PhaseEntry) : Kept s (startEntry h e s).2 := by
  unfold startEntry
  split
  · exact Kept.after (kept_clearEqualised _ h) (Kept.after (kept_requestOpen _ h .snift) (kept_requestOpen s h .gas))
  · dsimp only
    split <;> exact kept_requestOpen s h .gas
  · split
    · exact Kept.refl s
    · dsimp only
      split
      · exact Kept.after (kept_requestOpen _ h .add) (kept_doseStart s h .additive)
      · exact Kept.after (kept_cutoffReached _ h .additive) (kept_doseStart s h .additive)
  · dsimp only
    have h0 : Kept s (if entryMarked h s = true then markedFill h s else s) :=
      Kept.ite (fun _ => kept_markedFill s h) fun _ => Kept.refl s
    generalize (if entryMarked h s = true then markedFill h s else s) = g at h0 ⊢
    have h1 := Kept.after (kept_doseStart _ h .main) h0
    split
    · exact Kept.after (kept_fastBand _ h) (Kept.after (kept_requestOpen _ h .slow) h1)
    · exact Kept.after (kept_cutoffReached _ h .main) h1
  · exact Kept.after (kept_closeProducts _ h) (kept_requestOpen s h .gas)
  · exact Kept.after (kept_requestOpen _ h .snift) (kept_beginSnift s h)

theorem kept_forceSnift (h : HeadId) : Kept s (forceSnift h s) := by
  unfold forceSnift
  dsimp only
  have h1 := kept_modSeq s h (fun q => { q with state := .forcedSnift, progress := .none, timer := none }) fun _ => rfl
  have h2 := Kept.after (kept_requestClose _ h .gas) (Kept.after (kept_clearEqualised _ h) (Kept.after (kept_closeProducts _ h) h1))
  split
  · exact Kept.after (kept_startEntry _ h _) (Kept.after (kept_enterEntry _ h _) (Kept.after (kept_modSeq _ h _ fun _ => rfl) h2))
  · exact h2

theorem kept_takeToSnift (h : HeadId) : Kept s (takeToSnift h s) :=
  Kept.ite (fun _ => kept_modSeq s h _ fun _ => rfl) fun _ => kept_forceSnift s h

theorem kept_abortCycle (h : HeadId) : Kept s (abortCycle h s) :=
  Kept.ite (fun _ => Kept.refl s) fun _ => Kept.after (kept_takeToSnift _ h) (kept_freezeBoth s h)

theorem kept_cutToSnift (h : HeadId) : Kept s (cutToSnift h s) :=
  Kept.ite (fun _ => Kept.refl s) fun _ => Kept.after (kept_takeToSnift _ h) (kept_cutBoth s h)

theorem kept_enterStepHold (h : HeadId) : Kept s (enterStepHold h s) := kept_modSeq s h _ fun _ => rfl

theorem kept_beginEntries (h : HeadId) (es : List PhaseEntry) : Kept s (beginEntries h es s) := by
  induction es generalizing s with
  | nil => exact Kept.refl s
  | cons e rest ih =>
    have h0 := Kept.after (kept_startEntry _ h e) (kept_enterEntry s h e)
    unfold beginEntries
    dsimp only
    split
    · exact h0
    · exact Kept.after (Kept.ite (fun _ => kept_enterStepHold _ h) fun _ => ih _) h0
    · refine Kept.after (Kept.ite (fun _ => ?_) fun _ => kept_abortCycle _ h) h0
      exact Kept.ite (fun _ => kept_enterStepHold _ h) fun _ => ih _

theorem kept_nextEntry (h : HeadId) : Kept s (nextEntry h s) := kept_beginEntries s h _

theorem kept_goOn (h : HeadId) : Kept s (goOn h s) :=
  Kept.ite (fun _ => kept_enterStepHold s h) fun _ => kept_nextEntry s h

theorem kept_failEntry (h : HeadId) (e : PhaseEntry) : Kept s (failEntry h e s) :=
  Kept.ite (fun _ => kept_goOn s h) fun _ => kept_abortCycle s h

theorem kept_resumeStep (h : HeadId) : Kept s (resumeStep h s) := Kept.after (kept_nextEntry _ h) (kept_modSeq s h _ fun _ => rfl)

theorem kept_startCycle (h : HeadId) : Kept s (startCycle h s) :=
  Kept.after (kept_nextEntry _ h) (Kept.after (kept_modSeq _ h _ fun _ => rfl) (kept_resetChannels s h))

theorem kept_sniftSucceeds (h : HeadId) (e : PhaseEntry) : Kept s (sniftSucceeds h e s) := by
  refine Kept.after (Kept.ite (fun _ => kept_endCycle _ _ h) fun _ => ?_) (kept_requestClose s h .snift)
  exact Kept.ite (fun _ => kept_goOn _ h) fun _ => kept_modSeq _ h _ fun _ => rfl

theorem kept_flagTimeout (h : HeadId) : Kept s (flagTimeout h s) := kept_modFlags s h _

theorem kept_timeLimitExpires (h : HeadId) (e : PhaseEntry) : Kept s (timeLimitExpires h e s) := by
  have h0 : Kept s (s.modSeq h fun q => { q with timer := none }) := kept_modSeq s h _ fun _ => rfl
  unfold timeLimitExpires
  dsimp only
  split
  · exact Kept.after (kept_goOn _ h) (Kept.after (kept_requestClose _ h .snift) (Kept.after (kept_requestClose _ h .gas) h0))
  · exact Kept.after (kept_failEntry _ h e) (Kept.after (kept_flagTimeout _ h) h0)
  · exact Kept.after (kept_failEntry _ h e) (Kept.after (kept_cutChannel _ h _) (Kept.after (kept_flagTimeout _ h) (Kept.after (kept_requestClose _ h .add) h0)))
  · exact Kept.after (kept_failEntry _ h e) (Kept.after (kept_cutChannel _ h _) (Kept.after (kept_flagTimeout _ h) (Kept.after (kept_requestClose _ h .slow) (Kept.after (kept_requestClose _ h .fast) h0))))
  · exact Kept.after (kept_goOn _ h) h0
  · have h1 := Kept.after (kept_flagTimeout _ h) (Kept.after (kept_requestClose _ h .snift) h0)
    split
    · exact Kept.after (kept_endCycle _ _ h) h1
    · exact Kept.after (kept_nextEntry _ h) h1

theorem kept_setFaultPending (h : HeadId) : Kept s (setFaultPending h s) := kept_modSeq s h _ fun _ => rfl

theorem kept_burstConfirmed (h : HeadId) (p b : Nat) : Kept s (burstConfirmed h p b s) :=
  Kept.after (kept_abortCycle _ h) (Kept.after (kept_modSeq _ h _ fun _ => rfl) (Kept.after (kept_countEvent _ _) (Kept.after (kept_raiseAlarm _ _ _ _ _) (kept_closeProducts s h))))

theorem kept_burstTest (h : HeadId) (sound : Bool) (p b : Nat) : Kept s (burstTest h sound p b s) := by
  unfold burstTest
  dsimp only
  refine Kept.ite (fun _ => ?_) fun _ => Kept.refl s
  refine Kept.ite (fun _ => ?_) fun _ => kept_modSeq s h _ fun _ => rfl
  exact Kept.after (kept_burstConfirmed _ h p b) (kept_modSeq s h _ fun _ => rfl)

theorem kept_takeConversion (h : HeadId) (sound : Bool) : Kept s (takeConversion h sound s) := by
  unfold takeConversion
  dsimp only
  refine Kept.ite (fun _ => ?_) fun _ => Kept.refl s
  split
  · exact Kept.refl s
  · split
    · exact Kept.refl s
    · refine Kept.ite (fun _ => ?_) fun _ => Kept.refl s
      refine Kept.ite (fun _ => ?_) fun _ => kept_modSeq s h _ fun _ => rfl
      exact Kept.after (kept_goOn _ h) (Kept.after (kept_setEqualised _ h) (kept_modSeq s h _ fun _ => rfl))
    · refine Kept.ite (fun _ => ?_) fun _ => Kept.refl s
      refine Kept.ite (fun _ => ?_) fun _ => kept_modSeq s h _ fun _ => rfl
      exact Kept.after (kept_sniftSucceeds _ h _) (kept_modSeq s h _ fun _ => rfl)
    · exact kept_burstTest s h _ _ _
    · exact kept_burstTest s h _ _ _
    · exact kept_burstTest s h _ _ _

theorem kept_takeSensorFault (h : HeadId) : Kept s (takeSensorFault h s) := by
  unfold takeSensorFault
  split
  · exact Kept.refl s
  · refine Kept.ite (fun _ => ?_) fun _ => Kept.refl s
    exact Kept.after (kept_failEntry _ h _) (kept_modSeq s h _ fun _ => rfl)

theorem kept_takePulse (h : HeadId) (m : Meter) : Kept s (takePulse h m s) := by
  unfold takePulse
  split
  · exact kept_strayPulse s h
  · exact kept_strayPulse s h
  · exact Kept.after (kept_modChan _ h m _) (kept_pulseSteps s h m)
  · dsimp only
    have h0 := Kept.after (kept_cutoffTest _ h m) (kept_pulseSteps s h m)
    refine Kept.after (Kept.ite (fun _ => kept_cutoffReached _ h m) fun _ => ?_) h0
    cases m
    · exact kept_fastBand _ h
    · exact Kept.refl _

theorem kept_takeSettleEnd (h : HeadId) (m : Meter) (k : EndKind) : Kept s (takeSettleEnd h m k s) :=
  Kept.after (Kept.ite (fun _ => kept_goOn _ h) fun _ => Kept.refl _) (kept_settleEnd s h m k)

theorem kept_takeDFill (h : HeadId) : Kept s (takeDFill h s) := by
  unfold takeDFill
  refine Kept.ite (fun _ => Kept.after (kept_cutToSnift _ h) (kept_modFlags s h _)) fun _ => ?_
  refine Kept.ite (fun _ => ?_) fun _ => Kept.refl s
  exact Kept.after (kept_modSeq _ h _ fun _ => rfl) (Kept.after (kept_cutBoth _ h) (Kept.after (kept_modFlags _ h _) (kept_closeProducts s h)))

theorem kept_takeDSnift (h : HeadId) : Kept s (takeDSnift h s) :=
  Kept.ite (fun _ => Kept.after (kept_cutToSnift _ h) (kept_modFlags s h _)) fun _ => Kept.refl s

theorem kept_takeDRelease (h : HeadId) : Kept s (takeDRelease h s) := by
  unfold takeDRelease
  refine Kept.after (kept_endCycle _ _ h) (Kept.after (kept_modFlags _ h _) (Kept.after (kept_raiseAlarm _ _ _ _ _) ?_))
  exact Kept.after (kept_freezeBoth _ h) (Kept.after (kept_modSeq _ h _ fun _ => rfl) (kept_closeAll s h))

theorem kept_testDeadline (h : HeadId) (d : Deadlines → Nat) (act : HeadId → State → State) (ha : ∀ s, Kept s (act h s)) :
    Kept s (testDeadline h d act s) :=
  Kept.ite (fun _ => ha s) fun _ => Kept.refl s

theorem kept_takeDeadlines (h : HeadId) : Kept s (takeDeadlines h s) :=
  Kept.after (kept_testDeadline _ h _ _ fun s => kept_takeDRelease s h) (Kept.after (kept_testDeadline _ h _ _ fun s => kept_takeDSnift s h) (kept_testDeadline s h _ _ fun s => kept_takeDFill s h))

theorem kept_stuckOpenEnd (h : HeadId) : Kept s (stuckOpenEnd h s) := by
  unfold stuckOpenEnd
  refine Kept.after (kept_endCycle _ _ h) (Kept.after (kept_freezeBoth _ h) (Kept.after (kept_modSeq _ h _ fun _ => rfl) ?_))
  refine Kept.after (kept_clearEqualised _ h) (Kept.after (kept_closeProducts _ h) ?_)
  exact Kept.after (kept_requestClose _ h .snift) (kept_requestClose s h .gas)

theorem kept_takeValveFault (h : HeadId) (v : ValveId) (k : ValveFault) : Kept s (takeValveFault h v k s) := by
  refine Kept.ite (fun _ => ?_) fun _ => Kept.refl s
  split
  · exact kept_stuckOpenEnd s h
  · exact kept_stuckOpenEnd s h
  · exact kept_stuckOpenEnd s h
  · exact Kept.after (kept_abortCycle _ h) (kept_setFaultPending s h)
  · exact Kept.after (kept_abortCycle _ h) (kept_setFaultPending s h)
  · exact Kept.after (kept_abortCycle _ h) (kept_setFaultPending s h)
  · exact kept_setFaultPending s h
  · exact Kept.refl s

theorem kept_valveFault (h : HeadId) (v : ValveId) (k : ValveFault) : Kept s (valveFault h v k s) :=
  Kept.after (kept_takeValveFault _ h v k) (kept_announceFault s h v k)

/-- Taking a level leaves the commanded output (R149). -/
theorem takeLevel_output (v : Valve) : v.takeLevel.1.output = v.output := by
  unfold Valve.takeLevel
  dsimp only
  split
  · rfl
  · split
    · rfl
    · split <;> rfl

theorem kept_takeFeedback (h : HeadId) (v : ValveId) : Kept s (takeFeedback h v s) :=
  Kept.after (Kept.ite (fun _ => kept_valveFault _ h v _) fun _ => Kept.refl _) (kept_modValve s h v _ (takeLevel_output _))

theorem kept_markOvertaken (h : HeadId) : Kept s (markOvertaken h s) := Kept.same rfl rfl rfl rfl rfl rfl

theorem kept_takeRingLoss (h : HeadId) : Kept s (takeRingLoss h s) := by
  unfold takeRingLoss
  split
  · exact kept_modSeq s h _ fun _ => rfl
  · exact kept_markOvertaken s h
  · exact Kept.after (kept_cutToSnift _ h) (kept_modFlags s h _)
  · exact Kept.after (kept_cutToSnift _ h) (kept_modFlags s h _)
  · exact kept_modFlags s h _
  · exact Kept.refl s
  · exact Kept.refl s
  · exact Kept.refl s

theorem kept_releaseHeld : Kept s (releaseHeld s) := by
  refine kept_mapHeads s _ (fun x => ?_) fun x => ?_
  · split <;> exact id
  · split <;> exact id

theorem kept_endStepMode (h : HeadId) : Kept s (endStepMode h s) :=
  Kept.after (Kept.ite (fun _ => kept_resumeStep _ h) fun _ => Kept.refl _) (kept_modSeq s h _ fun _ => rfl)

/-! ### The Resolver (R77 to R88) -/

theorem kept_beginResolution : Kept s (beginResolution s) := by
  unfold beginResolution
  split
  · exact Kept.same rfl rfl rfl rfl rfl rfl
  · exact Kept.refl s

theorem kept_requestResolution (h : HeadId) (recipe : Nat) : Kept s (requestResolution h recipe s) :=
  Kept.after (kept_beginResolution _) (Kept.same rfl rfl rfl rfl rfl rfl)

/-- Reseeding clamps the seeds to the maxima (R83). -/
theorem reseed_bounded (named : Nat) (seed : PerMeter Nat) (t : HeadRecord) (ht : t.bounded) : (t.reseed named seed).bounded := by
  unfold HeadRecord.reseed
  split
  · exact ht
  · intro m
    cases m
    · exact Nat.min_le_right _ _
    · exact Nat.min_le_right _ _

theorem kept_writeCycle (h : HeadId) (named : Nat) (c : CycleRecord) : Kept s (writeCycle h named c s) :=
  kept_modHead s h _ id (reseed_bounded named _ _)

theorem kept_resolutionNotServed (h : HeadId) (r : NotServedReason) (a b : Nat) : Kept s (resolutionNotServed h r a b s) := by
  unfold resolutionNotServed
  exact Kept.after (kept_modSeq _ h _ fun _ => rfl) (Kept.after (kept_countNotServed _ _ _) (kept_placeRecord s h _))

theorem kept_startOrDecline (h : HeadId) (o : Bool) : Kept s (startOrDecline h o s) := by
  unfold startOrDecline
  split
  · exact kept_resolutionNotServed s h _ _ _
  · exact kept_startCycle s h

theorem kept_clearResolution : Kept s (clearResolution s) := Kept.same rfl rfl rfl rfl rfl rfl

theorem kept_completeResolution : Kept s (completeResolution s) := by
  unfold completeResolution
  split
  · exact Kept.refl s
  · dsimp only
    split
    · exact Kept.after (kept_beginResolution _) (Kept.after (kept_clearResolution _) (kept_resolutionNotServed s _ _ _ _))
    · exact Kept.after (kept_beginResolution _) (Kept.after (kept_clearResolution _) (Kept.after (kept_startOrDecline _ _ _) (kept_writeCycle s _ _ _)))
    · exact Kept.refl s
    · exact Kept.refl s
    · exact Kept.refl s

end Sys2Proof.Machine
end

