-- ==== Sys2Proof/Laws/HeadWork.lean ====
section
/-! SUPPORT. The frame of a head's own work: `HeadWork h s t` says what the operations of one head's valves, channels and
cycle leave of a state, so that no proof opens them to find it. One lemma for each operation, in the order of the model's
files. -/

namespace Sys2Proof.Machine

/-- `t` comes from `s` by work of head `h`: every other head stands, and of head `h` all but its sequencer, channels, valves,
learned afterflows and last additive volume; of the node only records, totals, the counts of lost records and bursts, and
trace descriptors that wait for a marked fill may have changed; and no record has left. -/
structure HeadWork (h : HeadId) (s t : State) : Prop where
  others : ∀ k, k ≠ h → t.head k = s.head k
  node : t = { s with heads := t.heads, orq := t.orq, counters := t.counters, totals := t.totals, trace := t.trace }
  own : t.head h =
    { s.head h with
      seq := (t.head h).seq
      chan := (t.head h).chan
      valves := (t.head h).valves
      table := { (s.head h).table with learned := (t.head h).table.learned }
      lastAdditive := (t.head h).lastAdditive }
  elapsed : (t.seq h).elapsed = (s.seq h).elapsed
  counters : ∀ c, c ≠ .recordsLost → c ≠ .bursts → t.counter c = s.counter c
  records : ∃ l, t.orq.records = s.orq.records ++ l
  running : ∀ b, (s.trace.get b).state = .running → t.trace.get b = s.trace.get b
  linked : ∀ b, (s.trace.get b).link = true → t.trace.get b = s.trace.get b

namespace HeadWork

variable {h : HeadId} {s t u : State}

theorem refl (h : HeadId) (s : State) : HeadWork h s s :=
  ⟨fun _ _ => rfl, rfl, rfl, rfl, fun _ _ _ => rfl, ⟨[], (List.append_nil _).symm⟩, fun _ _ => rfl, fun _ _ => rfl⟩

theorem trans (a : HeadWork h s t) (b : HeadWork h t u) : HeadWork h s u := by
  refine ⟨fun k hk => (b.others k hk).trans (a.others k hk), ?_, ?_, b.elapsed.trans a.elapsed,
    fun c h1 h2 => (b.counters c h1 h2).trans (a.counters c h1 h2), ?_, fun x hx => ?_, fun x hx => ?_⟩
  · have h1 := b.node
    have h2 := a.node
    rw [h2] at h1
    exact h1
  · have h1 := b.own
    rw [a.own] at h1
    exact h1
  · obtain ⟨l, hl⟩ := a.records
    obtain ⟨m, hm⟩ := b.records
    exact ⟨l ++ m, by rw [hm, hl, List.append_assoc]⟩
  · have h1 := a.running x hx
    exact (b.running x (by rw [h1]; exact hx)).trans h1
  · have h1 := a.linked x hx
    exact (b.linked x (by rw [h1]; exact hx)).trans h1

/-- The last change first: its start is then known where the change before it is looked at. -/
theorem after (b : HeadWork h t u) (a : HeadWork h s t) : HeadWork h s u := a.trans b

theorem ite {p : Prop} [Decidable p] {a b : State} (ha : p → HeadWork h s a) (hb : ¬p → HeadWork h s b) :
    HeadWork h s (if p then a else b) := by
  by_cases hp : p
  · simpa [hp] using ha hp
  · simpa [hp] using hb hp

/-- A change of what the records, their losses and their totals hold. -/
theorem ofRecords (ho : t = { s with orq := t.orq, counters := t.counters, totals := t.totals })
    (hc : ∀ c, c ≠ .recordsLost → c ≠ .bursts → t.counter c = s.counter c) (hr : ∃ l, t.orq.records = s.orq.records ++ l) :
    HeadWork h s t := by
  have hh : t.heads = s.heads := by rw [ho]
  have ht : t.trace = s.trace := by rw [ho]
  have hd : ∀ k, t.head k = s.head k := fun k => by simp only [State.head, hh]
  refine ⟨fun k _ => hd k, ?_, ?_, by simp only [State.seq, hd], hc, hr, fun b _ => by rw [ht], fun b _ => by rw [ht]⟩
  · rw [hh, ht]; exact ho
  · rw [hd]

/-- What one head's work leaves of the parts that it never changes. -/
theorem ring (w : HeadWork h s t) : t.ring = s.ring := by rw [w.node]

theorem pitch (w : HeadWork h s t) : t.pitch = s.pitch := by rw [w.node]

theorem queue (w : HeadWork h s t) : t.queue = s.queue := by rw [w.node]

theorem tables (w : HeadWork h s t) : t.tables = s.tables := by rw [w.node]

theorem settings (w : HeadWork h s t) : t.settings = s.settings := by rw [w.node]

theorem resolver (w : HeadWork h s t) : t.resolver = s.resolver := by rw [w.node]

theorem scanner (w : HeadWork h s t) : t.scanner = s.scanner := by rw [w.node]

theorem now (w : HeadWork h s t) : t.now = s.now := by rw [w.node]

theorem cycle (w : HeadWork h s t) (k : HeadId) : (t.head k).cycle = (s.head k).cycle := by
  by_cases hk : k = h
  · subst hk; rw [w.own]
  · rw [w.others k hk]

theorem scan (w : HeadWork h s t) (k : HeadId) : (t.head k).scan = (s.head k).scan := by
  by_cases hk : k = h
  · subst hk; rw [w.own]
  · rw [w.others k hk]

end HeadWork

variable (s : State)

/-! ### Changes of one head -/

/-- A change of head `h` in the parts that its work may change. -/
theorem work_modHead (h : HeadId) (f : Head → Head)
    (hf : f (s.head h) =
      { s.head h with
        seq := (f (s.head h)).seq
        chan := (f (s.head h)).chan
        valves := (f (s.head h)).valves
        table := { (s.head h).table with learned := (f (s.head h)).table.learned }
        lastAdditive := (f (s.head h)).lastAdditive })
    (he : (f (s.head h)).seq.elapsed = (s.seq h).elapsed) : HeadWork h s (s.modHead h f) := by
  refine ⟨fun k hk => modHead_head_ne s h k f hk, rfl, ?_, ?_, fun _ _ _ => rfl, ⟨[], (List.append_nil _).symm⟩,
    fun _ _ => rfl, fun _ _ => rfl⟩
  · rw [modHead_head]; exact hf
  · simp only [State.seq, modHead_head]; exact he

theorem work_modSeq (h : HeadId) (f : Sequencer → Sequencer) (he : ∀ q, (f q).elapsed = q.elapsed) :
    HeadWork h s (s.modSeq h f) :=
  work_modHead s h _ rfl (he _)

theorem work_modFlags (h : HeadId) (f : CycleFlags → CycleFlags) : HeadWork h s (s.modFlags h f) :=
  work_modSeq s h _ fun _ => rfl

theorem work_modValve (h : HeadId) (v : ValveId) (f : Valve → Valve) : HeadWork h s (s.modValve h v f) :=
  work_modHead s h _ rfl rfl

theorem work_modChan (h : HeadId) (m : Meter) (f : Channel → Channel) : HeadWork h s (s.modChan h m f) :=
  work_modHead s h _ rfl rfl

/-! ### Records and totals (R154 to R163) -/

theorem work_setLost (h : HeadId) (v : Half) : HeadWork h s (setCounter .recordsLost v s) :=
  HeadWork.ofRecords rfl (fun c hc _ => setCounter_counter_ne s _ c v hc) ⟨[], (List.append_nil _).symm⟩

theorem work_appendRecord (h : HeadId) (r : Record) : HeadWork h s (appendRecord r s) :=
  HeadWork.ofRecords rfl (fun _ _ _ => rfl) ⟨_, rfl⟩

theorem work_setLostFlag (h : HeadId) : HeadWork h s { s with orq := { s.orq with lost := true } } :=
  HeadWork.ofRecords rfl (fun _ _ _ => rfl) ⟨[], (List.append_nil _).symm⟩

theorem work_loseRecord (h : HeadId) : HeadWork h s (loseRecord s) := by
  unfold loseRecord
  refine HeadWork.after (work_setLostFlag _ h) (HeadWork.ite (fun _ => ?_) fun _ => work_setLost s h _)
  exact HeadWork.after (HeadWork.ite (fun _ => work_appendRecord _ h _) fun _ => work_setLost _ h _) (work_setLost s h 0#16)

theorem work_enterUnreserved (h : HeadId) (r : Record) : HeadWork h s (enterUnreserved r s) :=
  HeadWork.ite (fun _ => work_appendRecord s h r) fun _ => work_loseRecord s h

theorem work_raiseAlarm (h : HeadId) (c : AlarmCode) (head : Byte) (a b : Nat) : HeadWork h s (raiseAlarm c head a b s) :=
  work_enterUnreserved s h _

theorem work_countBurst (h : HeadId) : HeadWork h s (countEvent .bursts s) := by
  have hset : ∀ v, HeadWork h s (setCounter .bursts v s) := fun v =>
    HeadWork.ofRecords rfl (fun c _ hc => setCounter_counter_ne s _ c v hc) ⟨[], (List.append_nil _).symm⟩
  exact HeadWork.ite (fun _ => HeadWork.after (work_raiseAlarm _ h _ _ _ _) (hset _)) fun _ => hset _

theorem work_placeRecord (h : HeadId) (r : Record) : HeadWork h s (placeRecord h r s) := by
  have h1 : HeadWork h s (s.modSeq h fun q => { q with reserved := false }) := work_modSeq s h _ fun _ => rfl
  refine HeadWork.ite (fun _ => HeadWork.after (work_enterUnreserved _ h r) h1) fun _ => ?_
  exact h1.trans (HeadWork.ofRecords rfl (fun _ _ _ => rfl) ⟨[if s.orq.lost then r.markLost else r], rfl⟩)

theorem work_modTotals (h : HeadId) (recipe : Nat) (f : TotalsRow → TotalsRow) : HeadWork h s (modTotals recipe f s) := by
  unfold modTotals
  split
  · exact HeadWork.ofRecords rfl (fun _ _ _ => rfl) ⟨[], (List.append_nil _).symm⟩
  · exact HeadWork.refl h s

theorem work_countFill (h : HeadId) (recipe : Nat) (o : FillOutcome) (v : Nat) : HeadWork h s (countFill recipe o v s) :=
  work_modTotals s h _ _

/-! ### Valves (R145 to R151) -/

theorem work_setOutput (h : HeadId) (v : ValveId) (o : Bool) : HeadWork h s (setOutput h v o s) :=
  HeadWork.ite (fun _ => HeadWork.refl h s) fun _ => work_modValve s h v _

theorem work_interlockCloseOne (h : HeadId) (b : Nat) (v : ValveId) : HeadWork h s (interlockCloseOne h b v s) :=
  HeadWork.ite (fun _ => HeadWork.after (work_raiseAlarm _ h _ _ _ _) (work_setOutput s h v false)) fun _ => HeadWork.refl h s

theorem work_interlockClose (h : HeadId) (b : Nat) : HeadWork h s (interlockClose h b s) :=
  HeadWork.after (work_interlockCloseOne _ h b .add)
    (HeadWork.after (work_interlockCloseOne _ h b .slow) (work_interlockCloseOne s h b .fast))

theorem work_clearEqualised (h : HeadId) : HeadWork h s (clearEqualised h s) :=
  HeadWork.ite (fun _ => HeadWork.after (work_interlockClose _ h 0) (work_modSeq s h _ fun _ => rfl)) fun _ => HeadWork.refl h s

theorem work_openProduct (h : HeadId) (v : ValveId) : HeadWork h s (openProduct h v s) :=
  HeadWork.ite (fun _ => work_raiseAlarm s h _ _ _ _) fun _ =>
    HeadWork.ite (fun _ => work_raiseAlarm s h _ _ _ _) fun _ => work_setOutput s h v true

theorem work_requestOpen (h : HeadId) (v : ValveId) : HeadWork h s (requestOpen h v s) := by
  have h0 : HeadWork h s (s.modValve h v fun x => { x with request := true }) := work_modValve s h v _
  refine HeadWork.ite (fun _ => HeadWork.refl h s) fun _ => h0.trans ?_
  cases v
  · exact work_setOutput _ h .gas true
  · exact work_openProduct _ h .fast
  · exact work_openProduct _ h .slow
  · exact work_openProduct _ h .add
  · exact HeadWork.after (work_setOutput _ h .snift true) (work_interlockClose _ h 1)

theorem work_requestClose (h : HeadId) (v : ValveId) : HeadWork h s (requestClose h v s) :=
  HeadWork.after (work_setOutput _ h v false) (work_modValve s h v _)

theorem work_closeProducts (h : HeadId) : HeadWork h s (closeProducts h s) :=
  HeadWork.after (work_requestClose _ h .add) (HeadWork.after (work_requestClose _ h .slow) (work_requestClose s h .fast))

theorem work_closeAll (h : HeadId) : HeadWork h s (closeAll h s) :=
  HeadWork.after (work_requestClose _ h .snift) (HeadWork.after (work_closeProducts _ h) (work_requestClose s h .gas))

/-! ### Metering (R114 to R128) -/

theorem work_cutoffTest (h : HeadId) (m : Meter) : HeadWork h s (cutoffTest h m s) :=
  HeadWork.ite (fun _ => work_modChan s h m _) fun _ => HeadWork.refl h s

theorem work_doseStart (h : HeadId) (m : Meter) : HeadWork h s (doseStart h m s) :=
  HeadWork.after (work_cutoffTest _ h m) (work_modChan s h m _)

theorem work_cutChannel (h : HeadId) (m : Meter) : HeadWork h s (cutChannel h m s) :=
  HeadWork.ite (fun _ => work_modChan s h m _) fun _ => HeadWork.refl h s

theorem work_cutBoth (h : HeadId) : HeadWork h s (cutBoth h s) :=
  HeadWork.after (work_cutChannel _ h .additive) (work_cutChannel s h .main)

theorem work_freezeBoth (h : HeadId) : HeadWork h s (freezeBoth h s) :=
  HeadWork.after (work_modChan _ h .additive _) (work_modChan s h .main _)

theorem work_resetChannels (h : HeadId) : HeadWork h s (resetChannels h s) := work_modHead s h _ rfl rfl

theorem work_judgeLearning (h : HeadId) (m : Meter) : HeadWork h s (judgeLearning h m s) := by
  unfold judgeLearning
  refine HeadWork.ite (fun _ => HeadWork.ite (fun _ => ?_) fun _ => ?_) fun _ => work_modChan s h m _
  · exact HeadWork.after (work_raiseAlarm _ h _ _ _ _) (work_modChan s h m _)
  · exact HeadWork.after (work_modChan _ h m _) (work_modHead s h _ rfl rfl)

theorem work_settleEnd (h : HeadId) (m : Meter) (k : EndKind) : HeadWork h s (settleEnd h m k s) :=
  HeadWork.after (work_judgeLearning _ h m) (work_modChan s h m _)

/-! ### Marked fills (R169) -/

/-- A marked fill starts only descriptors that wait for one. -/
theorem work_markedFill (h : HeadId) : HeadWork h s (markedFill h s) := by
  refine ⟨fun _ _ => rfl, rfl, rfl, rfl, fun _ _ _ => rfl, ⟨[], (List.append_nil _).symm⟩, ?_, ?_⟩
  · intro b hb
    cases b
    · have : s.trace.a.awaits h = false := by
        have hs : s.trace.a.state = .running := hb
        simp [Descriptor.awaits, hs]
      simp [markedFill, Trace.get, this]
    · have : s.trace.b.awaits h = false := by
        have hs : s.trace.b.state = .running := hb
        simp [Descriptor.awaits, hs]
      simp [markedFill, Trace.get, this]
  · intro b hb
    cases b
    · have : s.trace.a.awaits h = false := by
        have hs : s.trace.a.link = true := hb
        simp [Descriptor.awaits, hs]
      simp [markedFill, Trace.get, this]
    · have : s.trace.b.awaits h = false := by
        have hs : s.trace.b.link = true := hb
        simp [Descriptor.awaits, hs]
      simp [markedFill, Trace.get, this]

/-! ### The cycle (R93 to R111) -/

theorem work_judgeFlags (h : HeadId) : HeadWork h s (judgeFlags h s) := by
  unfold judgeFlags
  exact work_modFlags s h _

theorem work_sniftIncomplete (h : HeadId) : HeadWork h s (sniftIncomplete h s) := by
  unfold sniftIncomplete
  exact HeadWork.after (work_modSeq _ h _ fun _ => rfl) (HeadWork.after (work_raiseAlarm _ h _ _ _ _) (work_modFlags s h _))

theorem work_recordFill (b : Bool) (h : HeadId) : HeadWork h s (recordFill b h s) := by
  unfold recordFill
  split
  · exact HeadWork.refl h s
  · exact HeadWork.after (work_modHead _ h _ rfl rfl) (HeadWork.after (work_countFill _ h _ _ _) (work_placeRecord s h _))

theorem work_clearCycleItems (h : HeadId) : HeadWork h s (clearCycleItems h s) :=
  HeadWork.after (work_clearEqualised _ h) (work_modSeq s h _ fun _ => rfl)

theorem work_enterFault (h : HeadId) : HeadWork h s (enterFault h s) := work_modSeq s h _ fun _ => rfl

theorem work_endCycle (how : CycleEnd) (h : HeadId) : HeadWork h s (endCycle how h s) := by
  unfold endCycle
  have h1 := work_requestClose s h .snift
  have h2 := HeadWork.after (work_modSeq _ h (fun q => { q with timer := none }) fun _ => rfl) h1
  have h3 := HeadWork.after (work_freezeBoth _ h) h2
  have h4 := HeadWork.after (work_judgeFlags _ h) h3
  have h5 := HeadWork.after
    (HeadWork.ite (p := how = .sniftFailed) (fun _ => work_sniftIncomplete _ h) fun _ => HeadWork.refl h _) h4
  have h6 := HeadWork.after (work_recordFill _ (how == .stuckOpen) h) h5
  have h7 := HeadWork.after (work_clearCycleItems _ h) h6
  exact HeadWork.after (HeadWork.ite (fun _ => work_enterFault _ h) fun _ => work_modSeq _ h _ fun _ => rfl) h7

theorem work_enterEntry (h : HeadId) (e : PhaseEntry) : HeadWork h s (enterEntry h e s) := work_modSeq s h _ fun _ => rfl

theorem work_cutoffReached (h : HeadId) (m : Meter) : HeadWork h s (cutoffReached h m s) := by
  unfold cutoffReached
  cases m
  · exact HeadWork.after (work_modSeq _ h _ fun _ => rfl)
      (HeadWork.after (work_requestClose _ h .slow) (work_requestClose s h .fast))
  · exact HeadWork.after (work_modSeq _ h _ fun _ => rfl) (work_requestClose s h .add)

theorem work_fastBand (h : HeadId) : HeadWork h s (fastBand h s) :=
  HeadWork.ite (fun _ => work_requestOpen s h .fast) fun _ => work_requestClose s h .fast

theorem work_beginSnift (h : HeadId) : HeadWork h s (beginSnift h s) := by
  refine HeadWork.ite (fun _ => HeadWork.refl h s) fun _ => ?_
  exact HeadWork.after (work_modSeq _ h _ fun _ => rfl) (HeadWork.after (work_clearEqualised _ h) (work_requestClose s h .gas))

theorem work_startEntry (h : HeadId) (e : PhaseEntry) : HeadWork h s (startEntry h e s).2 := by
  unfold startEntry
  split
  · exact HeadWork.after (work_clearEqualised _ h) (HeadWork.after (work_requestOpen _ h .snift) (work_requestOpen s h .gas))
  · dsimp only
    split <;> exact work_requestOpen s h .gas
  · split
    · exact HeadWork.refl h s
    · dsimp only
      split
      · exact HeadWork.after (work_requestOpen _ h .add) (work_doseStart s h .additive)
      · exact HeadWork.after (work_cutoffReached _ h .additive) (work_doseStart s h .additive)
  · dsimp only
    have h0 : HeadWork h s (if entryMarked h s = true then markedFill h s else s) :=
      HeadWork.ite (fun _ => work_markedFill s h) fun _ => HeadWork.refl h s
    generalize (if entryMarked h s = true then markedFill h s else s) = g at h0 ⊢
    have h1 := HeadWork.after (work_doseStart _ h .main) h0
    split
    · exact HeadWork.after (work_fastBand _ h) (HeadWork.after (work_requestOpen _ h .slow) h1)
    · exact HeadWork.after (work_cutoffReached _ h .main) h1
  · exact HeadWork.after (work_closeProducts _ h) (work_requestOpen s h .gas)
  · exact HeadWork.after (work_requestOpen _ h .snift) (work_beginSnift s h)

theorem work_forceSnift (h : HeadId) : HeadWork h s (forceSnift h s) := by
  unfold forceSnift
  dsimp only
  have h1 := work_modSeq s h (fun q => { q with state := .forcedSnift, progress := .none, timer := none }) fun _ => rfl
  have h2 := HeadWork.after (work_requestClose _ h .gas)
    (HeadWork.after (work_clearEqualised _ h) (HeadWork.after (work_closeProducts _ h) h1))
  split
  · exact HeadWork.after (work_startEntry _ h _)
      (HeadWork.after (work_enterEntry _ h _) (HeadWork.after (work_modSeq _ h _ fun _ => rfl) h2))
  · exact h2

theorem work_takeToSnift (h : HeadId) : HeadWork h s (takeToSnift h s) :=
  HeadWork.ite (fun _ => work_modSeq s h _ fun _ => rfl) fun _ => work_forceSnift s h

theorem work_abortCycle (h : HeadId) : HeadWork h s (abortCycle h s) :=
  HeadWork.ite (fun _ => HeadWork.refl h s) fun _ => HeadWork.after (work_takeToSnift _ h) (work_freezeBoth s h)

theorem work_cutToSnift (h : HeadId) : HeadWork h s (cutToSnift h s) :=
  HeadWork.ite (fun _ => HeadWork.refl h s) fun _ => HeadWork.after (work_takeToSnift _ h) (work_cutBoth s h)

theorem work_enterStepHold (h : HeadId) : HeadWork h s (enterStepHold h s) := work_modSeq s h _ fun _ => rfl

theorem work_beginEntries (h : HeadId) (es : List PhaseEntry) : HeadWork h s (beginEntries h es s) := by
  induction es generalizing s with
  | nil => exact HeadWork.refl h s
  | cons e rest ih =>
    have h0 := HeadWork.after (work_startEntry _ h e) (work_enterEntry s h e)
    unfold beginEntries
    dsimp only
    split
    · exact h0
    · exact HeadWork.after (HeadWork.ite (fun _ => work_enterStepHold _ h) fun _ => ih _) h0
    · refine HeadWork.after (HeadWork.ite (fun _ => ?_) fun _ => work_abortCycle _ h) h0
      exact HeadWork.ite (fun _ => work_enterStepHold _ h) fun _ => ih _

theorem work_nextEntry (h : HeadId) : HeadWork h s (nextEntry h s) := work_beginEntries s h _

theorem work_goOn (h : HeadId) : HeadWork h s (goOn h s) :=
  HeadWork.ite (fun _ => work_enterStepHold s h) fun _ => work_nextEntry s h

theorem work_failEntry (h : HeadId) (e : PhaseEntry) : HeadWork h s (failEntry h e s) :=
  HeadWork.ite (fun _ => work_goOn s h) fun _ => work_abortCycle s h

theorem work_resumeStep (h : HeadId) : HeadWork h s (resumeStep h s) :=
  HeadWork.after (work_nextEntry _ h) (work_modSeq s h _ fun _ => rfl)

theorem work_startCycle (h : HeadId) : HeadWork h s (startCycle h s) :=
  HeadWork.after (work_nextEntry _ h) (HeadWork.after (work_modSeq _ h _ fun _ => rfl) (work_resetChannels s h))

theorem work_sniftSucceeds (h : HeadId) (e : PhaseEntry) : HeadWork h s (sniftSucceeds h e s) := by
  refine HeadWork.after (HeadWork.ite (fun _ => work_endCycle _ _ h) fun _ => ?_) (work_requestClose s h .snift)
  exact HeadWork.ite (fun _ => work_goOn _ h) fun _ => work_modSeq _ h _ fun _ => rfl

theorem work_flagTimeout (h : HeadId) : HeadWork h s (flagTimeout h s) := work_modFlags s h _

theorem work_timeLimitExpires (h : HeadId) (e : PhaseEntry) : HeadWork h s (timeLimitExpires h e s) := by
  have h0 : HeadWork h s (s.modSeq h fun q => { q with timer := none }) := work_modSeq s h _ fun _ => rfl
  unfold timeLimitExpires
  dsimp only
  split
  · exact HeadWork.after (work_goOn _ h) (HeadWork.after (work_requestClose _ h .snift) (HeadWork.after (work_requestClose _ h .gas) h0))
  · exact HeadWork.after (work_failEntry _ h e) (HeadWork.after (work_flagTimeout _ h) h0)
  · exact HeadWork.after (work_failEntry _ h e)
      (HeadWork.after (work_cutChannel _ h _) (HeadWork.after (work_flagTimeout _ h) (HeadWork.after (work_requestClose _ h .add) h0)))
  · exact HeadWork.after (work_failEntry _ h e)
      (HeadWork.after (work_cutChannel _ h _)
        (HeadWork.after (work_flagTimeout _ h) (HeadWork.after (work_requestClose _ h .slow) (HeadWork.after (work_requestClose _ h .fast) h0))))
  · exact HeadWork.after (work_goOn _ h) h0
  · have h1 := HeadWork.after (work_flagTimeout _ h) (HeadWork.after (work_requestClose _ h .snift) h0)
    split
    · exact HeadWork.after (work_endCycle _ _ h) h1
    · exact HeadWork.after (work_nextEntry _ h) h1

theorem work_burstConfirmed (h : HeadId) (p b : Nat) : HeadWork h s (burstConfirmed h p b s) := by
  unfold burstConfirmed
  refine HeadWork.after (work_abortCycle _ h) (HeadWork.after (work_modSeq _ h _ fun _ => rfl) ?_)
  exact HeadWork.after (work_countBurst _ h) (HeadWork.after (work_raiseAlarm _ h _ _ _ _) (work_closeProducts s h))

theorem work_burstTest (h : HeadId) (sound : Bool) (p b : Nat) : HeadWork h s (burstTest h sound p b s) := by
  refine HeadWork.ite (fun _ => ?_) fun _ => HeadWork.refl h s
  have h0 : ∀ n, HeadWork h s (s.modSeq h fun q => { q with burstCount := bump n q.burstCount }) := fun n =>
    work_modSeq s h _ fun _ => rfl
  exact HeadWork.ite (fun _ => HeadWork.after (work_burstConfirmed _ h p b) (h0 _)) fun _ => h0 _

theorem work_takeConversion (h : HeadId) (sound : Bool) : HeadWork h s (takeConversion h sound s) := by
  unfold takeConversion
  refine HeadWork.ite (fun _ => ?_) fun _ => HeadWork.refl h s
  split
  · exact HeadWork.refl h s
  · have h0 : ∀ n, HeadWork h s (s.modSeq h fun q => { q with condCount := bump n q.condCount }) := fun n =>
      work_modSeq s h _ fun _ => rfl
    split
    · exact HeadWork.refl h s
    · refine HeadWork.ite (fun _ => ?_) fun _ => HeadWork.refl h s
      refine HeadWork.ite (fun _ => ?_) fun _ => h0 _
      exact HeadWork.after (work_goOn _ h) (HeadWork.after (work_modSeq _ h _ fun _ => rfl) (h0 _))
    · refine HeadWork.ite (fun _ => ?_) fun _ => HeadWork.refl h s
      exact HeadWork.ite (fun _ => HeadWork.after (work_sniftSucceeds _ h _) (h0 _)) fun _ => h0 _
    · exact work_burstTest s h sound _ _
    · exact work_burstTest s h sound _ _
    · exact work_burstTest s h sound _ _

theorem work_takeSensorFault (h : HeadId) : HeadWork h s (takeSensorFault h s) := by
  unfold takeSensorFault
  split
  · exact HeadWork.refl h s
  · exact HeadWork.ite (fun _ => HeadWork.after (work_failEntry _ h _) (work_modSeq s h _ fun _ => rfl)) fun _ => HeadWork.refl h s

theorem work_takeSettleEnd (h : HeadId) (m : Meter) (k : EndKind) : HeadWork h s (takeSettleEnd h m k s) :=
  HeadWork.after (HeadWork.ite (fun _ => work_goOn _ h) fun _ => HeadWork.refl h _) (work_settleEnd s h m k)

/-! ### Deadlines, ring loss and step mode (R103 to R110) -/

theorem work_takeDFill (h : HeadId) : HeadWork h s (takeDFill h s) := by
  refine HeadWork.ite (fun _ => HeadWork.after (work_cutToSnift _ h) (work_modFlags s h _)) fun _ => ?_
  refine HeadWork.ite (fun _ => ?_) fun _ => HeadWork.refl h s
  exact HeadWork.after (work_modSeq _ h _ fun _ => rfl)
    (HeadWork.after (work_cutBoth _ h) (HeadWork.after (work_modFlags _ h _) (work_closeProducts s h)))

theorem work_takeDSnift (h : HeadId) : HeadWork h s (takeDSnift h s) :=
  HeadWork.ite (fun _ => HeadWork.after (work_cutToSnift _ h) (work_modFlags s h _)) fun _ => HeadWork.refl h s

theorem work_takeDRelease (h : HeadId) : HeadWork h s (takeDRelease h s) := by
  unfold takeDRelease
  refine HeadWork.after (work_endCycle _ _ h) (HeadWork.after (work_modFlags _ h _) (HeadWork.after (work_raiseAlarm _ h _ _ _ _) ?_))
  exact HeadWork.after (work_freezeBoth _ h) (HeadWork.after (work_modSeq _ h _ fun _ => rfl) (work_closeAll s h))

theorem work_takeDeadlines (h : HeadId) : HeadWork h s (takeDeadlines h s) :=
  HeadWork.after (HeadWork.ite (fun _ => work_takeDRelease _ h) fun _ => HeadWork.refl h _)
    (HeadWork.after (HeadWork.ite (fun _ => work_takeDSnift _ h) fun _ => HeadWork.refl h _)
      (HeadWork.ite (fun _ => work_takeDFill s h) fun _ => HeadWork.refl h s))

theorem work_stuckOpenEnd (h : HeadId) : HeadWork h s (stuckOpenEnd h s) := by
  unfold stuckOpenEnd
  refine HeadWork.after (work_endCycle _ _ h) (HeadWork.after (work_freezeBoth _ h) (HeadWork.after (work_modSeq _ h _ fun _ => rfl) ?_))
  refine HeadWork.after (work_clearEqualised _ h) (HeadWork.after (work_closeProducts _ h) ?_)
  exact HeadWork.after (work_requestClose _ h .snift) (work_requestClose s h .gas)

theorem work_takeValveFault (h : HeadId) (v : ValveId) (k : ValveFault) : HeadWork h s (takeValveFault h v k s) := by
  have hp : ∀ u, HeadWork h u (setFaultPending h u) := fun u => work_modSeq u h _ fun _ => rfl
  refine HeadWork.ite (fun _ => ?_) fun _ => HeadWork.refl h s
  split
  · exact work_stuckOpenEnd s h
  · exact work_stuckOpenEnd s h
  · exact work_stuckOpenEnd s h
  · exact HeadWork.after (work_abortCycle _ h) (hp s)
  · exact HeadWork.after (work_abortCycle _ h) (hp s)
  · exact HeadWork.after (work_abortCycle _ h) (hp s)
  · exact hp s
  · exact HeadWork.refl h s

theorem work_endStepMode (h : HeadId) : HeadWork h s (endStepMode h s) :=
  HeadWork.after (HeadWork.ite (fun _ => work_resumeStep _ h) fun _ => HeadWork.refl h _) (work_modSeq s h _ fun _ => rfl)

end Sys2Proof.Machine
end

