-- ==== Sys2Proof/Laws/Snift.lean ====
section
/-! SUPPORT. What closing valves, cutting doses and forcing the snift do to a head, each said once: the sequencer, the valves
and the channels that they leave, and that they make no record. -/

namespace Sys2Proof.Machine

variable (s : State)

/-- Nothing of the node but its heads has changed. -/
structure Silent (s t : State) : Prop where
  orq : t.orq = s.orq
  counters : t.counters = s.counters
  totals : t.totals = s.totals
  trace : t.trace = s.trace

namespace Silent

variable {s t u : State}

theorem refl (s : State) : Silent s s := ⟨rfl, rfl, rfl, rfl⟩

theorem trans (a : Silent s t) (b : Silent t u) : Silent s u :=
  ⟨b.1.trans a.1, b.2.trans a.2, b.3.trans a.3, b.4.trans a.4⟩

theorem ite {p : Prop} [Decidable p] {a b : State} (ha : p → Silent s a) (hb : ¬p → Silent s b) :
    Silent s (if p then a else b) := by
  by_cases hp : p
  · simpa [hp] using ha hp
  · simpa [hp] using hb hp

end Silent

/-- A change that leaves its head as it is leaves the state as it is. -/
theorem modHead_self (h : HeadId) (f : Head → Head) (hf : f (s.head h) = s.head h) : s.modHead h f = s := by
  have : f s.heads[h] = s.heads[h] := hf
  unfold State.modHead
  rw [this]
  simp

theorem modSeq_self (h : HeadId) (f : Sequencer → Sequencer) (hf : f (s.seq h) = s.seq h) : s.modSeq h f = s := by
  refine modHead_self s h _ ?_
  have : f (s.head h).seq = (s.head h).seq := hf
  rw [this]

/-! ### Closing valves (R145) -/

theorem silent_setOutput (h : HeadId) (v : ValveId) (o : Bool) : Silent s (setOutput h v o s) :=
  Silent.ite (fun _ => Silent.refl s) fun _ => ⟨rfl, rfl, rfl, rfl⟩

theorem silent_requestClose (h : HeadId) (v : ValveId) : Silent s (requestClose h v s) :=
  Silent.trans (t := s.modValve h v fun x => { x with request := false }) ⟨rfl, rfl, rfl, rfl⟩ (silent_setOutput _ h v false)

theorem silent_closeProducts (h : HeadId) : Silent s (closeProducts h s) :=
  ((silent_requestClose s h .fast).trans (silent_requestClose _ h .slow)).trans (silent_requestClose _ h .add)

theorem silent_closeAll (h : HeadId) : Silent s (closeAll h s) :=
  ((silent_requestClose s h .gas).trans (silent_closeProducts _ h)).trans (silent_requestClose _ h .snift)

theorem modValve_chan (h g : HeadId) (v : ValveId) (m : Meter) (f : Valve → Valve) : (s.modValve h v f).chan g m = s.chan g m := by
  by_cases hg : g = h
  · subst hg; simp [State.modValve, State.chan]
  · simp [State.modValve, State.chan, modHead_head_ne s h g _ hg]

@[simp] theorem setOutput_chan (h g : HeadId) (v : ValveId) (m : Meter) (o : Bool) : (setOutput h v o s).chan g m = s.chan g m := by
  unfold setOutput
  split
  · rfl
  · exact modValve_chan s h g v m _

@[simp] theorem requestClose_seq (h g : HeadId) (v : ValveId) : (requestClose h v s).seq g = s.seq g := by
  simp [requestClose]

@[simp] theorem requestClose_chan (h g : HeadId) (v : ValveId) (m : Meter) : (requestClose h v s).chan g m = s.chan g m := by
  simp [requestClose, modValve_chan]

/-- Commanding an output leaves the request. -/
theorem setOutput_request (h : HeadId) (v : ValveId) (o : Bool) :
    ((setOutput h v o s).valve h v).request = (s.valve h v).request := by
  unfold setOutput
  split
  · rfl
  · rw [modValve_valve]; unfold Valve.change; split <;> rfl

/-- A request to close a valve leaves it closed, in request and output. -/
theorem requestClose_closed (h : HeadId) (v : ValveId) :
    ((requestClose h v s).valve h v).request = false ∧ ((requestClose h v s).valve h v).output = false := by
  unfold requestClose
  exact ⟨by rw [setOutput_request, modValve_valve], setOutput_output _ h v false⟩

theorem requestClose_valve_other (h g : HeadId) (v w : ValveId) (hw : g ≠ h ∨ w ≠ v) :
    (requestClose h v s).valve g w = s.valve g w := by
  unfold requestClose
  rw [setOutput_valve_other _ h g v w false hw, modValve_valve_other s h g v w _ hw]

/-- A valve of a head is closed, in request and output. -/
def Valve.closed (v : Valve) : Prop := v.request = false ∧ v.output = false

/-- A request to close one valve leaves every closed valve closed. -/
theorem requestClose_keeps (h g : HeadId) (v w : ValveId) (hw : (s.valve g w).closed) : ((requestClose h v s).valve g w).closed := by
  by_cases hv : g ≠ h ∨ w ≠ v
  · rw [requestClose_valve_other s h g v w hv]; exact hw
  · push Not at hv
    obtain ⟨rfl, rfl⟩ := hv
    exact requestClose_closed s g w

/-- After `closeProducts` the product valves are closed. -/
theorem closeProducts_closed (h : HeadId) (v : ValveId) (hv : v = .fast ∨ v = .slow ∨ v = .add) :
    ((closeProducts h s).valve h v).closed := by
  unfold closeProducts
  rcases hv with rfl | rfl | rfl
  · exact requestClose_keeps _ h h .add .fast (requestClose_keeps _ h h .slow .fast (requestClose_closed s h .fast))
  · exact requestClose_keeps _ h h .add .slow (requestClose_closed _ h .slow)
  · exact requestClose_closed _ h .add

@[simp] theorem closeProducts_seq (h g : HeadId) : (closeProducts h s).seq g = s.seq g := by simp [closeProducts]

@[simp] theorem closeProducts_chan (h g : HeadId) (m : Meter) : (closeProducts h s).chan g m = s.chan g m := by
  simp [closeProducts]

theorem closeProducts_valve_other (h g : HeadId) (w : ValveId) (hw : g ≠ h ∨ w = .gas ∨ w = .snift) :
    (closeProducts h s).valve g w = s.valve g w := by
  have hv : ∀ v, v = .fast ∨ v = .slow ∨ v = .add → g ≠ h ∨ w ≠ v := by
    rcases hw with hw | rfl | rfl
    · exact fun _ _ => .inl hw
    · rintro v (rfl | rfl | rfl) <;> exact .inr (by decide)
    · rintro v (rfl | rfl | rfl) <;> exact .inr (by decide)
  unfold closeProducts
  rw [requestClose_valve_other _ h g .add w (hv .add (by simp)), requestClose_valve_other _ h g .slow w (hv .slow (by simp)),
    requestClose_valve_other _ h g .fast w (hv .fast (by simp))]

/-- `closeAll` closes every valve of its head. -/
theorem closeAll_closed (h : HeadId) (v : ValveId) : ((closeAll h s).valve h v).closed := by
  unfold closeAll
  cases v
  · refine requestClose_keeps _ h h .snift .gas ?_
    rw [closeProducts_valve_other _ h h .gas (.inr (.inl rfl))]
    exact requestClose_closed s h .gas
  · exact requestClose_keeps _ h h .snift .fast (closeProducts_closed _ h .fast (by simp))
  · exact requestClose_keeps _ h h .snift .slow (closeProducts_closed _ h .slow (by simp))
  · exact requestClose_keeps _ h h .snift .add (closeProducts_closed _ h .add (by simp))
  · exact requestClose_closed _ h .snift

@[simp] theorem closeAll_seq (h g : HeadId) : (closeAll h s).seq g = s.seq g := by simp [closeAll]

/-! ### The interlock with the product outputs closed (R146) -/

/-- The product outputs of a head are commanded closed. -/
def State.dry (s : State) (h : HeadId) : Prop := ∀ v, v = .fast ∨ v = .slow ∨ v = .add → (s.valve h v).output = false

theorem dry_closeProducts (h : HeadId) : (closeProducts h s).dry h := fun v hv => (closeProducts_closed s h v hv).2

/-- With the product outputs closed the interlock has nothing to close. -/
theorem interlockClose_dry (h : HeadId) (b : Nat) (hd : s.dry h) : interlockClose h b s = s := by
  have h1 : ∀ v, v = .fast ∨ v = .slow ∨ v = .add → interlockCloseOne h b v s = s := fun v hv => by
    unfold interlockCloseOne
    rw [hd v hv]; rfl
  unfold interlockClose
  rw [h1 .fast (by simp), h1 .slow (by simp), h1 .add (by simp)]

/-- Clearing the equalised flag with the product outputs closed changes the flag alone. -/
theorem clearEqualised_dry (h : HeadId) (hd : s.dry h) :
    clearEqualised h s = s.modSeq h fun q => { q with equalised := false } := by
  unfold clearEqualised
  split
  · exact interlockClose_dry _ h 0 fun v hv => by rw [modSeq_valve]; exact hd v hv
  · rename_i he
    have h0 : (s.seq h).equalised = false := Bool.eq_false_iff.mpr he
    exact (modSeq_self s h _ (by rw [← h0])).symm

/-- A request to open SNIFT with the product outputs closed. -/
theorem requestOpen_snift_dry (h : HeadId) (hd : s.dry h) :
    requestOpen h .snift s =
      if (s.valve h .snift).request then s
      else setOutput h .snift true (s.modValve h .snift fun x => { x with request := true }) := by
  unfold requestOpen
  split
  · rfl
  · refine congrArg (setOutput h .snift true) (interlockClose_dry _ h 1 fun v hv => ?_)
    rw [modValve_valve_other s h h .snift v _ (.inr (by rcases hv with rfl | rfl | rfl <;> decide))]
    exact hd v hv

/-! ### Cutting and freezing (R124, R126) -/

/-- What a cut leaves of a channel at time `t`. -/
def Channel.cut (t : Ticks) (c : Channel) : Channel := if c.state = .dosing then c.close .cut t else c

theorem modChan_chan_other (h g : HeadId) (m n : Meter) (f : Channel → Channel) (hn : g ≠ h ∨ n ≠ m) :
    (s.modChan h m f).chan g n = s.chan g n := by
  by_cases hg : g = h
  · subst hg
    simp [State.modChan, State.chan, perMeter_get_set_ne _ m n _ (hn.resolve_left fun k => k rfl)]
  · simp [State.modChan, State.chan, modHead_head_ne s h g _ hg]

@[simp] theorem cutChannel_seq (h g : HeadId) (m : Meter) : (cutChannel h m s).seq g = s.seq g := by
  unfold cutChannel; split <;> simp

@[simp] theorem cutChannel_valve (h g : HeadId) (m : Meter) (v : ValveId) : (cutChannel h m s).valve g v = s.valve g v := by
  unfold cutChannel; split <;> simp

theorem cutChannel_chan (h : HeadId) (m : Meter) : (cutChannel h m s).chan h m = (s.chan h m).cut s.now := by
  unfold cutChannel Channel.cut; split <;> simp

theorem cutChannel_chan_other (h : HeadId) (m n : Meter) (hn : n ≠ m) : (cutChannel h m s).chan h n = s.chan h n := by
  unfold cutChannel
  split
  · exact modChan_chan_other s h h m n _ (.inr hn)
  · rfl

theorem silent_cutChannel (h : HeadId) (m : Meter) : Silent s (cutChannel h m s) :=
  Silent.ite (fun _ => ⟨rfl, rfl, rfl, rfl⟩) fun _ => Silent.refl s

/-- A cut of both doses cuts each channel of the head. -/
theorem cutBoth_chan (h : HeadId) (m : Meter) : (cutBoth h s).chan h m = (s.chan h m).cut s.now := by
  have hn : (cutChannel h .main s).now = s.now := (work_cutChannel s h .main).now
  unfold cutBoth
  cases m
  · rw [cutChannel_chan_other _ h .additive .main (by decide), cutChannel_chan]
  · rw [cutChannel_chan, cutChannel_chan_other s h .main .additive (by decide), hn]

@[simp] theorem cutBoth_seq (h g : HeadId) : (cutBoth h s).seq g = s.seq g := by simp [cutBoth]

@[simp] theorem cutBoth_valve (h g : HeadId) (v : ValveId) : (cutBoth h s).valve g v = s.valve g v := by simp [cutBoth]

theorem silent_cutBoth (h : HeadId) : Silent s (cutBoth h s) :=
  (silent_cutChannel s h .main).trans (silent_cutChannel _ h .additive)

@[simp] theorem freezeBoth_seq (h g : HeadId) : (freezeBoth h s).seq g = s.seq g := by simp [freezeBoth]

@[simp] theorem freezeBoth_valve (h g : HeadId) (v : ValveId) : (freezeBoth h s).valve g v = s.valve g v := by simp [freezeBoth]

/-- A freeze of both channels freezes each. -/
theorem freezeBoth_chan (h : HeadId) (m : Meter) : (freezeBoth h s).chan h m = (s.chan h m).freeze := by
  unfold freezeBoth
  cases m
  · rw [modChan_chan_other _ h h .additive .main _ (.inr (by decide)), modChan_chan]
  · rw [modChan_chan, modChan_chan_other s h h .main .additive _ (.inr (by decide))]

theorem silent_freezeBoth (h : HeadId) : Silent s (freezeBoth h s) := ⟨rfl, rfl, rfl, rfl⟩

/-! ### The forced snift (R101) -/

/-- The sequencer, the valves and the channels that a forced snift leaves at head `h`, from sequencer `q`, at time `now`. -/
structure Snifting (h : HeadId) (q : Sequencer) (s t : State) : Prop where
  silent : Silent s t
  chan : ∀ m, t.chan h m = s.chan h m
  closed : ∀ v, v ≠ .snift → (t.valve h v).closed
  opened : (t.valve h .snift).request = true
  seq : ∃ e, (headPlan h s)[sniftIndex h s]? = some e ∧ e.kind = .snift ∧ (t.seq h) =
    { q with
      state := .forcedSnift
      planIndex := sniftIndex h s + 1
      progress := .active
      timer := some (s.now + msTicks e.timeLimit)
      equalised := false
      sniftBegun := true
      condCount := 0
      burstCount := 0 }

theorem silent_modSeq (h : HeadId) (f : Sequencer → Sequencer) : Silent s (s.modSeq h f) := ⟨rfl, rfl, rfl, rfl⟩

@[simp] theorem headPlan_modSeq (h : HeadId) (f : Sequencer → Sequencer) : headPlan h (s.modSeq h f) = headPlan h s := by
  simp [headPlan, State.modSeq]

theorem HeadWork.plan {h : HeadId} {s t : State} (w : HeadWork h s t) : headPlan h t = headPlan h s := by
  simp only [headPlan, w.cycle h]

/-- A SNIFT entry begins with the product outputs closed, the equalised flag clear and GAS closed: SNIFT is requested open, and
snift begun is set. -/
theorem startSnift_dry (h : HeadId) (e : PhaseEntry) (he : e.kind = .snift) (hd : s.dry h) (hq : (s.seq h).equalised = false)
    (hg : (s.valve h .gas).closed) :
    let t := (startEntry h e s).2
    Silent s t ∧ (∀ m, t.chan h m = s.chan h m) ∧ (∀ v, v ≠ .snift → v ≠ .gas → t.valve h v = s.valve h v) ∧
      (t.valve h .gas).closed ∧ (t.valve h .snift).request = true ∧ t.seq h = { s.seq h with sniftBegun := true } := by
  have key : ∀ u : State, u.dry h → (requestOpen h .snift u).seq h = u.seq h ∧ Silent u (requestOpen h .snift u) ∧
      (∀ m, (requestOpen h .snift u).chan h m = u.chan h m) ∧
      (∀ v, v ≠ .snift → (requestOpen h .snift u).valve h v = u.valve h v) ∧
      ((requestOpen h .snift u).valve h .snift).request = true := by
    intro u hu
    rw [requestOpen_snift_dry u h hu]
    split
    · rename_i hr
      exact ⟨rfl, Silent.refl u, fun _ => rfl, fun _ _ => rfl, hr⟩
    · refine ⟨by simp, ?_, fun m => by simp [modValve_chan], fun v hv => ?_, ?_⟩
      · exact Silent.trans (t := u.modValve h .snift fun x => { x with request := true }) ⟨rfl, rfl, rfl, rfl⟩
          (silent_setOutput _ h .snift true)
      · rw [setOutput_valve_other _ h h .snift v true (.inr hv), modValve_valve_other _ h h .snift v _ (.inr hv)]
      · rw [setOutput_request, modValve_valve]
  have hse : (startEntry h e s).2 = requestOpen h .snift (beginSnift h s) := by
    unfold startEntry; rw [he]
  have hb : beginSnift h s =
      if (s.seq h).sniftBegun then s
      else (requestClose h .gas s).modSeq h fun q => { q with sniftBegun := true } := by
    unfold beginSnift
    have hd' : (requestClose h .gas s).dry h := fun v hv => by
      rw [requestClose_valve_other s h h .gas v (.inr (by rcases hv with rfl | rfl | rfl <;> decide))]
      exact hd v hv
    rw [clearEqualised_dry _ h hd', modSeq_self (requestClose h .gas s) h (fun q => { q with equalised := false })
      (by rw [requestClose_seq, ← hq])]
  have hbs : (beginSnift h s).seq h = { s.seq h with sniftBegun := true } ∧ Silent s (beginSnift h s) ∧
      (∀ m, (beginSnift h s).chan h m = s.chan h m) ∧
      (∀ v, v ≠ .gas → (beginSnift h s).valve h v = s.valve h v) ∧ ((beginSnift h s).valve h .gas).closed := by
    rw [hb]
    split
    · rename_i hr
      refine ⟨by rw [← hr], Silent.refl s, fun _ => rfl, fun _ _ => rfl, hg⟩
    · refine ⟨by simp, (silent_requestClose s h .gas).trans (silent_modSeq _ h _), fun m => by simp, fun v hv => ?_, ?_⟩
      · rw [modSeq_valve, requestClose_valve_other s h h .gas v (.inr hv)]
      · rw [modSeq_valve]; exact requestClose_closed s h .gas
  have hbd : (beginSnift h s).dry h := fun v hv => by
    rw [hbs.2.2.2.1 v (by rcases hv with rfl | rfl | rfl <;> decide)]; exact hd v hv
  obtain ⟨k1, k2, k3, k4, k5⟩ := key _ hbd
  dsimp only
  rw [hse]
  exact ⟨hbs.2.1.trans k2, fun m => (k3 m).trans (hbs.2.2.1 m), fun v h1 h2 => (k4 v h1).trans (hbs.2.2.2.1 v h2),
    by rw [k4 .gas (by decide)]; exact hbs.2.2.2.2, k5, k1.trans hbs.1⟩

/-- The entry that a forced snift begins, if there is one, is a SNIFT entry. -/
theorem sniftIndex_snift (h : HeadId) {e : PhaseEntry} (he : (headPlan h s)[sniftIndex h s]? = some e) : e.kind = .snift := by
  unfold sniftIndex at he
  dsimp only at he
  generalize (if (s.seq h).sniftBegun = true then (s.seq h).planIndex else 0) = i at he
  rw [← List.getElem?_drop] at he
  obtain ⟨hlt, rfl⟩ := List.getElem?_eq_some_iff.mp he
  simpa using List.findIdx_getElem (w := hlt)

/-- A plan with a SNIFT entry, at or after the index reached where a snift has begun, leaves one to begin. -/
theorem sniftIndex_finds (h : HeadId)
    (hp : ∃ e ∈ (headPlan h s).drop (if (s.seq h).sniftBegun then (s.seq h).planIndex else 0), e.kind = .snift) :
    ∃ e, (headPlan h s)[sniftIndex h s]? = some e := by
  unfold sniftIndex
  dsimp only
  rw [← List.getElem?_drop]
  refine ⟨_, List.getElem?_eq_getElem ?_⟩
  rw [List.findIdx_lt_length]
  obtain ⟨e, h1, h2⟩ := hp
  exact ⟨e, h1, by simp [h2]⟩

/-- In a cycle that holds between two SNIFT entries, the next one is the entry behind the index. -/
theorem sniftIndex_next (h : HeadId) (hb : (s.seq h).sniftBegun = true) {e : PhaseEntry}
    (he : (headPlan h s)[(s.seq h).planIndex]? = some e) (hk : e.kind = .snift) : sniftIndex h s = (s.seq h).planIndex := by
  unfold sniftIndex
  dsimp only
  rw [if_pos hb]
  obtain ⟨hlt, rfl⟩ := List.getElem?_eq_some_iff.mp he
  rw [List.drop_eq_getElem_cons hlt, List.findIdx_cons]
  simp [hk]

/-- Entry to FORCED_SNIFT in a cycle that has a SNIFT entry to begin (R101). -/
theorem forceSnift_snifting (h : HeadId) (hp : ∃ e, (headPlan h s)[sniftIndex h s]? = some e) :
    Snifting h (s.seq h) s (forceSnift h s) := by
  obtain ⟨e, hmem⟩ := hp
  have hek := sniftIndex_snift s h hmem
  obtain ⟨rest, hdrop⟩ : ∃ rest, (headPlan h s).drop (sniftIndex h s) = e :: rest := by
    obtain ⟨hlt, he⟩ := List.getElem?_eq_some_iff.mp hmem
    exact ⟨_, (List.drop_eq_getElem_cons hlt).trans (by rw [he])⟩
  let s1 := s.modSeq h fun q => { q with state := .forcedSnift, progress := .none, timer := none }
  let s2 := (closeProducts h s1).modSeq h fun q => { q with equalised := false }
  let s3 := requestClose h .gas s2
  let i := sniftIndex h s
  let s4 := enterEntry h e (s3.modSeq h fun q => { q with planIndex := i })
  have w3 : HeadWork h s s3 := HeadWork.after (work_requestClose _ h .gas)
    (HeadWork.after (work_modSeq _ h _ fun _ => rfl) (HeadWork.after (work_closeProducts _ h) (work_modSeq s h _ fun _ => rfl)))
  have hdp : (closeProducts h s1).dry h := dry_closeProducts s1 h
  have hcl : clearEqualised h (closeProducts h s1) = s2 := clearEqualised_dry _ h hdp
  have hf : forceSnift h s = (startEntry h e s4).2 := by
    have hpl : headPlan h (requestClose h .gas s2) = headPlan h s := w3.plan
    unfold forceSnift
    dsimp only
    rw [show clearEqualised h (closeProducts h
      (s.modSeq h fun q => { q with state := .forcedSnift, progress := .none, timer := none })) = s2 from hcl, hpl, hdrop]
  have hv3 : ∀ v, v ≠ .snift → (s3.valve h v).closed := by
    intro v hv
    by_cases hg : v = .gas
    · subst hg; exact requestClose_closed _ h .gas
    · refine requestClose_keeps _ h h .gas v ?_
      rw [modSeq_valve]
      exact closeProducts_closed s1 h v (by cases v <;> simp_all)
  have hv4 : ∀ v, s4.valve h v = s3.valve h v := fun v => by simp [s4, enterEntry]
  have hn : s3.now = s.now := w3.now
  have hq3 : s3.seq h = { s.seq h with state := .forcedSnift, progress := .none, timer := none, equalised := false } := by
    simp [s3, s2, s1]
  have hq4 : s4.seq h =
      { s.seq h with
        state := .forcedSnift, planIndex := i + 1, progress := .active, timer := some (s.now + msTicks e.timeLimit),
        equalised := false, condCount := 0, burstCount := 0 } := by
    simp [s4, enterEntry, hq3, hn]
  have sl3 : Silent s s3 := (((silent_modSeq s h _).trans (silent_closeProducts _ h)).trans (silent_modSeq _ h _)).trans
    (silent_requestClose _ h .gas)
  have sl4 : Silent s s4 := (sl3.trans (silent_modSeq _ h _)).trans (silent_modSeq _ h _)
  have hc4 : ∀ m, s4.chan h m = s.chan h m := fun m => by simp [s4, enterEntry, s3, s2, s1]
  obtain ⟨k1, k2, k3, k4, k5, k6⟩ := startSnift_dry s4 h e hek
    (fun v hv => by rw [hv4]; exact (hv3 v (by rcases hv with rfl | rfl | rfl <;> decide)).2) (by rw [hq4])
    (by rw [hv4]; exact hv3 .gas (by decide))
  rw [hf]
  refine ⟨sl4.trans k1, fun m => (k2 m).trans (hc4 m), fun v hv => ?_, k5, e, hmem, hek, by rw [k6, hq4]⟩
  by_cases hg : v = .gas
  · subst hg; exact k4
  · rw [k3 v hv hg, hv4]; exact hv3 v hv

end Sys2Proof.Machine
end

