-- ==== Sys2Proof/Laws/Deadlines.lean ====
section
/-! SUPPORT. What a ring loss (R108), a product valve's fault (R106) and the deadlines at a pitch event (R103 to R105) do to a
head in its cycle, each said once: a cut to the snift, the end of a cycle at D_release, and the tests in their order. -/

namespace Sys2Proof.Machine

variable (s : State)

/-! ### A cut to the snift (R101, R124) -/

/-- A cycle before its snift, whose plan holds one. -/
structure State.beforeSnift (s : State) (h : HeadId) : Prop where
  state : (s.seq h).state = .running ∨ (s.seq h).state = .stepHold
  begun : (s.seq h).sniftBegun = false
  plan : ∃ e ∈ headPlan h s, e.kind = .snift

/-- Head `h` of `t` is in the forced snift of the cycle that it had in `s`, its doses cut. -/
structure State.cutInto (s t : State) (h : HeadId) (flags : CycleFlags) : Prop where
  state : (t.seq h).state = .forcedSnift
  progress : (t.seq h).progress = .active
  flags : (t.seq h).flags = flags
  begun : (t.seq h).sniftBegun = true
  equalised : (t.seq h).equalised = false
  fault : (t.seq h).faultPending = (s.seq h).faultPending
  opened : (t.valve h .snift).request = true
  closed : ∀ v, v ≠ .snift → (t.valve h v).closed
  chan : ∀ m, t.chan h m = (s.chan h m).cut s.now

/-- A cut channel is not cut again. -/
theorem Channel.cut_cut (t : Ticks) (c : Channel) : (c.cut t).cut t = c.cut t := by
  unfold Channel.cut
  by_cases h : c.state = .dosing
  · simp [h, Channel.close]
  · simp [h]

/-- What a forced snift leaves when the plan has no SNIFT entry to begin. -/
theorem forceSnift_none (h : HeadId) (hp : (headPlan h s)[sniftIndex h s]? = none) :
    forceSnift h s =
      requestClose h .gas
        ((closeProducts h (s.modSeq h fun q => { q with state := .forcedSnift, progress := .none, timer := none })).modSeq h
          fun q => { q with equalised := false }) := by
  unfold forceSnift
  dsimp only
  rw [clearEqualised_dry _ h (dry_closeProducts _ h)]
  generalize hu : requestClose h .gas _ = u
  have w : HeadWork h s u := by
    rw [← hu]
    exact HeadWork.after (work_requestClose _ h .gas) (HeadWork.after (work_modSeq _ h _ fun _ => rfl)
      (HeadWork.after (work_closeProducts _ h) (work_modSeq s h _ fun _ => rfl)))
  rw [w.plan, List.drop_eq_nil_of_le (List.getElem?_eq_none_iff.mp hp)]

/-- A forced snift makes no record, leaves the channels as they are, and the head in FORCED_SNIFT. -/
theorem forceSnift_quiet (h : HeadId) :
    Silent s (forceSnift h s) ∧ (∀ m, (forceSnift h s).chan h m = s.chan h m) ∧
      ((forceSnift h s).seq h).state = .forcedSnift ∧
      ((forceSnift h s).seq h).faultPending = (s.seq h).faultPending := by
  cases hp : (headPlan h s)[sniftIndex h s]? with
  | some e =>
    have k := forceSnift_snifting s h ⟨e, hp⟩
    obtain ⟨_, _, _, hq⟩ := k.seq
    exact ⟨k.silent, k.chan, by rw [hq], by rw [hq]⟩
  | none =>
    rw [forceSnift_none s h hp]
    exact ⟨(((silent_modSeq s h _).trans (silent_closeProducts _ h)).trans (silent_modSeq _ h _)).trans
      (silent_requestClose _ h .gas), fun m => by simp, by simp, by simp⟩

/-- A cause of a forced snift makes no record, leaves the channels as they are, and takes the head to FORCED_SNIFT. -/
theorem takeToSnift_quiet (h : HeadId) :
    Silent s (takeToSnift h s) ∧ (∀ m, (takeToSnift h s).chan h m = s.chan h m) ∧
      ((takeToSnift h s).seq h).state = .forcedSnift ∧
      ((takeToSnift h s).seq h).faultPending = (s.seq h).faultPending := by
  unfold takeToSnift
  split
  · exact ⟨silent_modSeq s h _, fun m => by simp, by simp, by simp⟩
  · exact forceSnift_quiet s h

/-- An abort from another state than FORCED_SNIFT freezes the channels and takes the head to FORCED_SNIFT. -/
theorem abortCycle_quiet (h : HeadId) (hs : (s.seq h).state ≠ .forcedSnift) :
    Silent s (abortCycle h s) ∧ (∀ m, (abortCycle h s).chan h m = (s.chan h m).freeze) ∧
      ((abortCycle h s).seq h).state = .forcedSnift ∧ ((abortCycle h s).seq h).faultPending = (s.seq h).faultPending := by
  have e : abortCycle h s = takeToSnift h (freezeBoth h s) := if_neg hs
  obtain ⟨k1, k2, k3, k4⟩ := takeToSnift_quiet (freezeBoth h s) h
  rw [e]
  exact ⟨(silent_freezeBoth s h).trans k1, fun m => (k2 m).trans (freezeBoth_chan s h m), k3,
    k4.trans (by rw [freezeBoth_seq])⟩

theorem silent_cutToSnift (h : HeadId) : Silent s (cutToSnift h s) :=
  Silent.ite (fun _ => Silent.refl s) fun _ => (silent_cutBoth s h).trans (takeToSnift_quiet _ h).1

/-- A cut to the snift leaves the head in FORCED_SNIFT. -/
theorem cutToSnift_state (h : HeadId) : ((cutToSnift h s).seq h).state = .forcedSnift := by
  unfold cutToSnift
  split
  · assumption
  · exact (takeToSnift_quiet _ h).2.2.1

theorem cutToSnift_active (h : HeadId) : ((cutToSnift h s).seq h).state.active = true := by
  rw [cutToSnift_state]; rfl

/-- A cause of a forced snift that reaches a SNIFT entry under way, with a change of the cycle flags ahead of it, cuts what
still doses, and the entry goes on where it stands in FORCED_SNIFT (log 15). -/
theorem cutToSnift_underWay (h : HeadId) (f : CycleFlags → CycleFlags) (hs : (s.seq h).state = .running)
    (hb : (s.seq h).sniftBegun = true) :
    cutToSnift h (s.modFlags h f) = (cutBoth h (s.modFlags h f)).modSeq h fun q => { q with state := .forcedSnift } := by
  unfold cutToSnift takeToSnift
  rw [if_neg (by simp [State.modFlags, hs]), if_pos (by simp [sniftUnderWay, State.modFlags, hs, hb])]

/-- A cut that begins a SNIFT entry, with a change of the cycle flags ahead of it: before the snift of a plan that holds such
an entry, or in STEP_HOLD between two of them. -/
theorem cutToSnift_begins (h : HeadId) (f : CycleFlags → CycleFlags)
    (hs : (s.seq h).state = .running ∧ (s.seq h).sniftBegun = false ∨ (s.seq h).state = .stepHold) {e : PhaseEntry}
    (he : (headPlan h s)[sniftIndex h s]? = some e) :
    s.cutInto (cutToSnift h (s.modFlags h f)) h (f (s.seq h).flags) ∧
      ((cutToSnift h (s.modFlags h f)).seq h).planIndex = sniftIndex h s + 1 := by
  have hc : cutToSnift h (s.modFlags h f) = forceSnift h (cutBoth h (s.modFlags h f)) := by
    unfold cutToSnift takeToSnift
    rw [if_neg (by rcases hs with hs | hs <;> simp [State.modFlags, hs]),
      if_neg (by rcases hs with hs | hs <;> simp [sniftUnderWay, State.modFlags, hs])]
  have w := HeadWork.after (work_cutBoth _ h) (work_modFlags s h f)
  have hq : (cutBoth h (s.modFlags h f)).seq h = { s.seq h with flags := f (s.seq h).flags } := by simp [State.modFlags]
  have hi : sniftIndex h (cutBoth h (s.modFlags h f)) = sniftIndex h s := by
    unfold sniftIndex; rw [w.plan, hq]
  obtain ⟨_, k2, k3, k4, e', _, _, k5⟩ := forceSnift_snifting _ h ⟨e, by rw [w.plan, hi]; exact he⟩
  rw [hc]
  rw [hi] at k5
  generalize forceSnift h (cutBoth h (s.modFlags h f)) = t at *
  refine ⟨⟨by rw [k5], by rw [k5], by rw [k5, hq], by rw [k5], by rw [k5], by rw [k5, hq], k4, k3, fun m => ?_⟩, by rw [k5]⟩
  rw [k2, cutBoth_chan]
  simp [State.modFlags]

/-- A cut before the snift, with a change of the cycle flags ahead of it. -/
theorem cutToSnift_cutInto (h : HeadId) (f : CycleFlags → CycleFlags) (hb : s.beforeSnift h) :
    s.cutInto (cutToSnift h (s.modFlags h f)) h (f (s.seq h).flags) := by
  obtain ⟨e, he⟩ := sniftIndex_finds s h (by rw [hb.begun]; exact hb.plan)
  exact (cutToSnift_begins s h f (hb.state.imp (fun x => ⟨x, hb.begun⟩) id) he).1

/-! ### Ring loss at a head (R108) -/

theorem silent_takeRingLoss (h : HeadId) : Silent s (takeRingLoss h s) := by
  unfold takeRingLoss
  split
  · exact silent_modSeq s h _
  · exact ⟨rfl, rfl, rfl, rfl⟩
  · exact (silent_modSeq s h _).trans (silent_cutToSnift _ h)
  · exact (silent_modSeq s h _).trans (silent_cutToSnift _ h)
  · exact silent_modSeq s h _
  · exact Silent.refl s
  · exact Silent.refl s
  · exact Silent.refl s

/-- The whole head after a change of its sequencer. -/
theorem modSeq_head (h : HeadId) (f : Sequencer → Sequencer) :
    (s.modSeq h f).head h = { s.head h with seq := f (s.seq h) } := by
  simp [State.modSeq, State.seq]

/-- A ring loss in FORCED_SNIFT sets its flag alone. -/
theorem takeRingLoss_forced (h : HeadId) (hs : (s.seq h).state = .forcedSnift) :
    takeRingLoss h s = s.modFlags h fun f => { f with ringLoss := true } := by
  unfold takeRingLoss; rw [hs]

/-- A ring loss at a cycle that runs a SNIFT entry sets its flag and takes the head to FORCED_SNIFT; what doses is cut. -/
theorem takeRingLoss_underWay (h : HeadId) (hs : (s.seq h).state = .running) (hb : (s.seq h).sniftBegun = true) :
    takeRingLoss h s =
      (cutBoth h (s.modFlags h fun f => { f with ringLoss := true })).modSeq h fun q => { q with state := .forcedSnift } := by
  unfold takeRingLoss; rw [hs]
  exact cutToSnift_underWay s h _ hs hb

/-- A ring loss in STEP_HOLD between two SNIFT entries begins the next one in FORCED_SNIFT. -/
theorem takeRingLoss_between (h : HeadId) (hs : (s.seq h).state = .stepHold) (hb : (s.seq h).sniftBegun = true)
    {e : PhaseEntry} (he : (headPlan h s)[(s.seq h).planIndex]? = some e) (hk : e.kind = .snift) :
    s.cutInto (takeRingLoss h s) h { (s.seq h).flags with ringLoss := true } ∧
      ((takeRingLoss h s).seq h).planIndex = (s.seq h).planIndex + 1 := by
  have hi := sniftIndex_next s h hb he hk
  have ht : takeRingLoss h s = cutToSnift h (s.modFlags h fun f => { f with ringLoss := true }) := by
    unfold takeRingLoss; rw [hs]
  rw [ht, ← hi]
  exact cutToSnift_begins s h _ (.inr hs) (by rw [hi]; exact he)

/-- A ring loss at a cycle before its snift. -/
theorem takeRingLoss_cutInto (h : HeadId) (hb : s.beforeSnift h) :
    s.cutInto (takeRingLoss h s) h { (s.seq h).flags with ringLoss := true } := by
  have ht : takeRingLoss h s = cutToSnift h (s.modFlags h fun f => { f with ringLoss := true }) := by
    unfold takeRingLoss
    rcases hb.state with h1 | h1 <;> rw [h1]
  rw [ht]
  exact cutToSnift_cutInto s h _ hb

/-- After a ring loss each request of the head is overtaken. -/
theorem markOvertaken_overtakes (h : HeadId) :
    (∀ r ∈ (markOvertaken h s).resolver.current, r.head = h → r.overtaken = true) ∧
      ∀ r ∈ (markOvertaken h s).resolver.requests, r.head = h → r.overtaken = true := by
  constructor
  · intro r hr hh
    simp only [markOvertaken, Option.mem_def, Option.map_eq_some_iff] at hr
    obtain ⟨a, _, rfl⟩ := hr
    by_cases ha : a.head = h
    · simp [ha]
    · rw [if_neg ha] at hh; exact absurd hh ha
  · intro r hr hh
    simp only [markOvertaken, List.mem_map] at hr
    obtain ⟨a, _, rfl⟩ := hr
    by_cases ha : a.head = h
    · simp [ha]
    · rw [if_neg ha] at hh; exact absurd hh ha

/-! ### A product valve's fault in an active cycle (R106) -/

/-- A frozen channel is IDLE or ENDED. -/
theorem Channel.freeze_over (c : Channel) : c.freeze.state = .idle ∨ c.freeze.state = .ended := by
  unfold Channel.freeze
  cases h : c.state <;> simp [h]

/-- A drift or a failure to open that aborts a cycle outside FORCED_SNIFT: fault pending is set, the channels freeze, and the
head takes FORCED_SNIFT, with no record of its own. -/
theorem abort_withFault (h : HeadId) (hs : (s.seq h).state ≠ .forcedSnift) :
    let t := abortCycle h (setFaultPending h s)
    Silent s t ∧ (t.seq h).state = .forcedSnift ∧ (t.seq h).faultPending = true ∧
      ∀ m, (t.chan h m).state = .idle ∨ (t.chan h m).state = .ended := by
  obtain ⟨k1, k2, k3, k4⟩ := abortCycle_quiet (setFaultPending h s) h (by simpa [setFaultPending] using hs)
  refine ⟨(silent_modSeq s h _).trans k1, k3, by rw [k4]; simp [setFaultPending], fun m => ?_⟩
  rw [k2]
  exact Channel.freeze_over _

/-- The drift of a product valve in RUNNING or STEP_HOLD aborts the cycle, also once its snift has begun. -/
theorem takeValveFault_drift (h : HeadId) (v : ValveId) (hv : isProduct v = true)
    (hs : (s.seq h).state = .running ∨ (s.seq h).state = .stepHold) :
    takeValveFault h v .drift s = abortCycle h (setFaultPending h s) := by
  unfold takeValveFault
  rw [if_pos hv]
  rcases hs with hs | hs <;> rw [hs]

/-! ### The cycle end at D_release (R105, R107) -/

theorem valve_of_heads {s t : State} (e : t.heads = s.heads) (h : HeadId) (v : ValveId) : t.valve h v = s.valve h v := by
  unfold State.valve State.head
  rw [e]

/-- A FILL record leaves every valve as it is. -/
theorem recordFill_valve (b : Bool) (h g : HeadId) (v : ValveId) : (recordFill b h s).valve g v = s.valve g v := by
  unfold recordFill
  split
  · rfl
  · rename_i c hc
    have hplace : ∀ r, (placeRecord h r s).heads = (s.modSeq h fun q => { q with reserved := false }).heads := fun r => by
      unfold placeRecord
      dsimp only
      split
      · exact enterUnreserved_heads _ _
      · rfl
    have hcount : ∀ (u : State) n o x, (countFill n o x u).heads = u.heads := fun u n o x => by
      unfold countFill modTotals
      split <;> rfl
    have hlast : ∀ (u : State) (x : Nat), (u.modHead h fun y => { y with lastAdditive := x }).valve g v = u.valve g v := by
      intro u x
      by_cases hg : g = h
      · subst hg; simp [State.valve]
      · simp [State.valve, modHead_head_ne _ h g _ hg]
    dsimp only
    rw [hlast, valve_of_heads (hcount _ _ _ _), valve_of_heads (hplace _), modSeq_valve]

/-- A released cycle with its valves closed ends in FAULT, its items clear and its valves closed. -/
theorem endCycle_released (h : HeadId) (hc : ∀ v, (s.valve h v).closed) :
    let t := endCycle .released h s
    (t.seq h).state = .fault ∧ (t.seq h).entry = none ∧ (t.seq h).planIndex = 0 ∧ (t.seq h).equalised = false ∧
      ∀ v, (t.valve h v).closed := by
  let a := judgeFlags h (freezeBoth h ((requestClose h .snift s).modSeq h fun q => { q with timer := none }))
  let b := recordFill false h a
  let c := b.modSeq h fun q =>
    { q with entry := none, planIndex := 0, progress := .none, timer := none, sniftBegun := false }
  have hb : ∀ v, (b.valve h v).closed := fun v => by
    simp only [a, b, recordFill_valve, judgeFlags, State.modFlags, modSeq_valve, freezeBoth_valve]
    exact requestClose_keeps _ h h .snift v (hc v)
  have hclear : clearCycleItems h b = c.modSeq h fun q => { q with equalised := false } :=
    clearEqualised_dry c h fun v _ => by simp only [c, modSeq_valve]; exact (hb v).2
  have ht : endCycle .released h s = enterFault h (c.modSeq h fun q => { q with equalised := false }) := by
    unfold endCycle
    dsimp only
    rw [if_neg (show CycleEnd.released ≠ .sniftFailed by decide), if_pos (.inr (.inl rfl))]
    exact congrArg (enterFault h) hclear
  dsimp only
  rw [ht]
  clear_value b
  refine ⟨by simp [enterFault], by simp [enterFault, c], by simp [enterFault, c], by simp [enterFault], fun v => ?_⟩
  rw [enterFault, modSeq_valve, modSeq_valve, modSeq_valve]
  exact hb v

/-- What D_release leaves at its head. -/
theorem takeDRelease_ends (h : HeadId) :
    let t := takeDRelease h s
    (t.seq h).state = .fault ∧ (t.seq h).entry = none ∧ (t.seq h).planIndex = 0 ∧ (t.seq h).equalised = false ∧
      ∀ v, (t.valve h v).closed := by
  have ha : ∀ (u : State) x y, (∀ v, (u.valve h v).closed) →
      ∀ v, (((raiseAlarm .releaseOverrun (headByte h) x y u).modFlags h fun f => { f with sniftIncomplete := true }).valve
        h v).closed := fun u x y hu v => by
    rw [State.modFlags, modSeq_valve, raiseAlarm, valve_of_heads (enterUnreserved_heads u _)]
    exact hu v
  have hf : ∀ v, ((freezeBoth h ((closeAll h s).modSeq h fun q => { q with timer := none })).valve h v).closed := fun v => by
    rw [freezeBoth_valve, modSeq_valve]
    exact closeAll_closed s h v
  let w := freezeBoth h ((closeAll h s).modSeq h fun q => { q with timer := none })
  have hr := endCycle_released _ h (ha w (w.seq h).planIndex ((w.seq h).elapsed.getD 0) hf)
  have ht : takeDRelease h s = endCycle .released h ((raiseAlarm .releaseOverrun (headByte h) (w.seq h).planIndex
      ((w.seq h).elapsed.getD 0) w).modFlags h fun f => { f with sniftIncomplete := true }) := by
    unfold takeDRelease
    rfl
  dsimp only at hr ⊢
  rw [ht]
  exact hr

/-! ### The three deadlines at a pitch event (R103 to R105, log 14) -/

/-- A deadline's test at a head in an active cycle whose elapsed count is known. -/
theorem testDeadline_eq (h : HeadId) (d : Deadlines → Nat) (act : HeadId → State → State) (c : CycleRecord) (e : Nat)
    (hc : (s.head h).cycle = some c) (he : (s.seq h).elapsed = some e) :
    testDeadline h d act s = if (s.seq h).state.active = true ∧ d c.recipe.deadlines ≤ e then act h s else s := by
  unfold testDeadline reached headDeadlines
  rw [hc, he]
  simp

/-- Each deadline that is reached acts, in the order of the rules, as long as the cycle is active. -/
theorem takeDeadlines_eq (h : HeadId) (c : CycleRecord) (e : Nat) (ha : (s.seq h).state.active = true)
    (hc : (s.head h).cycle = some c) (he : (s.seq h).elapsed = some e) :
    let d := c.recipe.deadlines
    let filled := if d.dFill ≤ e then takeDFill h s else s
    let snifted := if d.dSnift ≤ e then takeDSnift h filled else filled
    (filled.seq h).state.active = true ∧ (snifted.seq h).state.active = true ∧
      takeDeadlines h s = if d.dRelease ≤ e then takeDRelease h snifted else snifted := by
  intro d filled snifted
  have hFill : ((takeDFill h s).seq h).state.active = true := by
    unfold takeDFill
    split
    · exact cutToSnift_active _ h
    · split
      · simpa [flagDeadline, State.modFlags] using ha
      · exact ha
  have a1 : (filled.seq h).state.active = true := by simp only [filled]; split <;> assumption
  have hSnift : ((takeDSnift h filled).seq h).state.active = true := by
    unfold takeDSnift
    split
    · exact cutToSnift_active _ h
    · exact a1
  have a2 : (snifted.seq h).state.active = true := by simp only [snifted]; split <;> assumption
  have w1 : HeadWork h s filled := HeadWork.ite (fun _ => work_takeDFill s h) fun _ => HeadWork.refl h s
  have w2 : HeadWork h s snifted :=
    HeadWork.after (HeadWork.ite (fun _ => work_takeDSnift _ h) fun _ => HeadWork.refl h _) w1
  have e1 : testDeadline h Deadlines.dFill takeDFill s = filled := by
    rw [testDeadline_eq s h _ _ c e hc he, ha]; simp [filled, d]
  have e2 : testDeadline h Deadlines.dSnift takeDSnift filled = snifted := by
    rw [testDeadline_eq filled h _ _ c e (by rw [w1.cycle, hc]) (by rw [w1.elapsed, he]), a1]; simp [snifted, d]
  refine ⟨a1, a2, ?_⟩
  unfold takeDeadlines
  rw [e1, e2, testDeadline_eq snifted h _ _ c e (by rw [w2.cycle, hc]) (by rw [w2.elapsed, he]), a2]
  simp [d]

/-- D_fill in a cycle whose FILL entry has not begun, before its snift (R103). -/
theorem takeDFill_cutInto (h : HeadId) (hm : (s.chan h .main).state = .idle) (hb : s.beforeSnift h) :
    s.cutInto (takeDFill h s) h { (s.seq h).flags with deadline := true } := by
  unfold takeDFill
  rw [if_pos hm]
  exact cutToSnift_cutInto s h (fun f => { f with deadline := true }) hb

/-- D_snift in a cycle before its snift (R104). -/
theorem takeDSnift_cutInto (h : HeadId) (hb : s.beforeSnift h) :
    s.cutInto (takeDSnift h s) h { (s.seq h).flags with deadline := true } := by
  unfold takeDSnift
  rw [if_pos ⟨hb.state, hb.begun⟩]
  exact cutToSnift_cutInto s h (fun f => { f with deadline := true }) hb

/-- D_fill in an ACTIVE dose: the products are closed, the doses are cut, and the entry settles (R103). -/
theorem takeDFill_settles (h : HeadId) (hm : (s.chan h .main).state ≠ .idle) (hd : dosingEntry h s = true) :
    let t := takeDFill h s
    t.seq h =
        { s.seq h with timer := none, progress := .settling, flags := { (s.seq h).flags with deadline := true } } ∧
      (∀ v, v = .fast ∨ v = .slow ∨ v = .add → (t.valve h v).closed) ∧
      ∀ m, t.chan h m = (s.chan h m).cut s.now := by
  have ht : takeDFill h s = (cutBoth h (flagDeadline h (closeProducts h s))).modSeq h fun q =>
      { q with timer := none, progress := .settling } := by
    unfold takeDFill
    rw [if_neg hm, if_pos hd]
  have hn : (flagDeadline h (closeProducts h s)).now = s.now :=
    (HeadWork.after (work_modFlags _ h _) (work_closeProducts s h)).now
  dsimp only
  rw [ht]
  refine ⟨by simp [flagDeadline, State.modFlags], fun v hv => ?_, fun m => ?_⟩
  · rw [modSeq_valve, cutBoth_valve, flagDeadline, State.modFlags, modSeq_valve]
    exact closeProducts_closed s h v hv
  · rw [modSeq_chan, cutBoth_chan, hn]
    simp [flagDeadline, State.modFlags]

end Sys2Proof.Machine
end

