-- ==== Sys2Proof/Laws/Memory.lean ====
section
/-! SUPPORT. Table memory (R52): what a read gives after a write, and that every operation on the memory keeps its
canonical form. -/

namespace Sys2Proof.Machine

/-! ### The canonical form -/

/-- The form from a bound holds from every lower bound. -/
theorem Memory.wfFrom_mono {lo k : Nat} {m : List TableCell} (hk : k ≤ lo) (h : Memory.wfFrom lo m = true) :
    Memory.wfFrom k m = true := by
  cases m with
  | nil => rfl
  | cons c rest =>
    obtain ⟨b, v⟩ := c
    simp only [Memory.wfFrom, Bool.and_eq_true, decide_eq_true_eq] at h ⊢
    exact ⟨⟨⟨by omega, h.1.1.2⟩, h.1.2⟩, h.2⟩

/-- A word below every listed one reads 0. -/
theorem Memory.read_below {lo a : Nat} {m : List TableCell} (h : Memory.wfFrom lo m = true) (ha : a < lo) :
    Memory.read m a = 0#32 := by
  induction m generalizing lo with
  | nil => rfl
  | cons c rest ih =>
    obtain ⟨b, v⟩ := c
    simp only [Memory.wfFrom, Bool.and_eq_true, decide_eq_true_eq] at h
    rw [Memory.read, if_neg (by omega)]
    exact ih h.2 (by omega)

/-- Listing a word keeps the form. -/
theorem Memory.wfFrom_insert {lo a : Nat} {w : Word} {m : List TableCell} (h : Memory.wfFrom lo m = true) (hlo : lo ≤ a)
    (ha : a < Config.tableWords) : Memory.wfFrom lo (Memory.insert a w m) = true := by
  induction m generalizing lo with
  | nil =>
    by_cases hw : w = 0#32
    · simp [Memory.insert, Memory.wfFrom, hw]
    · simp [Memory.insert, Memory.wfFrom, hw, hlo, ha]
  | cons c rest ih =>
    obtain ⟨b, v⟩ := c
    have h' := h
    simp only [Memory.wfFrom, Bool.and_eq_true, decide_eq_true_eq] at h'
    unfold Memory.insert
    by_cases hab : a < b
    · by_cases hw : w = 0#32
      · simpa [hab, hw] using h
      · have := Memory.wfFrom_mono (k := a + 1) (m := (b, v) :: rest) (lo := b) (by omega)
          (by simp only [Memory.wfFrom, Bool.and_eq_true, decide_eq_true_eq]; exact ⟨⟨⟨Nat.le_refl b, h'.1.1.2⟩, h'.1.2⟩, h'.2⟩)
        simp [hab, hw, Memory.wfFrom.eq_2 lo a, hlo, ha, this]
    · by_cases he : a = b
      · by_cases hw : w = 0#32
        · simpa [he, hw] using Memory.wfFrom_mono (k := lo) (by omega) h'.2
        · simpa [hab, he, hw, Memory.wfFrom, h'.2, h'.1.1.2] using h'.1.1.1
      · simpa [hab, he, Memory.wfFrom, h'.1.1, h'.1.2] using ih h'.2 (by omega)

/-- A write keeps the form. -/
theorem Memory.wf_write {a : Nat} {w : Word} {m : List TableCell} (h : Memory.wf m = true) :
    Memory.wf (Memory.write m a w) = true := by
  unfold Memory.write
  split
  · exact Memory.wfFrom_insert h (Nat.zero_le a) ‹_›
  · exact h

/-- A write of several words keeps the form. -/
theorem Memory.wf_writeWords {a : Nat} {ws : List Word} {m : List TableCell} (h : Memory.wf m = true) :
    Memory.wf (Memory.writeWords m a ws) = true := by
  induction ws generalizing a m with
  | nil => exact h
  | cons w rest ih => exact ih (Memory.wf_write h)

/-- The memory after power-on reset has the form. -/
theorem Memory.wf_reset : Memory.wf State.reset.tables.words = true := rfl

/-! ### Reads after writes -/

/-- A read after a word has been listed. -/
theorem Memory.read_insert {lo a b : Nat} {w : Word} {m : List TableCell} (h : Memory.wfFrom lo m = true) :
    Memory.read (Memory.insert a w m) b = if b = a then w else Memory.read m b := by
  induction m generalizing lo with
  | nil =>
    by_cases hw : w = 0#32
    · simp [Memory.insert, Memory.read, hw]
    · simp [Memory.insert, Memory.read, hw]
  | cons c rest ih =>
    obtain ⟨k, v⟩ := c
    have h' := h
    simp only [Memory.wfFrom, Bool.and_eq_true, decide_eq_true_eq] at h'
    have below : a ≤ k → Memory.read rest a = 0#32 := fun hk => Memory.read_below h'.2 (by omega)
    unfold Memory.insert
    by_cases hak : a < k
    · by_cases hw : w = 0#32
      · by_cases hb : b = a
        · subst hb
          simp [hak, hw, Memory.read, below (by omega), Nat.ne_of_lt hak]
        · simp [hak, hw, hb]
      · simp [hak, hw, Memory.read]
    · by_cases he : a = k
      · subst he
        by_cases hw : w = 0#32
        · by_cases hb : b = a
          · subst hb; simp [hw, below (Nat.le_refl b)]
          · simp [hw, hb, Memory.read]
        · by_cases hb : b = a <;> simp [hw, hb, Memory.read]
      · rw [if_neg hak, if_neg he, Memory.read, Memory.read, ih h'.2]
        by_cases hb : b = k
        · have : b ≠ a := by omega
          simp [hb, Ne.symm he]
        · simp [hb]

/-- A read after a write: the word written, and any other word as before. A word beyond the last is never written. -/
theorem Memory.read_write {a b : Nat} {w : Word} {m : List TableCell} (h : Memory.wf m = true) :
    Memory.read (Memory.write m a w) b = if b = a ∧ a < Config.tableWords then w else Memory.read m b := by
  unfold Memory.write
  by_cases ha : a < Config.tableWords
  · rw [if_pos ha, Memory.read_insert h]; simp [ha]
  · simp [ha]

/-- A write of several words leaves every word before and after them. -/
theorem Memory.read_writeWords_other {a b : Nat} {ws : List Word} {m : List TableCell} (h : Memory.wf m = true)
    (hb : b < a ∨ a + ws.length ≤ b) : Memory.read (Memory.writeWords m a ws) b = Memory.read m b := by
  induction ws generalizing a m with
  | nil => rfl
  | cons w rest ih =>
    simp only [List.length_cons] at hb
    rw [Memory.writeWords, ih (Memory.wf_write h) (by omega), Memory.read_write h, if_neg (by omega)]

/-- A write of several words within the memory: each is read back. -/
theorem Memory.read_writeWords {a k : Nat} {ws : List Word} {m : List TableCell} (h : Memory.wf m = true)
    (hend : a + ws.length ≤ Config.tableWords) (hk : k < ws.length) :
    some (Memory.read (Memory.writeWords m a ws) (a + k)) = ws[k]? := by
  induction ws generalizing a m k with
  | nil => exact absurd hk (Nat.not_lt_zero k)
  | cons w rest ih =>
    simp only [List.length_cons] at hend hk
    rw [Memory.writeWords]
    cases k with
    | zero =>
      rw [Memory.read_writeWords_other (Memory.wf_write h) (by omega), Memory.read_write h, if_pos (by omega)]
      rfl
    | succ k =>
      have := ih (a := a + 1) (k := k) (Memory.wf_write (a := a) (w := w) h) (by omega) (by omega)
      rw [show a + (k + 1) = a + 1 + k by omega, this]
      rfl

end Sys2Proof.Machine
end

