-- ==== Sys2Proof/Laws/KeptEvents.lean ====
section
/-! SUPPORT. What the operations of the queue, the pitches, the scanner, the segments, the requests and the resets keep
(see Kept.lean). -/

namespace Sys2Proof.Machine

variable (s : State)

/-! ### The Assignment Queue (R37 to R49) -/

/-- A change of the queue that does not lengthen it. -/
theorem kept_shorter (q : AssignQueue) (hq : q.entries.length ≤ s.queue.entries.length) : Kept s { s with queue := q } :=
  ⟨id, id, id, id, id, fun h => Nat.le_trans hq h, id, id⟩

theorem kept_rearm : Kept s (rearm s) := Kept.ite (fun _ => Kept.same rfl rfl rfl rfl rfl rfl) fun _ => Kept.refl s

theorem kept_discardRecord (head : Byte) (r : NotServedReason) (e : QueueEntry) : Kept s (discardRecord head r e s) :=
  Kept.ite (fun _ => Kept.after (kept_enterUnreserved _ _) (kept_countNotServed s _ _)) fun _ => Kept.refl s

theorem kept_clearQueue (r : NotServedReason) : Kept s (clearQueue r s) :=
  Kept.after (Kept.foldl _ (fun s e => kept_discardRecord s nodeByte r e) _ _) (kept_shorter s ⟨[], true⟩ (Nat.zero_le _))

theorem kept_discardStale (c : Half) : Kept s (discardStale c s) := by
  unfold discardStale
  refine Kept.ite (fun _ => Kept.refl s) fun _ => ?_
  refine Kept.after (Kept.foldl _ (fun s e => ?_) _ _) (Kept.after (kept_rearm _) (kept_shorter s _ (List.length_filter_le _ _)))
  exact Kept.after (kept_discardRecord _ _ _ _) (kept_countEvent s _)

theorem kept_handOver (c : Half) (p : Nat) (k : EventKind) : Kept s (handOver c p k s).2 := by
  unfold handOver
  split
  · rename_i h e rest _ he
    have hk : Kept s (rearm { s with queue := { s.queue with entries := rest } }) :=
      Kept.after (kept_rearm _) (kept_shorter s _ (by rw [he]; exact Nat.le_succ _))
    dsimp only
    split
    · split
      · exact Kept.after (kept_discardRecord _ _ _ _) hk
      · split
        · exact Kept.after (kept_discardRecord _ _ _ _) hk
        · exact hk
    · exact Kept.refl s
  · exact Kept.refl s

theorem kept_appendEntry (e : QueueEntry) (hroom : s.queue.entries.length < s.settings.depth) : Kept s (appendEntry e s) := by
  have hk : ∀ armed, Kept s { s with queue := ⟨s.queue.entries ++ [e], armed⟩ } := fun armed =>
    ⟨id, id, id, id, id, fun _ => by simpa [State.queueBounded] using hroom, id, id⟩
  unfold appendEntry
  dsimp only
  split
  · exact Kept.after (kept_raiseAlarm _ _ _ _ _) (hk false)
  · exact hk s.queue.armed

/-- A slot that passes every check finds a free place. -/
theorem slotRefusal_none {a : AssignSlot} (h : slotRefusal a s = none) : s.queue.entries.length < s.settings.depth := by
  unfold slotRefusal at h
  dsimp only at h
  repeat' split at h
  all_goals first | exact Nat.lt_of_not_le ‹_› | cases h

theorem kept_takeSlot (a : AssignSlot) : Kept s (takeSlot a s).2 := by
  unfold takeSlot
  split
  · split
    · exact kept_countEvent s _
    · exact kept_appendEntry s _ (slotRefusal_none s ‹_›)
  · exact Kept.refl s

/-! ### Pitches (R14 to R35, R90 to R92) -/

theorem kept_modPitch (f : PitchTimer → PitchTimer) : Kept s (s.modPitch f) := Kept.same rfl rfl rfl rfl rfl rfl

theorem kept_modRing (f : RingPort → RingPort) : Kept s (s.modRing f) := Kept.same rfl rfl rfl rfl rfl rfl

theorem kept_setWindow : Kept s (setWindow s) := by
  unfold setWindow
  exact kept_modPitch s _

theorem canReserve_room {h : HeadId} (hc : canReserve h s = true) : orqRoom s = true := by
  unfold canReserve at hc
  simp only [Bool.and_eq_true] at hc
  exact hc.2

theorem kept_immediateNotServed (h : HeadId) (serial : Half) (n : Nat) (r : NotServedReason) (c : CounterId) :
    Kept s (immediateNotServed h serial n r c s) := by
  unfold immediateNotServed
  refine Kept.after (kept_modSeq _ h _ fun _ => rfl) (Kept.after (kept_countEvent _ _) ?_)
  refine Kept.after (Kept.ite (fun hc => ?_) fun _ => kept_loseRecord _) (kept_countNotServed s _ _)
  exact Kept.after (kept_placeRecord _ _ _) (kept_takeReservation _ h (canReserve_room _ hc))

theorem kept_requestCycle (h : HeadId) (e : QueueEntry) : Kept s (requestCycle h e s) := by
  unfold requestCycle
  refine Kept.ite (fun hc => ?_) fun _ => Kept.after (kept_countUnserved _ _) (kept_loseRecord s)
  refine Kept.after (kept_requestResolution _ _ _) (Kept.after (kept_modSeq _ h _ fun _ => rfl) ?_)
  exact kept_takeReservation s h (canReserve_room s hc)

theorem kept_infeedDecision (h : HeadId) (serial : Half) (e : Option QueueEntry) : Kept s (infeedDecision h serial e s) := by
  unfold infeedDecision
  dsimp only
  split
  · split
    · exact kept_requestCycle s h _
    · exact Kept.refl s
  · exact kept_immediateNotServed s h _ _ _ _
  · exact kept_immediateNotServed s h _ _ _ _
  · exact Kept.refl s

theorem kept_takeInfeed (serial : Half) (k : EventKind) (x : Option (HeadId × QueueEntry)) (h : HeadId) :
    Kept s (takeInfeed serial k x h s) :=
  Kept.ite (fun _ => Kept.after (kept_infeedDecision _ h _ _) (kept_modSeq s h _ fun _ => rfl)) fun _ => Kept.refl s

theorem kept_pitchEvent (serial : Half) (p : Nat) (k : EventKind) : Kept s (pitchEvent serial p k s) := by
  have h1 : Kept s (discardStale serial (elapseAll p s)) :=
    Kept.after (kept_discardStale _ _) (kept_mapHeads s _ (fun _ => id) fun _ => id)
  have hr : ∀ u : State, Kept u { u with scanner := { u.scanner with request := true } } := fun u =>
    Kept.same rfl rfl rfl rfl rfl rfl
  unfold pitchEvent
  dsimp only
  refine Kept.after (Kept.ite (fun _ => kept_countEvent _ _) fun _ => Kept.refl _) ?_
  refine Kept.after (hr _) (Kept.after (kept_forHeads _ _ fun h s => kept_takeDeadlines s h) ?_)
  exact Kept.after (Kept.foldl _ (fun s h => kept_takeInfeed s _ _ _ h) _ _) (Kept.after (kept_handOver _ _ _ _) h1)

theorem kept_ringLoss : Kept s (ringLoss s) :=
  Kept.after (kept_forHeads _ _ fun h s => kept_takeRingLoss s h) (kept_clearQueue s _)

theorem kept_enterJoining (b : Bool) : Kept s (enterJoining b s) := by
  unfold enterJoining
  dsimp only
  have h0 : ∀ f, Kept s (dropPitch (s.modRing f)) := fun f => Kept.after (kept_modPitch _ _) (kept_modRing s f)
  split
  · exact Kept.after (kept_ringLoss _) (h0 _)
  · exact h0 _

theorem kept_joinMeasure (serial : Half) (p : Nat) : Kept s (joinMeasure serial p s) := by
  unfold joinMeasure
  refine Kept.after (kept_modPitch _ _) ?_
  split
  · exact kept_modPitch s _
  · exact Kept.refl s

theorem kept_lockOn (serial : Half) (p : Nat) : Kept s (lockOn serial p s) := by
  unfold lockOn
  have h1 : Kept s (releaseHeld (s.modRing fun r => { r with state := .locked })) :=
    Kept.after (kept_releaseHeld _) (kept_modRing s _)
  generalize releaseHeld (s.modRing fun r => { r with state := .locked }) = u at h1 ⊢
  exact Kept.after (kept_pitchEvent _ _ _ _) (Kept.after (kept_setWindow _) (Kept.after (kept_modPitch u _) h1))

theorem kept_joiningPitch (serial : Half) (p : Nat) : Kept s (joiningPitch serial p s) := by
  have h0 : Kept s (setWindow (joinMeasure serial p (extendRun serial p s))) :=
    Kept.after (kept_setWindow _) (Kept.after (kept_joinMeasure _ serial p) (kept_modRing s _))
  unfold joiningPitch
  refine Kept.after (Kept.ite (fun _ => Kept.ite (fun _ => kept_lockOn _ serial p) fun _ => kept_modRing _ _) fun _ => Kept.refl _) h0

theorem kept_sequenceFrom (serial : Half) (p : Nat) : Kept s (sequenceFrom serial p s) := kept_modPitch s _

theorem kept_expectedPitch (q : PitchSequence) (serial : Half) (p : Nat) : Kept s (expectedPitch q serial p s) := by
  unfold expectedPitch
  refine Kept.after (kept_setWindow _) (Kept.after (kept_pitchEvent _ _ _ _) (Kept.after (kept_sequenceFrom _ _ _) ?_))
  exact Kept.ite (fun _ => kept_modPitch s _) fun _ => Kept.refl s

theorem kept_reconfirmPitch (serial : Half) (p : Nat) : Kept s (reconfirmPitch serial p s) :=
  Kept.after (kept_setWindow _) (kept_sequenceFrom s serial p)

theorem kept_catchUpEvents (nPos n : Nat) (e : Half) (p : Nat) : Kept s (catchUpEvents nPos n e p s) := by
  induction n generalizing s e p with
  | zero => exact Kept.refl s
  | succ n ih => exact Kept.after (ih _ _ _) (kept_pitchEvent s e p _)

theorem kept_catchUpPitch (q : PitchSequence) (serial : Half) (p : Nat) : Kept s (catchUpPitch q serial p s) := by
  unfold catchUpPitch
  refine Kept.after (kept_setWindow _) (Kept.after (kept_pitchEvent _ _ _ _) (Kept.after (kept_sequenceFrom _ _ _) ?_))
  exact kept_catchUpEvents s _ _ _ _

theorem kept_discontinuity (q : PitchSequence) (serial : Half) : Kept s (discontinuity q serial s) :=
  Kept.after (kept_enterJoining _ true) (kept_raiseAlarm s _ _ _ _)

theorem kept_holdoverRun (serial : Half) (p : Nat) : Kept s (holdoverRun serial p s) := by
  unfold holdoverRun
  refine Kept.ite (fun _ => ?_) fun _ => Kept.refl s
  exact Kept.after (Kept.ite (fun _ => kept_modRing _ _) fun _ => Kept.refl _) (kept_modRing s _)

theorem kept_servingPitch (serial : Half) (p : Nat) : Kept s (servingPitch serial p s) := by
  unfold servingPitch
  split
  · exact Kept.refl s
  · split
    · exact Kept.after (kept_holdoverRun _ _ _) (kept_expectedPitch s _ _ _)
    · exact Kept.after (kept_holdoverRun _ _ _) (kept_reconfirmPitch s _ _)
    · exact Kept.after (kept_holdoverRun _ _ _) (kept_catchUpPitch s _ _ _)
    · exact kept_discontinuity s _ _

theorem kept_takeCarousel (c : Carousel) : Kept s (takeCarousel c s) := by
  unfold takeCarousel
  refine Kept.after (Kept.ite (fun _ => kept_forHeads _ _ fun h s => kept_endStepMode s h) fun _ => ?_) (kept_modPitch s _)
  exact Kept.after (kept_modRing _ _) (kept_modPitch _ _)

theorem kept_takePitchHeader (serial : Half) (p : Nat) : Kept s (takePitchHeader serial p s) := by
  have h0 : Kept s (s.modRing fun r => { r with badCount := 0 }) := kept_modRing s _
  unfold takePitchHeader
  dsimp only
  split
  · exact Kept.after (kept_joiningPitch _ _ _) h0
  · exact Kept.after (kept_servingPitch _ _ _) h0
  · exact Kept.after (kept_servingPitch _ _ _) h0
  · exact h0
  · exact h0
  · exact h0

theorem kept_badPitch : Kept s (badPitch s) := by
  unfold badPitch
  refine Kept.after (Kept.ite (fun _ => ?_) fun _ => Kept.ite (fun _ => ?_) fun _ => Kept.refl _) (kept_modRing s _)
  · exact Kept.after (kept_ringLoss _) (Kept.after (kept_raiseAlarm _ _ _ _ _) (kept_modRing _ _))
  · exact Kept.after (kept_raiseAlarm _ _ _ _ _) (kept_modRing _ _)

theorem kept_estimatedPitch (t : Nat) : Kept s (estimatedPitch t s) := by
  unfold estimatedPitch
  split
  · refine Kept.ite (fun _ => ?_) fun _ => kept_setWindow s
    exact Kept.after (kept_setWindow _) (Kept.after (kept_modPitch _ _) (kept_pitchEvent s _ _ _))
  · exact kept_setWindow s

theorem kept_windowExpires (t : Nat) : Kept s (windowExpires t s) := by
  unfold windowExpires
  split
  · exact Kept.after (kept_modPitch _ _) (kept_modRing s _)
  · exact Kept.after (kept_estimatedPitch _ _) (kept_badPitch s)
  · exact Kept.after (kept_estimatedPitch _ _) (kept_badPitch s)
  · exact Kept.refl s
  · exact Kept.refl s
  · exact Kept.refl s

/-! ### The scanner and the field inputs (R134 to R150) -/

theorem kept_startNext : Kept s (startNext s) :=
  Kept.ite (fun _ => Kept.same rfl rfl rfl rfl rfl rfl) fun _ => Kept.same rfl rfl rfl rfl rfl rfl

theorem kept_abandonConversion (h : HeadId) : Kept s (abandonConversion h s) :=
  Kept.ite (fun _ => kept_startNext s) fun _ => Kept.refl s

theorem kept_announceSensorFault (code : AlarmCode) (head : Byte) (c : ScanChannel) (r : BitVec 12) :
    Kept s (announceSensorFault code head c r s) :=
  Kept.after (kept_countEvent _ _) (kept_raiseAlarm s _ _ _ _)

theorem kept_completeHead (h : HeadId) (raw : BitVec 12) : Kept s (completeHead h raw s) := by
  unfold completeHead
  refine Kept.after (kept_traceTick _ _) (Kept.after (kept_takeConversion _ h _) ?_)
  refine Kept.after (Kept.ite (fun _ => ?_) fun _ => Kept.refl _) (kept_modHead s h _ id id)
  exact Kept.after (kept_takeSensorFault _ h) (kept_announceSensorFault _ _ _ _ _)

theorem kept_completeBowl (raw : BitVec 12) : Kept s (completeBowl raw s) := by
  unfold completeBowl
  refine Kept.after (kept_traceTick _ _) (Kept.after (Kept.ite (fun _ => ?_) fun _ => Kept.refl _) (Kept.same rfl rfl rfl rfl rfl rfl))
  exact Kept.after (kept_forHeads _ _ fun h s => kept_takeSensorFault s h) (kept_announceSensorFault _ _ _ _ _)

theorem kept_completeConversion (raw : BitVec 12) : Kept s (completeConversion raw s) := by
  unfold completeConversion
  split
  · exact Kept.refl s
  · dsimp only
    split
    · exact Kept.after (kept_startNext _) (Kept.after (kept_completeHead _ _ _) (kept_advance s _))
    · exact Kept.after (kept_startNext _) (Kept.after (kept_completeBowl _ _) (kept_advance s _))

theorem kept_takePresence (h : HeadId) : Kept s (takePresence h s) := kept_modHead s h _ id id

theorem kept_changePresence (h : HeadId) (a : Bool) : Kept s (changePresence h a s) := by
  have h0 : Kept s (s.modHead h fun x => { x with presentPin := a }) := kept_modHead s h _ id id
  unfold changePresence
  dsimp only
  refine Kept.ite (fun _ => h0) fun _ => ?_
  exact Kept.after (Kept.ite (fun _ => kept_takePresence _ h) fun _ => Kept.refl _) (Kept.after (kept_modHead _ h _ id id) h0)

theorem kept_presenceExpires (h : HeadId) : Kept s (presenceExpires h s) :=
  Kept.ite (fun _ => Kept.after (kept_takePresence _ h) (kept_advance s _)) fun _ => Kept.refl s

theorem kept_changeFeedback (h : HeadId) (v : ValveId) (a : Bool) : Kept s (changeFeedback h v a s) := by
  have h0 : Kept s (s.modValve h v fun x => { x with pin := a }) := kept_modValve s h v _ rfl
  unfold changeFeedback
  dsimp only
  refine Kept.ite (fun _ => h0) fun _ => ?_
  exact Kept.after (Kept.ite (fun _ => kept_takeFeedback _ h v) fun _ => Kept.refl _) (Kept.after (kept_modValve _ h v _ rfl) h0)

theorem kept_feedbackExpires (h : HeadId) (v : ValveId) : Kept s (feedbackExpires h v s) :=
  Kept.ite (fun _ => Kept.after (kept_takeFeedback _ h v) (kept_advance s _)) fun _ => Kept.refl s

theorem kept_strokeExpires (h : HeadId) (v : ValveId) : Kept s (strokeExpires h v s) := by
  unfold strokeExpires
  split
  · exact Kept.after (kept_valveFault _ h v _) (Kept.after (kept_modValve _ h v _ rfl) (kept_advance s _))
  · exact Kept.refl s

theorem kept_retimePresence : Kept s (retimePresence s) :=
  kept_forHeads s _ fun h s => Kept.ite (fun _ => kept_takePresence s h) fun _ => Kept.refl s

theorem kept_retimeFeedback : Kept s (retimeFeedback s) :=
  kept_forValves s _ fun h v s => Kept.ite (fun _ => kept_takeFeedback s h v) fun _ => Kept.refl s

end Sys2Proof.Machine
end

