-- ==== Sys2Proof/Laws/Requests.lean ====
section
/-! SUPPORT. Requests: a request that the node judges ends in the state of its own rule, with the answered slot on ring OUT;
and what becomes of one that it does not handle. A statement about one request then needs only its own rule. -/

namespace Sys2Proof.Machine

open Sys2Proof

theorem State.judges.not_failed {s : State} (h : s.judges) : s.ring.state ≠ .failed := by
  rcases h with h | h | h <;> simp [h]

/-- An own address is no broadcast. -/
theorem State.ownAddress.ne_broadcast {s : State} {d : BitVec 6} (h : s.ownAddress d) : d ≠ 63#6 := by
  obtain ⟨a, -, h⟩ := h
  intro e
  have : d.toNat = 63 := by rw [e]; rfl
  omega

theorem State.takesOwn.takes {s : State} {q : Envelope} (h : s.takesOwn q) : s.takes q := ⟨h.1, h.2.1, .inr h.2.2⟩

/-- A slot in state REQUEST to the node's address or to 63 is handled in the states that answer management. -/
theorem slotHandled_of {m : MgmtSlot} {s : State} (hm : m.state = 1#2) (hs : s.judges ∨ s.ring.state = .failed)
    (hd : m.dest = 63#6 ∨ s.ownAddress m.dest) : slotHandled m s = true := by
  have hst : s.ring.state = .joining ∨ s.ring.state = .locked ∨ s.ring.state = .holdover ∨ s.ring.state = .failed := by
    rcases hs with (h | h | h) | h <;> simp [h]
  unfold slotHandled
  rcases hst with h | h | h | h <;> rcases hd with g | ⟨a, ha, g⟩ <;> simp [*]

/-- A slot that the node does not handle passes unchanged and changes nothing (R172). -/
theorem handleSlot_unhandled {m : MgmtSlot} {s : State} (h : slotHandled m s = false) : handleSlot m s = (m, s) := by
  simp [handleSlot, h]

/-- What the node does with a slot that it handles. -/
theorem handleSlot_handled {m : MgmtSlot} {s : State} (h : slotHandled m s = true) :
    handleSlot m s = (replied m (judgeRequest m s).1, (judgeRequest m s).2) := by
  simp [handleSlot, h, replied]

/-- The tests of R173 pass: the request is judged by its own rule. -/
theorem judgeRequest_own {m : MgmtSlot} {s : State} (hs : s.judges) (hk : definedRequestKind m.kind = true)
    (hb : m.dest = 63#6 → broadcastKind m.kind = true) : judgeRequest m s = ownRule m s := by
  unfold judgeRequest
  rw [if_neg (fun h => hs.not_failed h.1), hk]
  by_cases hd : m.dest = 63#6
  · simp [hb hd]
  · simp [hd]

/-- A request at the node's own address or, for a kind that is open to it, at 63: its row ends in the state of its own rule
with the answered slot on ring OUT (R172, R173, R174). -/
theorem request_taken {q : Envelope} {m : MgmtSlot} {s : State} (ht : s.takes q) (hm : m.state = 1#2) (hd : m.dest = q.dest)
    (hk : definedRequestKind m.kind = true) (hb : q.dest = 63#6 → broadcastKind m.kind = true) :
    request q m s = .next
      { (ownRule m (s.advance q.time)).2 with mgmtOut := some (replied m (ownRule m (s.advance q.time)).1) } := by
  obtain ⟨h1, h2, h3⟩ := ht
  have hs : (s.advance q.time).judges := h2
  have hh : slotHandled m (s.advance q.time) = true := slotHandled_of hm (.inl hs) (by rw [hd]; exact h3)
  have hsch : takeScheduled (s.advance q.time) = s.advance q.time := by
    unfold takeScheduled
    rw [if_neg]
    simp [State.advance, h1]
  simp only [request, presentSlot, hsch, handleSlot_handled hh, judgeRequest_own hs hk (by rw [hd]; exact hb)]

/-- The same for a request at the node's own address alone. -/
theorem request_taken_own {q : Envelope} {m : MgmtSlot} {s : State} (ht : s.takesOwn q) (hm : m.state = 1#2)
    (hd : m.dest = q.dest) (hk : definedRequestKind m.kind = true) :
    request q m s = .next
      { (ownRule m (s.advance q.time)).2 with mgmtOut := some (replied m (ownRule m (s.advance q.time)).1) } :=
  request_taken ht.takes hm hd hk fun h => absurd h ht.2.2.ne_broadcast

/-- A refusal at the request's own rule changes the time and the slot alone. -/
theorem answered_of_refusal {q : Envelope} {m : MgmtSlot} {s : State} {a : Answer}
    (h : ownRule m (s.advance q.time) = (a, s.advance q.time)) :
    ({ (ownRule m (s.advance q.time)).2 with mgmtOut := some (replied m (ownRule m (s.advance q.time)).1) } : State) =
      s.answered q m a := by
  rw [h]
  rfl

end Sys2Proof.Machine
end

