-- ==== Sys2Proof/Laws/KeptRequests.lean ====
section
/-! SUPPORT. What the requests and the resets keep (see Kept.lean), and the segment map under each of its changes. -/

namespace Sys2Proof.Machine

variable (s : State)

/-! ### The segment map (R54 to R62) -/

/-- A change of table memory and segment map alone. -/
theorem kept_tables (t : Tables) (h1 : s.memoryWf → Memory.wf t.words = true) (h2 : s.segmentsPlaced → t.placed) :
    Kept s { s with tables := t } :=
  ⟨id, id, h1, id, id, id, id, h2⟩

/-- One entry of a map after another has been set. -/
theorem segments_set (v : Vector Segment 32) (g k : Fin 32) (x : Segment) :
    (v.set g.val x g.isLt)[k] = if k = g then x else v[k] := by
  by_cases h : k = g
  · subst h; simp
  · have : g.val ≠ k.val := fun e => h (Fin.ext e.symm)
    simp [h, Vector.getElem_set_ne, this]

/-- A placement that shares no word with a defined segment lies on one side of it. -/
theorem not_sharesWord {base length : Nat} (h : sharesWord base length s = false) (g : Fin 32)
    (hg : s.tables.segments[g].state ≠ .undefined) (hl : 0 < length) (hp : 0 < s.tables.segments[g].length) :
    base + length ≤ s.tables.segments[g].base ∨ s.tables.segments[g].base + s.tables.segments[g].length ≤ base := by
  unfold sharesWord at h
  rw [List.any_eq_false] at h
  have := h s.tables.segments[g] (by simp)
  simp only [Bool.and_eq_true, decide_eq_true_eq, not_and, Nat.not_lt] at this
  have := this hg
  omega

theorem kept_defineSegment (m : MgmtSlot) : Kept s (defineSegment m s).2 := by
  unfold defineSegment
  dsimp only
  split
  · rename_i g k _ _
    split
    · exact Kept.refl s
    · rename_i hu
      split
      · exact Kept.refl s
      · rename_i hr
        split
        · exact Kept.refl s
        · rename_i hs
          refine kept_tables s _ id fun hp => ?_
          simp only [State.segment, ne_eq, not_not] at hu
          simp only [not_or, Nat.not_lt] at hr
          have hs' := fun i hi => not_sharesWord s (Bool.eq_false_iff.mpr hs) i hi (Nat.pos_of_ne_zero hr.1)
          refine ⟨fun i hi => ?_, fun i j hij hi hj => ?_, fun i => ?_, fun i ho => ?_, fun i => ?_⟩
          · simp only [State.modSegment, State.modTables, segments_set] at hi ⊢
            by_cases he : i = g
            · subst he
              rw [if_pos rfl]
              exact ⟨k, rfl, Nat.pos_of_ne_zero hr.1, Nat.dvd_of_mod_eq_zero (by simpa using hr.2.1), hr.2.2⟩
            · rw [if_neg he] at hi ⊢
              exact hp.within i hi
          · simp only [State.modSegment, State.modTables, segments_set] at hi hj ⊢
            by_cases h1 : i = g <;> by_cases h2 : j = g
            · exact absurd (h1.trans h2.symm) hij
            · rw [if_neg h2] at hj
              rw [if_pos h1, if_neg h2]
              obtain ⟨-, -, hl, -⟩ := hp.within j hj
              exact hs' j hj hl
            · rw [if_neg h1] at hi
              rw [if_pos h2, if_neg h1]
              obtain ⟨-, -, hl, -⟩ := hp.within i hi
              exact (hs' i hi hl).symm
            · rw [if_neg h1] at hi
              rw [if_neg h2] at hj
              rw [if_neg h1, if_neg h2]
              exact hp.apart i j hij hi hj
          · simp only [State.modSegment, State.modTables, segments_set]
            by_cases he : i = g
            · subst he
              rw [if_pos rfl]
              exact ⟨fun h => (by cases h), fun h => absurd ((hp.loading i).mpr h) (by rw [hu]; decide)⟩
            · rw [if_neg he]; exact hp.loading i
          · simp only [State.modSegment, State.modTables, segments_set]
            by_cases he : i = g
            · subst he
              exact absurd ((hp.loading i).mpr ho) (by rw [hu]; decide)
            · rw [if_neg he]; exact hp.pointer i ho
          · simp only [State.modSegment, State.modTables, segments_set]
            by_cases he : i = g
            · subst he
              rw [if_pos rfl]
              exact ⟨fun h => (by cases h), fun h => absurd ((hp.checking i).mpr h) (by rw [hu]; decide)⟩
            · rw [if_neg he]; exact hp.checking i
  · exact Kept.refl s

theorem kept_deleteSegment (m : MgmtSlot) : Kept s (deleteSegment m s).2 := by
  unfold deleteSegment
  split
  · exact Kept.refl s
  · rename_i g _
    split
    · exact Kept.refl s
    · split
      · exact Kept.refl s
      · rename_i hb
        split
        · exact Kept.refl s
        · refine kept_tables s _ id fun hp => ?_
          simp only [State.segment, not_or] at hb
          refine ⟨fun i hi => ?_, fun i j hij hi hj => ?_, fun i => ?_, fun i ho => ?_, fun i => ?_⟩
          · simp only [State.modSegment, State.modTables, segments_set] at hi ⊢
            by_cases he : i = g
            · rw [if_pos he] at hi; exact absurd rfl hi
            · rw [if_neg he] at hi ⊢; exact hp.within i hi
          · simp only [State.modSegment, State.modTables, segments_set] at hi hj ⊢
            by_cases h1 : i = g
            · rw [if_pos h1] at hi; exact absurd rfl hi
            · by_cases h2 : j = g
              · rw [if_pos h2] at hj; exact absurd rfl hj
              · rw [if_neg h1] at hi ⊢
                rw [if_neg h2] at hj ⊢
                exact hp.apart i j hij hi hj
          · simp only [State.modSegment, State.modTables, segments_set]
            by_cases he : i = g
            · subst he
              rw [if_pos rfl]
              exact ⟨fun h => (by cases h), fun h => absurd ((hp.loading i).mpr h) hb.1⟩
            · rw [if_neg he]; exact hp.loading i
          · simp only [State.modSegment, State.modTables, segments_set]
            by_cases he : i = g
            · subst he; exact absurd ((hp.loading i).mpr ho) hb.1
            · rw [if_neg he]; exact hp.pointer i ho
          · simp only [State.modSegment, State.modTables, segments_set]
            by_cases he : i = g
            · subst he
              rw [if_pos rfl]
              exact ⟨fun h => (by cases h), fun h => absurd ((hp.checking i).mpr h) hb.2⟩
            · rw [if_neg he]; exact hp.checking i

theorem kept_openLoad (m : MgmtSlot) : Kept s (openLoad m s).2 := by
  unfold openLoad
  split
  · exact Kept.refl s
  · rename_i g _
    split
    · exact Kept.refl s
    · rename_i hu
      split
      · exact Kept.refl s
      · rename_i ho
        split
        · exact Kept.refl s
        · rename_i hc
          split
          · exact Kept.refl s
          · refine kept_tables s _ id fun hp => ?_
            simp only [State.segment] at hu hc
            have ho' : ∀ i, s.tables.openSegment = some i → i = g := by
              intro i hi
              unfold otherOpen at ho
              rw [hi] at ho
              simpa using ho
            refine ⟨fun i hi => ?_, fun i j hij hi hj => ?_, fun i => ?_, fun i ho => Nat.zero_le _, fun i => ?_⟩
            · simp only [State.modSegment, State.modTables, segments_set] at hi ⊢
              by_cases he : i = g
              · subst he; rw [if_pos rfl]; exact hp.within i hu
              · rw [if_neg he] at hi ⊢; exact hp.within i hi
            · simp only [State.modSegment, State.modTables, segments_set] at hi hj ⊢
              by_cases h1 : i = g <;> by_cases h2 : j = g
              · exact absurd (h1.trans h2.symm) hij
              · rw [if_neg h2] at hj
                subst h1
                rw [if_pos rfl, if_neg h2]
                exact hp.apart i j hij hu hj
              · rw [if_neg h1] at hi
                subst h2
                rw [if_pos rfl, if_neg h1]
                exact hp.apart i j hij hi hu
              · rw [if_neg h1] at hi
                rw [if_neg h2] at hj
                rw [if_neg h1, if_neg h2]
                exact hp.apart i j hij hi hj
            · simp only [State.modSegment, State.modTables, segments_set]
              by_cases he : i = g
              · subst he; rw [if_pos rfl]; exact ⟨fun _ => rfl, fun _ => rfl⟩
              · rw [if_neg he]
                refine ⟨fun h => absurd (ho' i ((hp.loading i).mp h)) he, fun h => ?_⟩
                exact absurd (Option.some.inj h).symm he
            · simp only [State.modSegment, State.modTables, segments_set]
              by_cases he : i = g
              · subst he
                rw [if_pos rfl]
                exact ⟨fun h => (by cases h), fun h => absurd ((hp.checking i).mpr h) hc⟩
              · rw [if_neg he]; exact hp.checking i

theorem kept_loadWords (m : MgmtSlot) : Kept s (loadWords m s).2 := by
  unfold loadWords
  dsimp only
  split
  · exact Kept.refl s
  · split
    · exact Kept.refl s
    · rename_i g hg
      split
      · exact Kept.refl s
      · split
        · exact Kept.refl s
        · rename_i hl
          refine kept_tables s _ (fun h => Memory.wf_writeWords h) fun hp => ?_
          refine ⟨hp.within, hp.apart, hp.loading, fun i hi => ?_, hp.checking⟩
          have : i = g := by
            have := hi.symm.trans hg
            exact Option.some.inj this
          subst this
          exact Nat.le_of_not_lt hl

theorem kept_closeLoad (m : MgmtSlot) : Kept s (closeLoad m s).2 := by
  unfold closeLoad
  split
  · exact Kept.refl s
  · rename_i g hg
    split
    · exact Kept.refl s
    · split
      · exact Kept.refl s
      · rename_i hc
        refine kept_tables s _ id fun hp => ?_
        have hl : s.tables.segments[g].state = .loading := (hp.loading g).mpr hg
        have hu : s.tables.segments[g].state ≠ .undefined := by rw [hl]; decide
        have hno : ∀ i, s.tables.segments[i].state = .checking → i = g := by
          intro i hi
          obtain ⟨c, hcs, rfl⟩ := (hp.checking i).mp hi
          unfold checksOther at hc
          rw [hcs] at hc
          simpa using hc
        refine ⟨fun i hi => ?_, fun i j hij hi hj => ?_, fun i => ?_, fun i ho => (by cases ho), fun i => ?_⟩
        · simp only [State.modSegment, State.modTables, segments_set] at hi ⊢
          by_cases he : i = g
          · subst he; rw [if_pos rfl]; exact hp.within i hu
          · rw [if_neg he] at hi ⊢; exact hp.within i hi
        · simp only [State.modSegment, State.modTables, segments_set] at hi hj ⊢
          by_cases h1 : i = g <;> by_cases h2 : j = g
          · exact absurd (h1.trans h2.symm) hij
          · rw [if_neg h2] at hj
            subst h1
            rw [if_pos rfl, if_neg h2]
            exact hp.apart i j hij hu hj
          · rw [if_neg h1] at hi
            subst h2
            rw [if_pos rfl, if_neg h1]
            exact hp.apart i j hij hi hu
          · rw [if_neg h1] at hi
            rw [if_neg h2] at hj
            rw [if_neg h1, if_neg h2]
            exact hp.apart i j hij hi hj
        · simp only [State.modSegment, State.modTables, segments_set]
          refine ⟨fun h => ?_, fun h => (by cases h)⟩
          by_cases he : i = g
          · rw [if_pos he] at h; cases h
          · rw [if_neg he] at h
            have := ((hp.loading i).mp h).symm.trans hg
            exact absurd (Option.some.inj this) he
        · simp only [State.modSegment, State.modTables, segments_set]
          by_cases he : i = g
          · subst he
            rw [if_pos rfl]
            exact ⟨fun _ => ⟨_, rfl, rfl⟩, fun _ => rfl⟩
          · rw [if_neg he]
            refine ⟨fun h => absurd (hno i h) he, ?_⟩
            rintro ⟨c, hcs, hci⟩
            cases hcs
            exact absurd hci.symm he

theorem kept_completeCheck : Kept s (completeCheck s) := by
  unfold completeCheck
  split
  · exact Kept.refl s
  · rename_i c hc
    refine kept_tables s _ id fun hp => ?_
    have hk : s.tables.segments[c.segment].state = .checking := (hp.checking c.segment).mpr ⟨c, hc, rfl⟩
    have hu : s.tables.segments[c.segment].state ≠ .undefined := by rw [hk]; decide
    generalize checkOfWords (segmentWords c.segment s) = k
    have hn : ∀ st : SegState, st = .loading ∨ st = .checking →
        (if k = s.tables.segments[c.segment].expected then SegState.valid else .bad) ≠ st := by
      rintro st (rfl | rfl) <;> split <;> decide
    refine ⟨fun i hi => ?_, fun i j hij hi hj => ?_, fun i => ?_, fun i ho => ?_, fun i => ?_⟩
    · simp only [State.modSegment, State.modTables, segments_set] at hi ⊢
      by_cases he : i = c.segment
      · subst he; rw [if_pos rfl]; exact hp.within _ hu
      · rw [if_neg he] at hi ⊢; exact hp.within i hi
    · simp only [State.modSegment, State.modTables, segments_set] at hi hj ⊢
      by_cases h1 : i = c.segment <;> by_cases h2 : j = c.segment
      · exact absurd (h1.trans h2.symm) hij
      · rw [if_neg h2] at hj
        subst h1
        rw [if_pos rfl, if_neg h2]
        exact hp.apart _ j hij hu hj
      · rw [if_neg h1] at hi
        subst h2
        rw [if_pos rfl, if_neg h1]
        exact hp.apart i _ hij hi hu
      · rw [if_neg h1] at hi
        rw [if_neg h2] at hj
        rw [if_neg h1, if_neg h2]
        exact hp.apart i j hij hi hj
    · simp only [State.modSegment, State.modTables, segments_set]
      by_cases he : i = c.segment
      · subst he
        rw [if_pos rfl]
        refine ⟨fun h => absurd h (hn _ (.inl rfl)), fun h => ?_⟩
        exact absurd ((hp.loading _).mpr h) (by rw [hk]; decide)
      · rw [if_neg he]; exact hp.loading i
    · simp only [State.modSegment, State.modTables, segments_set]
      by_cases he : i = c.segment
      · subst he; rw [if_pos rfl]; exact hp.pointer _ ho
      · rw [if_neg he]; exact hp.pointer i ho
    · simp only [State.modSegment, State.modTables, segments_set]
      by_cases he : i = c.segment
      · subst he
        rw [if_pos rfl]
        refine ⟨fun h => absurd h (hn _ (.inr rfl)), ?_⟩
        rintro ⟨d, hd, -⟩; cases hd
      · rw [if_neg he]
        refine ⟨fun h => ?_, ?_⟩
        · obtain ⟨d, hd, rfl⟩ := (hp.checking i).mp h
          rw [hc] at hd
          cases hd
          exact absurd rfl he
        · rintro ⟨d, hd, -⟩; cases hd

/-! ### The other requests -/

theorem kept_setDirectory (n : Fin 128) (d : Option DirEntry) : Kept s (setDirectory n d s) := Kept.same rfl rfl rfl rfl rfl rfl

theorem kept_directoryRequest (m : MgmtSlot) : Kept s (directoryRequest m s).2 := by
  unfold directoryRequest
  split
  · split
    · exact kept_setDirectory s _ _
    · split
      · exact Kept.refl s
      · exact kept_setDirectory s _ _
    · exact Kept.refl s
  · exact Kept.refl s

theorem kept_setRecord (h : HeadId) (ok : Bool) (f : HeadRecord → HeadRecord) (hf : ∀ t : HeadRecord, t.bounded → (f t).bounded) :
    Kept s (setRecord h ok f s).2 := by
  unfold setRecord
  split
  · exact Kept.refl s
  · split
    · exact kept_modTable s h f (hf _)
    · exact Kept.refl s

theorem kept_headSet (m : MgmtSlot) : Kept s (headSet m s).2 := by
  unfold headSet
  dsimp only
  split
  · exact Kept.refl s
  · split
    · exact kept_setRecord s _ _ _ fun _ h => h
    · split
      · exact kept_setRecord s _ _ _ fun _ h => h
      · split
        · refine kept_setRecord s _ _ _ fun t _ k => ?_
          cases k
          · exact Nat.min_le_right _ _
          · exact Nat.min_le_right _ _
        · exact Kept.refl s

theorem kept_applySettings (x : Settings) (hx : settingsOk x = true) (hq : s.queue.entries = []) : Kept s (applySettings x s) := by
  have h0 : Kept s
      { s with
        settings := x, queue := { s.queue with armed := true }, pitch := rejudgePosition s.settings.nPos x.nPos s.pitch } :=
    ⟨id, id, id, id, id, fun _ => by simp [State.queueBounded, hq], fun _ => hx, id⟩
  unfold applySettings
  dsimp only
  refine Kept.after (Kept.ite (fun _ => Kept.refl _) fun _ => kept_retimeFeedback _) ?_
  exact Kept.after (Kept.ite (fun _ => Kept.refl _) fun _ => kept_retimePresence _) h0

theorem kept_nodeSetRequest (m : MgmtSlot) : Kept s (nodeSetRequest m s).2 := by
  unfold nodeSetRequest
  dsimp only
  split
  · exact Kept.refl s
  · rename_i hb
    split
    · exact Kept.refl s
    · rename_i hx
      split
      · exact Kept.refl s
      · refine kept_applySettings s _ (by simpa using hx) ?_
        simp only [Bool.or_eq_true, not_or] at hb
        simpa using hb.2

theorem kept_turnOff (h : HeadId) : Kept s (turnOff h s) := by
  have h0 : Kept s (clearEqualised h (closeAll h s)) := Kept.after (kept_clearEqualised _ h) (kept_closeAll s h)
  have hq : ((clearEqualised h (closeAll h s)).seq h).equalised = false := by
    unfold clearEqualised
    split
    · unfold interlockClose
      simp only [interlockCloseOne_seq]
      simp [State.seq, State.modSeq]
    · exact Bool.eq_false_iff.mpr ‹_›
  unfold turnOff
  dsimp only
  generalize clearEqualised h (closeAll h s) = u at h0 hq ⊢
  refine Kept.after (kept_abandonConversion _ h) (Kept.after (kept_modHead u h _ ?_ id) h0)
  intro hi hp
  have := (hi hp).1
  simp only [State.seq] at hq
  rw [hq] at this
  cases this

theorem kept_headOn (h : HeadId) : Kept s (headOn h s).2 := by
  unfold headOn
  split
  · exact Kept.refl s
  · split
    · exact Kept.refl s
    · dsimp only
      exact kept_modSeq s h _ fun _ => rfl

theorem kept_headOff (h : HeadId) : Kept s (headOff h s).2 := by
  unfold headOff
  split <;> dsimp only <;> first | with_reducible exact Kept.refl s | with_reducible exact kept_turnOff s h

theorem kept_headClear (h : HeadId) : Kept s (headClear h s).2 := by
  unfold headClear
  split
  · exact Kept.refl s
  · split
    · dsimp only
      exact kept_modSeq s h _ fun _ => rfl
    · exact Kept.refl s

theorem kept_headForget (h : HeadId) : Kept s (headForget h s).2 := by
  unfold headForget
  split
  · dsimp only
    refine kept_modTable s h _ fun _ k => ?_
    cases k <;> exact Nat.zero_le _
  · exact Kept.refl s

theorem kept_headStepOn (h : HeadId) : Kept s (headStepOn h s).2 := by
  unfold headStepOn
  split
  · dsimp only
    exact kept_modSeq s h _ fun _ => rfl
  · exact Kept.refl s

theorem kept_headStep (h : HeadId) : Kept s (headStep h s).2 := by
  unfold headStep
  split
  · exact kept_resumeStep s h
  · exact Kept.refl s

theorem kept_headControl (m : MgmtSlot) : Kept s (headControl m s).2 := by
  unfold headControl
  split
  · exact kept_headOn s _
  · exact kept_headOff s _
  · exact kept_headClear s _
  · exact kept_headForget s _
  · exact kept_headStepOn s _
  · exact kept_endStepMode s _
  · exact kept_headStep s _
  · exact Kept.refl s

theorem kept_countersRequest (m : MgmtSlot) : Kept s (countersRequest m s).2 := by
  unfold countersRequest
  split
  · exact Kept.refl s
  · exact Kept.refl s
  · exact Kept.same rfl rfl rfl rfl rfl rfl

theorem kept_totalsRequest (m : MgmtSlot) : Kept s (totalsRequest m s).2 := by
  unfold totalsRequest
  split
  · split
    · exact Kept.refl s
    · exact Kept.refl s
    · exact Kept.same rfl rfl rfl rfl rfl rfl
  · exact Kept.refl s

theorem kept_traceArmRequest (m : MgmtSlot) : Kept s (traceArmRequest m s).2 := by
  unfold traceArmRequest
  dsimp only
  split
  · split
    · exact Kept.refl s
    · unfold armDescriptor
      split
      · exact Kept.refl s
      · split
        · exact Kept.refl s
        · rename_i isB _ _ t link _ _ _ _ _ _ h1 h2
          cases isB <;> refine kept_trace s _ fun hr => ?_
          · exact absurd ⟨hr.1, hr.2⟩ h2
          · exact absurd ⟨hr.2, hr.1⟩ h2
  · exact Kept.refl s

/-- A stopped descriptor is not RUNNING. -/
theorem stop_not_running (d : Descriptor) : d.stop.state ≠ .running := by
  unfold Descriptor.stop
  split <;> simp_all

theorem kept_traceStopRequest (m : MgmtSlot) : Kept s (traceStopRequest m s).2 := by
  unfold traceStopRequest
  split
  · exact Kept.refl s
  · rename_i isB _
    cases isB <;> refine kept_trace s _ fun hr => ?_
    · exact absurd hr.1 (stop_not_running _)
    · exact absurd hr.2 (stop_not_running _)

theorem kept_testRequest (m : MgmtSlot) : Kept s (testRequest m s).2 := by
  unfold testRequest
  split
  · split
    · exact Kept.refl s
    · exact Kept.same rfl rfl rfl rfl rfl rfl
  · split
    · exact Kept.refl s
    · dsimp only
      refine kept_modHead s _ _ ?_ ?_
      · exact fun h => h
      · exact fun h => h
  · exact Kept.refl s

theorem kept_ownRule (m : MgmtSlot) : Kept s (ownRule m s).2 := by
  unfold ownRule
  split
  · exact kept_defineSegment s m
  · exact kept_deleteSegment s m
  · exact kept_openLoad s m
  · exact kept_loadWords s m
  · exact kept_closeLoad s m
  · unfold segmentReport; split <;> exact Kept.refl s
  · unfold readTable
    dsimp only
    repeat' split
    all_goals exact Kept.refl s
  · exact kept_directoryRequest s m
  · exact kept_headSet s m
  · exact kept_nodeSetRequest s m
  · exact kept_clearQueue s _
  · exact kept_headControl s m
  · exact kept_countersRequest s m
  · exact kept_totalsRequest s m
  · exact kept_traceArmRequest s m
  · exact kept_traceStopRequest s m
  · unfold traceReadRequest
    repeat' split
    all_goals exact Kept.refl s
  · exact Kept.refl s
  · unfold headStatusRequest
    split <;> exact Kept.refl s
  · unfold nodeResetRequest
    split
    · exact Kept.refl s
    · exact Kept.same rfl rfl rfl rfl rfl rfl
  · exact kept_testRequest s m
  · exact Kept.refl s

theorem kept_handleSlot (m : MgmtSlot) : Kept s (handleSlot m s).2 := by
  unfold handleSlot
  dsimp only
  split
  · unfold judgeRequest
    repeat' split
    all_goals first | exact Kept.refl s | exact kept_ownRule s m
  · exact Kept.refl s

/-! ### Resets (R1, R10, R178) -/

theorem kept_softReset : Kept s (softReset s) := by
  refine ⟨fun _ h => ?_, fun _ => Nat.zero_le _, id, fun hl h m => ?_, fun _ hr => (by cases hr.1), fun _ => Nat.zero_le _, id,
    fun hp => ?_⟩
  · simp [softReset, State.head, Head.interlocked, Head.softReset, Head.reset, Valve.reset]
  · have := hl h m
    simpa [softReset, State.head, Head.softReset] using this
  · have hs : ∀ i : Fin 32, (softReset s).tables.segments[i] = (s.tables.segments[i]).softReset := by
      intro i; simp [softReset]
    have hu : ∀ x : Segment, x.softReset.state ≠ .undefined → x.state ≠ .undefined := by
      intro x h1 h2
      apply h1
      simp [Segment.softReset, h2]
    have hf : ∀ x : Segment, x.softReset.base = x.base ∧ x.softReset.length = x.length ∧ x.softReset.kind = x.kind := by
      intro x; unfold Segment.softReset; split <;> exact ⟨rfl, rfl, rfl⟩
    have hn : ∀ x : Segment, x.softReset.state ≠ .loading ∧ x.softReset.state ≠ .checking := by
      intro x
      unfold Segment.softReset
      split
      · exact ⟨by simp, by simp⟩
      · rename_i h; exact ⟨fun e => h (.inl e), fun e => h (.inr e)⟩
    refine ⟨fun i hi => ?_, fun i j hij hi hj => ?_, fun i => ?_, fun i ho => (by cases ho), fun i => ?_⟩
    · rw [hs] at hi ⊢
      obtain ⟨h1, h2, h3⟩ := hf s.tables.segments[i]
      rw [h1, h2, h3]
      exact hp.within i (hu _ hi)
    · rw [hs] at hi hj ⊢
      rw [hs]
      obtain ⟨h1, h2, -⟩ := hf s.tables.segments[i]
      obtain ⟨h3, h4, -⟩ := hf s.tables.segments[j]
      rw [h1, h2, h3, h4]
      exact hp.apart i j hij (hu _ hi) (hu _ hj)
    · rw [hs]
      exact ⟨fun h => absurd h (hn _).1, fun h => (by cases h)⟩
    · rw [hs]
      refine ⟨fun h => absurd h (hn _).2, ?_⟩
      rintro ⟨c, hc, -⟩; cases hc

theorem kept_takeScheduled : Kept s (takeScheduled s) := Kept.ite (fun _ => kept_softReset s) fun _ => Kept.refl s

theorem kept_powerOn (cause : ResetCause) : Kept s (powerOn cause s) := by
  have hs : ∀ i : Fin 32, (powerOn cause s).tables.segments[i] = Segment.none := by
    intro i; simp [powerOn, State.reset, Tables.reset]
  refine ⟨fun _ h => ?_, fun _ => Nat.zero_le _, fun _ => rfl, fun hl h m => ?_, fun _ hr => (by cases hr.1), fun _ => Nat.zero_le _,
    fun _ => rfl, fun _ => ?_⟩
  · simp [powerOn, State.head, Head.interlocked, Head.reset, Valve.reset]
  · have : ((powerOn cause s).head h).table = HeadRecord.reset := by simp [powerOn, State.head, Head.reset]
    rw [this]
    cases m <;> exact Nat.le_refl 0
  · refine ⟨fun i hi => ?_, fun i j _ hi => ?_, fun i => ?_, fun i ho => (by cases ho), fun i => ?_⟩
    · rw [hs] at hi; exact absurd rfl hi
    · rw [hs] at hi; exact absurd rfl hi
    · rw [hs]; exact ⟨fun h => (by cases h), fun h => (by cases h)⟩
    · rw [hs]
      refine ⟨fun h => (by cases h), ?_⟩
      rintro ⟨c, hc, -⟩; cases hc

theorem kept_releaseReset : Kept s (releaseReset s) := by
  unfold releaseReset
  split
  · have h0 := kept_mapHeads s (Head.takeCandidates s.now) (fun x h => by simpa [Head.interlocked, Head.takeCandidates] using h)
      fun x h => h
    have h1 : ∀ u : State, Kept u
        { u with
          resetHeld := false
          selfTest := true
          scanner := { u.scanner with conversion := { u.scanner.conversion with started := some u.now } } } :=
      fun u => Kept.same rfl rfl rfl rfl rfl rfl
    exact Kept.after (h1 _) h0
  · exact Kept.refl s

theorem kept_endSelfTest (b : Bool) : Kept s (endSelfTest b s) := by
  unfold endSelfTest
  have h0 : Kept s { s with selfTest := false } := Kept.same rfl rfl rfl rfl rfl rfl
  refine Kept.ite (fun _ => ?_) fun _ => Kept.refl s
  dsimp only
  refine Kept.after (Kept.ite (fun _ => ?_) fun _ => kept_modRing _ _) h0
  refine Kept.after (kept_enterJoining _ false) (kept_tables _ _ (fun _ => rfl) fun hp => ?_)
  exact ⟨hp.within, hp.apart, hp.loading, hp.pointer, hp.checking⟩

end Sys2Proof.Machine
end

