-- ==== Sys2Proof/Laws/NextEntry.lean ====
section
/-! SUPPORT. What the next entry of a plan, a dose start and a lost record do, each said once (R93, R111, R116, R157). -/

namespace Sys2Proof.Machine

variable (s : State)

/-- The cycle items once an entry has begun: the index past it, its timer running, its counts clear. -/
def Sequencer.begin (e : PhaseEntry) (now : Ticks) (q : Sequencer) : Sequencer :=
  { q with
    planIndex := q.planIndex + 1, progress := .active, timer := some (now + 10000 * e.timeLimit), condCount := 0,
    burstCount := 0 }

theorem enterEntry_eq (h : HeadId) (e : PhaseEntry) :
    enterEntry h e s = s.modSeq h fun _ => (s.seq h).begin e s.now := by
  unfold enterEntry State.modSeq State.modHead State.seq Sequencer.begin msTicks Config.ticksPerMs
  simp [State.head, Nat.mul_comm]

/-- A head that does not hold begins the entries from its plan index onward. -/
theorem goOn_begins {h : HeadId} {c : CycleRecord} {e : PhaseEntry} (hs : (s.seq h).stepMode = false ∨ (s.seq h).state ≠ .running)
    (hc : (s.head h).cycle = some c) (he : c.plan[(s.seq h).planIndex]? = some e) :
    goOn h s = beginEntries h (e :: c.plan.drop ((s.seq h).planIndex + 1)) s := by
  obtain ⟨hlt, rfl⟩ := List.getElem?_eq_some_iff.mp he
  unfold goOn nextEntry headPlan
  rw [if_neg (by unfold holdsHere; rcases hs with a | a <;> simp [a]), hc]
  dsimp only
  rw [List.drop_eq_getElem_cons hlt]

/-- A dose start (R116): the items of a dose afresh, and a cutoff at once where the learned afterflow is at or above the
target (R122). -/
theorem doseStart_chan (h : HeadId) (m : Meter) :
    (doseStart h m s).chan h m =
      (let c : Channel :=
         { s.chan h m with
           state := .dosing, target := doseTarget h m s, volume := 0, rem := 0, pulses := 0, rate := 0, heldRate := 0,
           prevStamp := none, closeKind := .none, endKind := .none, learn := .none }
       if doseTarget h m s ≤ (s.head h).table.learned.get m then c.close .cutoff s.now else c) := by
  have ht : ∀ f, ((s.modChan h m f).head h).table = (s.head h).table := fun f => by simp [State.modChan]
  unfold doseStart cutoffTest cutoffHolds
  simp only [modChan_chan, ht, Nat.zero_add, decide_eq_true_eq]
  split <;> simp

/-- A record lost without room (R157): the lost flag is set, and RECORDS_LOST counts it, 1 when that wraps, since the alarm of
the wrap is lost too. -/
theorem loseRecord_full (hr : orqRoom s = false) :
    (loseRecord s).orq = { s.orq with lost := true } ∧
      (loseRecord s).counter .recordsLost =
        (if s.counter .recordsLost = 65535#16 then 1#16 else s.counter .recordsLost + 1#16) ∧
      ∀ c, c ≠ .recordsLost → (loseRecord s).counter c = s.counter c := by
  have hz : orqRoom (setCounter .recordsLost 0#16 s) = false := hr
  unfold loseRecord
  dsimp only
  split
  · rw [hz, if_neg (by decide)]
    refine ⟨rfl, ?_, fun c hc => ?_⟩
    · show (setCounter _ _ _).counter _ = _
      simp
    · show (setCounter _ _ _).counter _ = _
      rw [setCounter_counter_ne _ _ _ _ hc, setCounter_counter_ne _ _ _ _ hc]
  · refine ⟨rfl, ?_, fun c hc => ?_⟩
    · show (setCounter _ _ _).counter _ = _
      simp
    · show (setCounter _ _ _).counter _ = _
      rw [setCounter_counter_ne _ _ _ _ hc]

end Sys2Proof.Machine
end

