-- ==== Sys2Proof/Laws/Pitch.lean ====
section
/-! SUPPORT. When a PITCH frame passes none of the tests of R30 to R32, whatever its serial (R33, R36), and what a NODE SET
makes of the last position (R36). -/

namespace Sys2Proof.Machine

variable (nPos limit : Nat) (q : PitchSequence) (serial : Half) (p : Nat)

/-- Behind a last position that a NODE SET has put out of range, every frame is a discontinuity (R36). -/
@[simp] theorem pitchCase_beyond : pitchCase nPos limit true q serial p = .discontinuity := rfl

/-- A position of N_pos or greater is a discontinuity (R33). -/
theorem pitchCase_outside (b : Bool) (h0 : 0 < nPos) (h : nPos ≤ p) : pitchCase nPos limit b q serial p = .discontinuity := by
  have hm : ∀ d, p ≠ positionAfter nPos q.position d := fun d e => by
    have := Nat.mod_lt (q.position + d) h0
    unfold positionAfter at e
    omega
  cases b <;> simp [pitchCase, hm, Nat.not_lt.mpr h]

/-- What a NODE SET makes of the last position: a changed N_pos judges it anew (R36, log 32). -/
theorem rejudgePosition_lastBeyond (old : Nat) (x : PitchTimer) :
    (rejudgePosition old nPos x).lastBeyond = true ↔
      if nPos = old then x.lastBeyond = true
      else (∃ y, x.sequence = some y ∧ nPos ≤ y.position) ∨ ∃ y, x.joinRef = some y ∧ nPos ≤ y.position := by
  unfold rejudgePosition lastPositionBeyond
  split
  · rfl
  · cases x.sequence <;> cases x.joinRef <;> simp

/-- It changes no other item of the Pitch Timer. -/
theorem rejudgePosition_eq (old : Nat) (x : PitchTimer) :
    rejudgePosition old nPos x = { x with lastBeyond := (rejudgePosition old nPos x).lastBeyond } := by
  unfold rejudgePosition
  split <;> rfl

end Sys2Proof.Machine
end

