-- ==== Sys2Proof/Laws/Resolver.lean ====
section
/-! SUPPORT. The Resolver: a step that fails completes at once (R85, R88), and what the tests of a merged recipe (R80 to R82)
and of a curve (R76, R82) say of the words and codes that they read. -/

namespace Sys2Proof.Machine

variable (s : State)

/-! ### A resolution that fails (R85, R87, R88) -/

/-- The state with another Resolver. -/
abbrev State.withResolver (x : Resolver) (s : State) : State := { s with resolver := x }

theorem loseRecord_withResolver (x : Resolver) : loseRecord (s.withResolver x) = (loseRecord s).withResolver x := by
  have e : (s.withResolver x).counter .recordsLost = s.counter .recordsLost := rfl
  have e2 : orqRoom (setCounter .recordsLost 0#16 (s.withResolver x)) = orqRoom (setCounter .recordsLost 0#16 s) := rfl
  unfold loseRecord
  simp only [e, e2]
  split_ifs <;> rfl

theorem enterUnreserved_withResolver (r : Record) (x : Resolver) :
    enterUnreserved r (s.withResolver x) = (enterUnreserved r s).withResolver x := by
  have e : orqRoom (s.withResolver x) = orqRoom s := rfl
  unfold enterUnreserved
  by_cases h : orqRoom s = true
  · rw [e, if_pos h, if_pos h]; rfl
  · rw [e, if_neg h, if_neg h, loseRecord_withResolver]

theorem placeRecord_withResolver (h : HeadId) (r : Record) (x : Resolver) :
    placeRecord h r (s.withResolver x) = (placeRecord h r s).withResolver x := by
  unfold placeRecord
  by_cases h0 : s.orq.reservations = 0
  · simp only [h0, if_true]
    exact enterUnreserved_withResolver (s.modSeq h fun q => { q with reserved := false }) r x
  · simp only [h0, if_false]; rfl

theorem countNotServed_withResolver (n : Nat) (k : NotServedReason) (x : Resolver) :
    countNotServed n k (s.withResolver x) = (countNotServed n k s).withResolver x := by
  unfold countNotServed countUnserved modTotals
  split_ifs <;> rfl

/-- What a resolution that ends NOT_SERVED does has nothing to do with the Resolver. -/
theorem resolutionNotServed_withResolver (h : HeadId) (k : NotServedReason) (a b : Nat) (x : Resolver) :
    resolutionNotServed h k a b (s.withResolver x) = (resolutionNotServed h k a b s).withResolver x := by
  have e1 : entrySerial h (s.withResolver x) = entrySerial h s := rfl
  have e2 : entryRecipe h (s.withResolver x) = entryRecipe h s := rfl
  unfold resolutionNotServed
  simp only [e1, e2, placeRecord_withResolver, countNotServed_withResolver]
  rfl

theorem placeRecord_ring (h : HeadId) (r : Record) : (placeRecord h r s).ring = s.ring := by
  have hl : ∀ u : State, (loseRecord u).ring = u.ring := fun u => by unfold loseRecord; dsimp only; split_ifs <;> rfl
  unfold placeRecord enterUnreserved
  dsimp only
  split_ifs <;> first | rfl | exact hl _

theorem countNotServed_ring (n : Nat) (k : NotServedReason) : (countNotServed n k s).ring = s.ring := by
  unfold countNotServed countUnserved modTotals
  split_ifs <;> rfl

/-- The head of a resolution that ends NOT_SERVED is free. -/
theorem resolutionNotServed_state (h : HeadId) (k : NotServedReason) (a b : Nat) :
    ((resolutionNotServed h k a b s).seq h).state = freeState s := by
  have hf : ∀ u : State, u.ring = s.ring → freeState u = freeState s := fun u hu => by
    unfold freeState ringServes
    simp only [hu]
  unfold resolutionNotServed
  simp only [modSeq_seq]
  exact hf _ (by rw [countNotServed_ring, placeRecord_ring])

/-- A resolution at a failed stage completes: NOT_SERVED, and the oldest request begins. -/
theorem completeResolution_failed (r : Resolution) (f : ResFault) (d : Nat) (hf : r.stage = .failed f d) :
    completeResolution (s.withResolver { s.resolver with current := some r }) =
      beginResolution ((resolutionNotServed r.head .recipeFault (resFaultCode f) d s).withResolver
        { s.resolver with current := none }) := by
  have hs : finishStages r (s.withResolver { s.resolver with current := some r }) = r := by
    unfold finishStages
    simp [hf, stageStep]
  unfold completeResolution
  simp only [hs, hf, resolutionNotServed_withResolver]
  rfl

/-- A step that fails completes its resolution at that point, as a completion at the failed stage does. -/
theorem stepResolution_failed (r r' : Resolution) (f : ResFault) (d : Nat) (hc : s.resolver.current = some r)
    (hs : stageStep r s = r') (hf : r'.stage = .failed f d) (hh : r'.head = r.head) :
    stepResolution s =
      beginResolution ((resolutionNotServed r.head .recipeFault (resFaultCode f) d s).withResolver
        { s.resolver with current := none }) := by
  unfold stepResolution
  simp only [hc, hs, hf]
  rw [← hh]
  exact completeResolution_failed s r' f d hf

/-- A step that does not fail changes the resolution alone. -/
theorem stepResolution_goes (r r' : Resolution) (hc : s.resolver.current = some r) (hs : stageStep r s = r')
    (hf : ∀ f d, r'.stage ≠ .failed f d) :
    stepResolution s = s.withResolver { s.resolver with current := some r' } := by
  unfold stepResolution
  simp only [hc, hs]
  cases h : r'.stage <;> first | rfl | exact absurd h (hf _ _)

theorem beginResolution_seq (h : HeadId) : (beginResolution s).seq h = s.seq h := by
  unfold beginResolution
  split <;> rfl

/-! ### Curves (R76, R82) -/

/-- The test of a curve's rates, said of its points in turn. -/
theorem ratesRise_iff : ∀ ps : List CurvePoint, ratesRise ps = true ↔
    ∀ (j : Nat) (a b : CurvePoint), ps[j]? = some a → ps[j + 1]? = some b → a.rate < b.rate
  | [] => by simp [ratesRise]
  | [a] => by simp [ratesRise]
  | p :: q :: rest => by
    simp only [ratesRise, Bool.and_eq_true, decide_eq_true_eq, ratesRise_iff (q :: rest)]
    refine ⟨fun ⟨h1, h2⟩ j a b ha hb => ?_, fun h => ⟨h 0 p q rfl rfl, fun j a b ha hb => ?_⟩⟩
    · cases j with
      | zero =>
        simp only [List.getElem?_cons_zero, List.getElem?_cons_succ, Option.some.injEq] at ha hb
        rw [← ha, ← hb]; exact h1
      | succ j => exact h2 j a b (by simpa using ha) (by simpa using hb)
    · exact h (j + 1) a b (by simpa using ha) (by simpa using hb)

/-! ### Plan rules (R81) -/

theorem phaseKindCode_injective {a b : PhaseKind} (h : phaseKindCode a = phaseKindCode b) : a = b := by
  cases a <;> cases b <;> first | rfl | exact absurd h (by decide)

/-- In a plan whose kinds are all defined, the kinds that the plan rules read are those of the codes. -/
theorem planOf_codes (m : Merged) (h : ∀ e ∈ m.plan, 1 ≤ e.kindCode ∧ e.kindCode ≤ 6) :
    ((planOf m).map PhaseEntry.kind).map phaseKindCode = m.plan.map RawEntry.kindCode := by
  unfold planOf
  generalize m.plan = l at h
  induction l with
  | nil => rfl
  | cons a l ih =>
    obtain ⟨k, hk1, hk2⟩ : ∃ k, phaseKindOf a.kindCode = some k ∧ phaseKindCode k = a.kindCode := by
      obtain ⟨h1, h2⟩ := h a (by simp)
      interval_cases a.kindCode <;> exact ⟨_, rfl, rfl⟩
    rw [List.filterMap_cons]
    simp only [phaseEntryOf, hk1, Option.map_some, List.map_cons, hk2]
    exact congrArg _ (ih fun e he => h e (by simp [he]))

theorem countKind_codes (k : PhaseKind) (ks : List PhaseKind) :
    countKind k ks = (ks.map phaseKindCode).count (phaseKindCode k) := by
  induction ks with
  | nil => rfl
  | cons a l ih =>
    simp only [List.map_cons, List.count_cons, ← ih, countKind, List.filter_cons]
    by_cases h : a = k
    · subst h; simp
    · have : ¬phaseKindCode a = phaseKindCode k := fun e => h (phaseKindCode_injective e)
      simp [h, this]

/-- A PRESSURISE entry stands before every ADDITIVE and FILL entry. -/
theorem pressuriseFirst_iff (ks : List PhaseKind) :
    ((ks.takeWhile fun k => k != .additive && k != .fill).contains .pressurise) = true ↔
      ∃ j : Nat, (ks.map phaseKindCode)[j]? = some 2 ∧
        ∀ k : Nat, k < j → (ks.map phaseKindCode)[k]? ≠ some 3 ∧ (ks.map phaseKindCode)[k]? ≠ some 4 := by
  induction ks with
  | nil => simp
  | cons a l ih =>
    rw [List.takeWhile_cons]
    by_cases h : (a != .additive && a != .fill) = true
    · rw [if_pos h, List.contains_cons, Bool.or_eq_true, ih]
      constructor
      · rintro (h1 | ⟨j, h1, h2⟩)
        · have : PhaseKind.pressurise = a := eq_of_beq h1
          subst this; exact ⟨0, rfl, by omega⟩
        · refine ⟨j + 1, by simpa using h1, fun k hk => ?_⟩
          cases k with
          | zero => revert h; cases a <;> simp [phaseKindCode]
          | succ k => simpa using h2 k (by omega)
      · rintro ⟨j, h1, h2⟩
        cases j with
        | zero => left; revert h1; cases a <;> simp [phaseKindCode]
        | succ j => right; exact ⟨j, by simpa using h1, fun k hk => by simpa using h2 (k + 1) (by omega)⟩
    · rw [if_neg h]
      refine ⟨fun h => by simp at h, ?_⟩
      rintro ⟨j, h1, h2⟩
      refine absurd ?_ h
      cases j with
      | zero =>
        have h3 : phaseKindCode a = 2 := by simpa using h1
        revert h3; cases a <;> decide
      | succ j =>
        have h3 : phaseKindCode a ≠ 3 ∧ phaseKindCode a ≠ 4 := by simpa using h2 0 (by omega)
        revert h3; cases a <;> decide

/-- From the first SNIFT entry on, every entry is a SNIFT. -/
theorem sniftsLast_iff (ks : List PhaseKind) :
    ((ks.dropWhile fun k => k != .snift).all fun k => k == .snift) = true ↔
      ∀ (j k x : Nat), j ≤ k → (ks.map phaseKindCode)[j]? = some 6 → (ks.map phaseKindCode)[k]? = some x →
        x = 6 := by
  have h6 : ∀ a : PhaseKind, phaseKindCode a = 6 ↔ a = .snift := by intro a; cases a <;> simp [phaseKindCode]
  induction ks with
  | nil => simp
  | cons a l ih =>
    rw [List.dropWhile_cons]
    by_cases h : a = .snift
    · subst h
      simp only [bne_self_eq_false, Bool.false_eq_true, if_false, List.all_cons, beq_self_eq_true, Bool.true_and]
      rw [List.all_eq_true]
      constructor
      · intro hh j k x hjk hj hk
        cases k with
        | zero => simp only [List.map_cons, List.getElem?_cons_zero, Option.some.injEq] at hk; exact hk.symm
        | succ k =>
          simp only [List.map_cons, List.getElem?_cons_succ, List.getElem?_map, Option.map_eq_some_iff] at hk
          obtain ⟨y, hy, rfl⟩ := hk
          rw [h6]; simpa using hh y (List.mem_of_getElem? hy)
      · intro hh y hy
        obtain ⟨i, hi⟩ := List.getElem?_of_mem hy
        have := hh 0 (i + 1) (phaseKindCode y) (by omega) rfl (by simp [hi])
        rw [h6] at this; simp [this]
    · simp only [bne_iff_ne, ne_eq, h, not_false_eq_true, if_true, ih]
      constructor
      · intro hh j k x hjk hj hk
        cases j with
        | zero => simp [h6, h] at hj
        | succ j =>
          cases k with
          | zero => omega
          | succ k => exact hh j k x (by omega) (by simpa using hj) (by simpa using hk)
      · intro hh j k x hjk hj hk
        exact hh (j + 1) (k + 1) x (by omega) (by simpa using hj) (by simpa using hk)

end Sys2Proof.Machine
end

