-- ==== Sys2Proof/Tests/Slice0.lean ====
section
/-! SUPPORT. Tests: the check of well-formedness, one or two small steps for each command with results that the manual's
worked sequences and tables give, and a witness for the hypotheses of each obligation. -/

namespace Sys2Proof.Tests

set_option Elab.async false

open Sys2Proof Sys2Proof.Machine

/-! ### Small states -/

/-- The state after a command; every command goes on. -/
def after (i : Instr) (s : State) : State :=
  match exec i s with
  | .next t => t
  | _ => s

/-- A node at address 2 in a ring state, with the sequence of section 5.3: serial 9,210 at position 42. -/
def node (r : RingState) : State :=
  { State.reset with
    selfTest := false
    ring := ⟨r, some 2, 0, ⟨0, 0#16, 0⟩, false⟩
    pitch := ⟨.running, some 50000, some ⟨9210#16, 42, .received, 0⟩, none, true, some 75000, false⟩ }

/-- A node in JOINING, which keeps no sequence. -/
def joining : State := { node .joining with pitch := ⟨.running, some 50000, none, none, true, some 75000, false⟩ }

/-- The head table record of head 2 (sections 5.3 and 7.9). -/
def table2 : HeadRecord :=
  ⟨42, 410, 10000, ⟨80, 60, 60, 60, 80⟩, ⟨25000, 5000⟩, ⟨⟨1, 0⟩, ⟨31, 0⟩⟩, ⟨3000000, 2000000⟩, ⟨3000000, 600000⟩, some 40⟩

/-- Recipe 40 as merged in section 5.3, with deadlines 12, 30 and 48. -/
def recipe40 : Recipe :=
  ⟨330000000, 1500000, 1500000, 20000000, 30000000, 150, 200000, 300, 2, 2, ⟨4000000, 600000⟩, 40, 800, 3500, 4200, 900, 2,
    ⟨12, 30, 48⟩⟩

/-- The plan of section 6.13. -/
def plan40 : List PhaseEntry :=
  [⟨.purge, false, 1, 150, 0, 0⟩, ⟨.pressurise, false, 2, 400, 150, 0⟩, ⟨.additive, false, 1, 600, 0, 0⟩,
    ⟨.fill, false, 1, 1800, 0, 0⟩, ⟨.rest, true, 1, 120, 0, 0⟩, ⟨.snift, false, 2, 300, 1500, 40⟩,
    ⟨.snift, false, 2, 300, 600, 40⟩, ⟨.snift, false, 3, 400, 100, 0⟩]

/-- The main curve of section 7.4. -/
def curve40 : List CurvePoint := [⟨1000, 1200⟩, ⟨5000, -800⟩]

def cycle40 : CycleRecord := ⟨recipe40, 4950000, plan40, curve40, some curve40⟩

/-- The container of section 5.3. -/
def entry40 : QueueEntry := ⟨9210#16, 42, 40, .container, false⟩

/-- Head 2 in a head state, with its table and a container present. -/
def withHead (x : HeadState) (s : State) : State :=
  s.modHead 2 fun y => { y with table := table2, presence := .present, seq := { y.seq with state := x } }

/-- Head 2 of a LOCKED node in its cycle, at a plan index and a progress, with its entry timer running to 1 s. -/
def cycling (x : HeadState) (i : Nat) (p : Progress) : State :=
  let s := (withHead x (node .locked)).modHead 2 fun y =>
    { y with
      cycle := some cycle40
      seq :=
        { y.seq with
          planIndex := i
          progress := p
          timer := some 10000000
          entry := some entry40
          reserved := true
          elapsed := some 1 } }
  { s with orq := ⟨[], 1, false⟩ }

/-- Head 2 dosing its main channel under an open SLOW valve, at a volume. -/
def dosing (v : Nat) : State :=
  (cycling .running 4 .active).modHead 2 fun y =>
    { y with
      seq := { y.seq with equalised := true }
      chan := { y.chan with main := { y.chan.main with state := .dosing, target := 330000000, volume := v } }
      valves := { y.valves with slow := { y.valves.slow with request := true, output := true } } }

/-- Head 2 settling its main dose from 500 ms onward, in a channel closed at its cutoff (section 7.9, with the target there). -/
def settling : State :=
  (cycling .running 4 .settling).modHead 2 fun y =>
    { y with
      table := { y.table with afterflowMax := ⟨5000000, 2000000⟩, learned := ⟨4000000, 600000⟩ }
      seq := { y.seq with timer := none }
      chan :=
        { y.chan with
          main :=
            { y.chan.main with
              state := .settling
              volume := 499760663
              closeKind := .cutoff
              closeVolume := some 496005038
              settleStart := some 5000000
              lastPulse := some 6000000 } } }

/-- Head 2 resolving recipe 40, at a stage. -/
def resolving (x : Stage) : State :=
  let s := cycling .resolving 0 .none
  { s with
    resolver := ⟨[], some ⟨2, 40, 0, Fixed.empty, x, [], 0, false⟩⟩
    scanner := { s.scanner with bowl := ⟨some 3840, some 1983#12, false, 0⟩ } }

/-- The merged recipe of section 5.3, its plan in codes. -/
def merged40 : Merged :=
  ⟨recipe40, 8, plan40.map fun e => ⟨phaseKindCode e.kind, e.continues, e.debounce, e.timeLimit, e.pressure, e.hold⟩⟩

/-- A request envelope to the node's own address and one to all. -/
def own : Envelope := ⟨0, 2#6, 17#8, 0#8, 0#8, 0#8, 0#16⟩
def toAll : Envelope := { own with dest := 63#6 }

/-- An empty assignment, management and result slot. -/
def noAssign : AssignSlot := ⟨0#8, 0#8, 0#16, 0#16, 0#8, 0#8⟩
def noMgmt : MgmtSlot := ⟨0#2, 0#6, 0#5, 0#3, 0#8, 0#8, 0#8, 0#8, 0#16, words0⟩
def noResult : ResultSlot := ⟨0#8, 0#8, 0#8, 0#16, 0#8, 0#8, 0#8, 0#32, 0#24⟩

/-- A frame with empty slots and a correct check. -/
def frame (kind hop : Byte) (serial position : Half) (carousel : Byte) : Frame :=
  freshCheck
    ⟨kind, hop, serial, position, carousel, 0#8, 0#32, 0#32, noAssign, noAssign, noAssign, noAssign, noAssign, noAssign, noMgmt,
      noResult, noResult, noResult, noResult, 0#16⟩

/-- A frame of the tests is good, whatever its check comes to. -/
theorem frame_good (kind hop : Byte) (serial position : Half) (carousel : Byte) :
    goodFrame (frame kind hop serial position carousel) = true := by
  simp [goodFrame, frame, freshCheck, frameContent, headerBytes]

/-- A frame passing, once its check is known to be good: the check itself need not be computed. -/
def goodPass (f : Frame) (s : State) : State :=
  if s.resetHeld ∨ s.ring.state = .bypass then { s with frameOut := some f }
  else
    let u := takeScheduled s
    let x := if !usableFrame f then (f, u) else useFrame f u
    let v := if u.ring.damagePending then x.2.modRing fun r => { r with damagePending := false } else x.2
    { v with frameOut := some (forwarded u.ring.damagePending x.1) }

theorem receive_good {f : Frame} (h : goodFrame f = true) (s : State) : receiveFrame f s = goodPass f s := by
  simp [receiveFrame, goodPass, passFrame, processFrame, h]

theorem after_pitchFrame (t : Ticks) (kind hop : Byte) (serial position : Half) (carousel : Byte) (s : State) :
    after (.pitchFrame t (frame kind hop serial position carousel)) s =
      goodPass (frame kind hop serial position carousel) (s.advance t) :=
  receive_good (frame_good kind hop serial position carousel) _

theorem after_serviceFrame (t : Ticks) (kind hop : Byte) (serial position : Half) (carousel : Byte) (s : State) :
    after (.serviceFrame t (frame kind hop serial position carousel)) s =
      goodPass (frame kind hop serial position carousel) (s.advance t) :=
  receive_good (frame_good kind hop serial position carousel) _

theorem after_undefinedFrame (t : Ticks) (kind hop : Byte) (serial position : Half) (carousel : Byte) (s : State) :
    after (.frameOfUndefinedKind t (frame kind hop serial position carousel)) s =
      goodPass (frame kind hop serial position carousel) (s.advance t) :=
  receive_good (frame_good kind hop serial position carousel) _

/-- The expected PITCH frame of a node in `node`. -/
def expected : Frame := frame 1#8 2#8 9211#16 43#16 3#8

/-- The same with its result slots written, so that no record leaves in it. -/
def written : Frame :=
  let r : ResultSlot := { noResult with kind := 1#8 }
  freshCheck { expected with r0 := r, r1 := r, r2 := r, r3 := r }

theorem written_good : goodFrame written = true := by
  simp [goodFrame, written, expected, frame, freshCheck, frameContent, headerBytes]

theorem after_written (t : Ticks) (s : State) : after (.pitchFrame t written) s = goodPass written (s.advance t) :=
  receive_good written_good _

/-- The nine words of section 4.9's layout: segment 1, CURVE, words 2,048 to 2,303. -/
def mapped : State :=
  (node .locked).modSegment 1 fun _ => ⟨.empty, some .curve, 2048, 256, 0#16, 0#16⟩

/-- Segment 1 open, of 16 words, at a pointer. -/
def loading (p : Nat) : State :=
  ((node .locked).modSegment 1 fun _ => ⟨.loading, some .curve, 2048, 16, 0#16, 0#16⟩).modTables fun t =>
    { t with openSegment := some 1, pointer := p }

/-- Segment 1, of 16 words, under check. -/
def checking : State :=
  ((node .locked).modSegment 1 fun _ => ⟨.checking, some .curve, 2048, 16, 0#16, 0#16⟩).modTables fun t =>
    { t with check := some ⟨1, 0⟩ }

/-! ### Well-formedness: an ill-formed term for each check -/

theorem test_wf_pitchFrame : (Instr.pitchFrame 0 (frame 2#8 0#8 0#16 0#16 3#8)).wf = false := by decide +kernel
theorem test_wf_serviceFrame : (Instr.serviceFrame 0 (frame 1#8 0#8 0#16 0#16 3#8)).wf = false := by decide +kernel
theorem test_wf_frameOfUndefinedKind : (Instr.frameOfUndefinedKind 0 (frame 1#8 0#8 0#16 0#16 3#8)).wf = false := by
  decide +kernel
theorem test_wf_assignmentOfUndefinedKind : (Instr.assignmentOfUndefinedKind 0 { noAssign with kind := 4#8 }).wf = false := by
  decide +kernel
theorem test_wf_undefinedRequest :
    (Instr.undefinedRequest 0 { noMgmt with state := 1#2, kind := 21#5 }).wf = false ∧
      (Instr.undefinedRequest 0 { noMgmt with state := 0#2, kind := 22#5 }).wf = false ∧
      (Instr.undefinedRequest 0 { noMgmt with state := 1#2, dest := 63#6, kind := 16#5 }).wf = false ∧
      (Instr.undefinedRequest 0 { noMgmt with state := 1#2, dest := 63#6, kind := 17#5 }).wf = true := by
  decide +kernel

/-! ### Resets and frames -/

/-- R1, R70: the ring state is BYPASS and the settings take their power-on values. -/
theorem test_powerOnReset :
    (after (.powerOnReset 10 .powerUp) (node .locked)).ring.state = .bypass ∧
      (after (.powerOnReset 10 .resetInput) (node .locked)).selfTest = false := by decide +kernel

/-- R133: the release starts the first bowl conversion. -/
theorem test_resetRelease :
    (after (.resetRelease 70) (after (.powerOnReset 10 .resetInput) (node .locked))).scanner.conversion.started = some 70 := by
  decide +kernel

/-- R10: the self-test passes to JOINING, or fails to FAILED. -/
theorem test_selfTestEnd :
    (after (.selfTestEnd 5 true) State.reset).ring.state = .joining ∧
      (after (.selfTestEnd 5 false) State.reset).ring.state = .failed := by decide +kernel

/-- R177, R178: the scheduled soft reset takes a LOCKED node to JOINING without an address. -/
theorem test_softReset :
    (after (.softReset 5) (after (.nodeReset own) (node .locked))).ring.address = none ∧
      (after (.softReset 5) (after (.nodeReset own) (node .locked))).ring.state = .joining := by decide +kernel

/-- R2, R185: the nine bytes hexadecimal 31 to 39 have the check hexadecimal 29B1. -/
theorem test_check : checkOf [0x31#8, 0x32#8, 0x33#8, 0x34#8, 0x35#8, 0x36#8, 0x37#8, 0x38#8, 0x39#8] = 0x29B1#16 := by
  decide +kernel

/-- Section 2.10, time 0: the gap of 50,000 µs is measured and the window closes 75,000 µs after the arrival. -/
theorem test_pitchFrame_expected :
    let t := after (.pitchFrame 500000 expected) (node .locked)
    t.pitch.sequence = some ⟨9211#16, 43, .received, 50000⟩ ∧ t.pitch.estimate = some 50000 ∧ t.pitch.window = some 125000 := by
  simp only [expected, after_pitchFrame]
  decide +kernel

/-- Section 2.10, 430,000: a frame ahead by 1 is a catch-up, and one missing pitch is counted. -/
theorem test_pitchFrame_catchUp :
    let t := after (.pitchFrame 500000 (frame 1#8 2#8 9212#16 44#16 3#8)) (node .locked)
    t.pitch.sequence = some ⟨9212#16, 44, .received, 50000⟩ ∧ t.counter .missingPitches = 1#16 ∧ t.ring.badCount = 0 := by
  simp only [after_pitchFrame]
  decide +kernel

/-- R16, R24: a STOPPED header drops the estimate and cancels the window. -/
theorem test_serviceFrame :
    let t := after (.serviceFrame 100 (frame 2#8 2#8 0#16 0#16 1#8)) (node .locked)
    t.pitch.estimate = none ∧ t.pitch.window = none ∧ t.pitch.carousel = .stopped ∧ t.ring.state = .locked := by
  simp only [after_serviceFrame]
  decide +kernel

/-- R4, R6: a frame of kind 3 leaves with its hop count raised and no content used. -/
theorem test_frameOfUndefinedKind :
    let t := after (.frameOfUndefinedKind 0 (frame 3#8 9#8 0#16 0#16 1#8)) (node .locked)
    t.frameOut.map Frame.hop = some 10#8 ∧ t.ring = (node .locked).ring := by
  simp only [after_undefinedFrame]
  decide +kernel

/-- Section 2.10, 75,000: the expiry issues one estimated event and the window closes 75,000 µs later. -/
theorem test_pitchWindowExpiry :
    let t := after .pitchWindowExpiry (node .locked)
    t.pitch.sequence = some ⟨9211#16, 43, .estimated, 75000⟩ ∧ t.ring.badCount = 1 ∧ t.pitch.window = some 150000 := by
  decide +kernel

/-! ### Assignments (section 3.8: serial 7,001 at position 31, head 3 OFF) -/

/-- Heads 0 to 7 at positions 40 to 47, all IDLE but head 3. -/
def served : State :=
  let s := node .locked
  { s with
    pitch := { s.pitch with sequence := some ⟨7001#16, 31, .received, 0⟩ }
    heads := Vector.ofFn fun i =>
      let y := s.heads[i]
      { y with table := { y.table with position := 40 + i.val }, seq := { y.seq with state := if i = 3 then .off else .idle } } }

/-- Slot 0 is accepted, and slot 1 names a position that no head in service holds: NO_HEAD. -/
theorem test_containerAssignment :
    let t := after (.containerAssignment 0 2#8 7010#16 40#16 5#8 0#8) served
    t.assignOut = some ⟨3#8, 2#8, 7010#16, 40#16, 5#8, 0#8⟩ ∧ t.queue.entries = [⟨7010#16, 40, 5, .container, false⟩] ∧
      (after (.containerAssignment 0 2#8 7012#16 43#16 5#8 0#8) t).assignOut = some ⟨4#8, 2#8, 7012#16, 43#16, 5#8, 2#8⟩ := by
  decide +kernel

/-- Slot 2 is accepted behind 7,010. -/
theorem test_gapAssignment :
    let t := after (.gapAssignment 0 2#8 7011#16 41#16 0#8 0#8)
      (after (.containerAssignment 0 2#8 7010#16 40#16 5#8 0#8) served)
    t.queue.entries.map QueueEntry.serial = [7010#16, 7011#16] ∧ t.queue.entries.map QueueEntry.kind = [.container, .gap] := by
  decide +kernel

/-- R40: a kind that is not defined fails RANGE. -/
theorem test_assignmentOfUndefinedKind :
    (after (.assignmentOfUndefinedKind 0 ⟨5#8, 2#8, 7010#16, 40#16, 5#8, 0#8⟩) served).assignOut =
      some ⟨4#8, 2#8, 7010#16, 40#16, 5#8, 1#8⟩ := by decide +kernel

/-! ### Table memory (section 4.9) -/

/-- The result code of the answer that a request left. -/
def code (s : State) : Option Byte := s.mgmtOut.map MgmtSlot.result

/-- The data words of the answer. -/
def answer (s : State) : Option DataWords := s.mgmtOut.map MgmtSlot.data

/-- Words 2,200 to 2,263 are shared with segment 1: REFUSED_RANGE. Words 2,304 to 2,367 are free: EMPTY. -/
theorem test_segmentDefine :
    code (after (.segmentDefine own 2#32 2200#32 64#32 1#32) mapped) = some 4#8 ∧
      (after (.segmentDefine own 2#32 2304#32 64#32 1#32) mapped).segment 2 =
        ⟨.empty, some .recipe, 2304, 64, 0#16, 0#16⟩ := by decide +kernel

/-- R57: a deleted segment is UNDEFINED; a segment under check is BUSY. -/
theorem test_segmentDelete :
    (after (.segmentDelete own 1#32) mapped).segment 1 = ⟨.undefined, none, 0, 0, 0#16, 0#16⟩ ∧
      code (after (.segmentDelete own 1#32) checking) = some 2#8 := by decide +kernel

/-- R59: the open segment is LOADING with pointer value 0; an UNDEFINED segment is REFUSED_STATE. -/
theorem test_loadOpen :
    ((after (.loadOpen own 1#32) mapped).segment 1).state = .loading ∧ code (after (.loadOpen own 2#32) mapped) = some 3#8 := by
  decide +kernel

/-- R60: two words go to the pointer's place; another pointer is REFUSED_SEQUENCE with the pointer value in word 0. -/
theorem test_loadData :
    let t := after (.loadData own 6#16 2#3 ⟨5#32, 9#32, 1#32, 1#32, 1#32, 1#32⟩) (loading 6)
    t.tables.words = [(2054, 5#32), (2055, 9#32)] ∧ t.tables.pointer = 8 ∧
      answer (after (.loadData own 0#16 1#3 (words1 5#32)) (loading 6)) = some (words1 6#32) := by decide +kernel

/-- R61: a complete load is ACCEPTED, and a short one REFUSED_SEQUENCE. -/
theorem test_loadClose :
    code (after (.loadClose own 7#32) (loading 16)) = some 1#8 ∧ code (after (.loadClose own 7#32) (loading 15)) = some 5#8 := by
  decide +kernel

/-- R62, R185: the word hexadecimal 31323334 enters as the bytes 31, 32, 33, 34, whose check is hexadecimal 5349. -/
theorem test_checkComplete :
    let s := (checking.modSegment 1 fun x => { x with length := 1, expected := 0x5349#16 }).modTables fun t =>
      { t with words := [(2048, 0x31323334#32)] }
    ((after (.checkComplete 0) s).segment 1).state = .valid ∧ (after (.checkComplete 0) s).tables.check = none := by decide +kernel

/-- R63, R183: state, kind, base, length, pointer and checks. -/
theorem test_segmentStatus :
    answer (after (.segmentStatus own 1#32) (loading 6)) = some ⟨2#32, 2#32, 2048#32, 16#32, 6#32, 0#32⟩ := by decide +kernel

/-- R64: the words read back from base plus index. -/
theorem test_tableRead :
    answer (after (.tableRead own 1#32 6#32 2#32) (after (.loadData own 6#16 2#3 ⟨5#32, 9#32, 1#32, 1#32, 1#32, 1#32⟩) (loading 6))) =
      some (words2 5#32 9#32) := by decide +kernel

/-- Section 4.9: recipe 100 to segment 2, record 1; a removal makes it absent again. -/
theorem test_directorySet :
    let t := after (.directorySet own 100#32 1#32 2#32 1#32) (node .locked)
    t.directory[100] = some ⟨2, 1⟩ ∧ (after (.directorySet own 100#32 0#32 0#32 0#32) t).directory[100] = none := by
  decide +kernel

/-! ### Head table and settings -/

/-- R68: the group PLACE of an OFF head; another group keeps its fields. -/
theorem test_headSetPlace :
    let t := after (.headSetPlace own 2#32 42#32 410#16 10000#16 80#8 60#8 61#8 62#8 250#32) (node .locked)
    (t.head 2).table.position = 42 ∧ (t.head 2).table.strokes = ⟨80, 60, 61, 62, 250⟩ ∧ (t.head 2).table.gain = 10000 ∧
      code (after (.headSetPlace own 2#32 144#32 410#16 10000#16 80#8 60#8 61#8 62#8 250#32) (node .locked)) = some 4#8 := by
  decide +kernel

/-- R68: the group METERS; a head in service is REFUSED_STATE. -/
theorem test_headSetMeters :
    ((after (.headSetMeters own 2#32 25000#32 5000#32 1#16 0#16 31#16 3#16) (node .locked)).head 2).table.curve =
        ⟨⟨1, 0⟩, ⟨31, 3⟩⟩ ∧
      code (after (.headSetMeters own 2#32 25000#32 5000#32 1#16 0#16 31#16 3#16) (withHead .idle (node .locked))) = some 3#8 := by
  decide +kernel

/-- R69's example: 3,938,907 is clamped to 3,000,000, and 410,000 is kept. -/
theorem test_headSetAfterflow :
    ((after (.headSetAfterflow own 2#32 3000000#32 2000000#32)
      ((withHead .off (node .locked)).modTable 2 fun t => { t with learned := ⟨3938907, 410000⟩ })).head 2).table.learned =
        ⟨3000000, 410000⟩ := by decide +kernel

/-- Section 12.5: a broadcast raises the ack of an idle node, and a node with a head in STEP_HOLD refuses with BUSY. -/
theorem test_nodeSet :
    let i := Instr.nodeSet toAll 144#32 48#32 8#32 5#16 3#16 0#32 10000#32
    (after i (node .locked)).settings.depth = 48 ∧ (after i (node .locked)).mgmtOut.map MgmtSlot.ack = some 1#8 ∧
      code (after i (withHead .stepHold (node .locked))) = some 2#8 := by decide +kernel

/-! ### Queue, heads, counters, traces and node -/

/-- R48: the number of entries is answered, and each CONTAINER entry gives a record. -/
theorem test_queueClear :
    let t := after (.queueClear own) { node .locked with queue := ⟨[entry40, { entry40 with kind := .gap }], false⟩ }
    answer t = some (words1 2#32) ∧ t.queue = ⟨[], true⟩ ∧ t.orq.records.map Record.code = [4#8] := by decide +kernel

/-- R112: an OFF head goes IDLE in LOCKED and HELD in JOINING. -/
theorem test_headControlOn :
    ((after (.headControlOn own 2#32) (withHead .off (node .locked))).seq 2).state = .idle ∧
      ((after (.headControlOn own 2#32) (withHead .off joining)).seq 2).state = .held := by decide +kernel

/-- R112: an IDLE head goes OFF, and a RUNNING head is BUSY. -/
theorem test_headControlOff :
    ((after (.headControlOff own 2#32) (withHead .idle (node .locked))).seq 2).state = .off ∧
      code (after (.headControlOff own 2#32) (cycling .running 4 .active)) = some 2#8 := by decide +kernel

/-- R113, R147: CLEAR is refused while a feedback level is NONE. -/
theorem test_headControlClear :
    code (after (.headControlClear own 2#32) (withHead .fault (node .locked))) = some 3#8 := by decide +kernel

/-- R113: FORGET drops what an IDLE head has learned. -/
theorem test_headControlForget :
    ((after (.headControlForget own 2#32) (withHead .idle (node .locked))).head 2).table.lastRecipe = none := by decide +kernel

/-- R110: STEP_ON is refused while the carousel is RUNNING. -/
theorem test_headControlStepOn : code (after (.headControlStepOn own 2#32) (withHead .idle (node .locked))) = some 3#8 := by
  decide +kernel

/-- R110, R111: STEP_OFF takes a held head on to its next entry, with step mode off. -/
theorem test_headControlStepOff :
    let t := after (.headControlStepOff own 2#32) (cycling .stepHold 4 .none)
    (t.seq 2).state = .running ∧ (t.seq 2).planIndex = 5 := by decide +kernel

/-- R111: STEP takes a held head on to its next entry, whose timer runs for its 120 ms. -/
theorem test_headControlStep :
    let t := after (.headControlStep own 2#32) (cycling .stepHold 4 .none)
    (t.seq 2).planIndex = 5 ∧ (t.seq 2).timer = some 1200000 := by decide +kernel

/-- R162, R183: counters 0 and 1 share word 0, the lower in its upper half. -/
theorem test_countersRead :
    let s := setCounter .missingPitches 4#16 (setCounter .damagedFrames 3#16 (node .locked))
    answer (after (.countersRead own 1#32) s) = some (words1 0x00030004#32) ∧
      (after (.countersRead own 1#32) s).counter .missingPitches = 0#16 := by decide +kernel

/-- R164, R183: the volume sum in words 4 and 5. -/
theorem test_totalsRead :
    answer (after (.totalsRead own 40#32 0#32)
      { node .locked with totals := (node .locked).totals.set 40 ⟨1, 2, 3, 4, 4294967296 + 7⟩ }) =
        some ⟨1#32, 2#32, 3#32, 4#32, 1#32, 7#32⟩ := by decide +kernel

/-- R166: an IMMEDIATE arm of A runs; a linked A is REFUSED_RANGE. -/
theorem test_traceArm :
    (after (.traceArm own 0#32 2#32 0#32 1#32 400#32 0#16 0#16) (node .locked)).trace.a.state = .running ∧
      code (after (.traceArm own 0#32 2#32 0#32 1#32 400#32 1#16 0#16) (node .locked)) = some 4#8 := by decide +kernel

/-- R170: a waiting descriptor is disarmed. -/
theorem test_traceStop :
    (after (.traceStop own 0#32) (after (.traceArm own 0#32 2#32 0#32 1#32 400#32 0#16 1#16) (node .locked))).trace.a.state =
      .idle := by decide +kernel

/-- R171, R181: the state in bits 15-13 of the parameter field, the sample count below; an offset of 512 is refused. -/
theorem test_traceRead :
    (after (.traceRead own 0#32 0#32) (after (.traceArm own 0#32 2#32 0#32 1#32 400#32 0#16 1#16) (node .locked))).mgmtOut.map
        MgmtSlot.param = some 0x2000#16 ∧
      code (after (.traceRead own 0#32 512#32) (node .locked)) = some 4#8 := by decide +kernel

/-- R175, R183: ring state LOCKED, address 2, bad count 0, carousel RUNNING; the queue's depth 32. -/
theorem test_nodeStatus :
    answer (after (.nodeStatus own) (withHead .idle (node .locked))) =
      some ⟨0x02020003#32, 50000#32, 0x23FA002A#32, 0x00100000#32, 0x00200000#32, 0x00000004#32⟩ := by decide +kernel

/-- R176, R183: RUNNING, index 4, ACTIVE, FILL. -/
theorem test_headStatusCycle :
    (answer (after (.headStatusCycle own 2#32) (cycling .running 4 .active))).map DataWords.d0 = some 0x03040104#32 := by
  decide +kernel

/-- R183: SLOW commanded OPEN in byte 1 of word 0; an absent raw reading is 65,535. -/
theorem test_headStatusValves :
    answer (after (.headStatusValves own 2#32) (dosing 0)) = some ⟨0x00000100#32, 0x00010000#32, 0#32, 0#32, 65535#32, 65535#32⟩ := by
  decide +kernel

/-- R132, R176: last recipe 40, the main channel DOSING with its volume. -/
theorem test_headStatusMetering :
    answer (after (.headStatusMetering own 2#32) (dosing 125182)) =
      some ⟨0x28000100#32, 125182#32, 0#32, 3000000#32, 600000#32, 0#32⟩ := by decide +kernel

/-- R177: BUSY while a head has an active cycle. -/
theorem test_nodeReset :
    code (after (.nodeReset own) (cycling .running 4 .active)) = some 2#8 ∧ (after (.nodeReset own) (node .locked)).resetScheduled = true := by
  decide +kernel

/-- A node on a STOPPED carousel. -/
def stopped : State := { node .locked with pitch := ⟨.stopped, none, some ⟨9210#16, 42, .received, 0⟩, none, false, none, false⟩ }

/-- R7, R179: DAMAGE_NEXT is refused while the carousel is RUNNING, and the next frame uses the insertion up. -/
theorem test_testDamageNext :
    let t := after (.testDamageNext own) stopped
    t.ring.damagePending = true ∧ code (after (.testDamageNext own) (node .locked)) = some 3#8 ∧
      (after (.frameOfUndefinedKind 0 (frame 3#8 9#8 0#16 0#16 1#8)) t).ring.damagePending = false := by
  simp only [after_undefinedFrame]
  decide +kernel

/-- R7: the check of a damage insertion is the correct one inverted. -/
theorem test_damageInsertion (f : Frame) : (forwarded true f).check = ~~~(forwarded false f).check := rfl

/-- R142, R179: two forced rail readings. -/
theorem test_testForceRail : ((after (.testForceRail own 2#32) stopped).head 2).forced = 2 := by decide +kernel

/-- R173: UNKNOWN_KIND, as a refusal of a broadcast and in an answer at the own address. -/
theorem test_undefinedRequest :
    code (after (.undefinedRequest 0 { noMgmt with state := 1#2, dest := 2#6, kind := 22#5 }) (node .locked)) = some 6#8 ∧
      (after (.undefinedRequest 0 { noMgmt with state := 1#2, dest := 63#6, kind := 6#5 }) (node .locked)).mgmtOut.map
        MgmtSlot.refuse = some 1#8 := by decide +kernel

/-! ### Resolver and cycle -/

/-- Section 5.4, recipe 72, R85, R88: a parent above 127 is NO_RECIPE, and the resolution completes at that step. -/
theorem test_resolutionStep :
    let t := after (.resolutionStep 0) (resolving (.following 130))
    t.resolver.current = none ∧ (t.seq 2).state = .idle ∧ t.orq.records.map Record.code = [8#8] ∧
      t.orq.records.map Record.valueA = [1#32] ∧ t.orq.records.map Record.valueB = [130#24] := by decide +kernel

/-- Sections 5.3 and 6.13: the cycle starts in its PURGE entry with GAS and SNIFT open, V_add 4,950,000 nL. -/
theorem test_resolutionComplete :
    let t := after (.resolutionComplete 0) (resolving (.curvesRead merged40 curve40 (some curve40)))
    (t.seq 2).state = .running ∧ (t.seq 2).planIndex = 1 ∧ (t.valve 2 .gas).output = true ∧ (t.valve 2 .snift).output = true ∧
      (t.head 2).cycle.map CycleRecord.vAdd = some 4950000 := by decide +kernel

/-- R94: at the end of a PURGE the next entry begins with GAS open and SNIFT closed. -/
theorem test_phaseTimeLimitExpiry :
    let t := after (.phaseTimeLimitExpiry 2) (cycling .running 1 .active)
    (t.seq 2).planIndex = 2 ∧ (t.valve 2 .gas).output = true ∧ (t.valve 2 .snift).output = false := by decide +kernel

/-- R99: the hold over, the next SNIFT entry begins. -/
theorem test_sniftHoldExpiry :
    let t := after (.sniftHoldExpiry 2) (cycling .running 6 .holding)
    (t.seq 2).planIndex = 7 ∧ (t.seq 2).progress = .active ∧ (t.valve 2 .snift).output = true := by decide +kernel

/-! ### Scanner and meters -/

/-- Section 8.3: 2,458 counts under offset 410 and gain 10,000 are 5,001 mbar; the second rail in a row sets the fault. -/
theorem test_conversionComplete :
    let s := withHead .idle (node .locked)
    let at2 : State := { s with scanner := { s.scanner with conversion := ⟨.head 2, false, some 0⟩ } }
    ((after (.conversionComplete 2458#12) at2).head 2).scan.value = some 5001 ∧
      ((after (.conversionComplete 4095#12) (at2.modHead 2 fun x => { x with scan := ⟨some 5006, none, false, 1⟩ })).head 2).scan =
        ⟨some 5006, some 4095#12, true, 0⟩ := by decide +kernel

/-- Section 8.2, time 0: with heads 1, 4 and 6 on, head 1 follows the bowl, and a request puts the bowl first. -/
theorem test_conversionComplete_next :
    let s := [1, 4, 6].foldl (fun s h => s.modSeq h fun q => { q with state := .idle }) (node .locked)
    (after (.conversionComplete 100#12) s).scanner.pointer = .head 1 ∧
      (after (.conversionComplete 100#12) { s with scanner := { s.scanner with request := true } }).scanner.conversion.channel =
        .bowl := by decide +kernel

/-- Section 7.4, pulse 5: q_s 1,370, V 125,182 and rem 875,000. -/
theorem test_meterPulse :
    let s := (dosing 100150).modChan 2 .main fun c => { c with prevStamp := some 1013750#32, rate := 827, pulses := 4 }
    let t := after (.meterPulse 1014583 2 .main) s
    (t.chan 2 .main).rate = 1370 ∧ (t.chan 2 .main).volume = 125182 ∧ (t.chan 2 .main).rem = 875000 := by decide +kernel

/-- Section 7.11: across the wrap of the time base T is 2,500 and q is 1,000. -/
theorem test_meterPulse_wrap :
    let s := (dosing 25037).modChan 2 .main fun c => { c with prevStamp := some 4294966000#32, pulses := 1 }
    ((after (.meterPulse (4294967296 + 1204) 2 .main) s).chan 2 .main).rate = 1000 := by decide +kernel

/-- Section 7.9: the window ends 40 ms after the last pulse, and A becomes 3,938,907. -/
theorem test_settleWindowExpiry :
    let t := after (.settleWindowExpiry 2 .main) settling
    t.now = 6400000 ∧ (t.chan 2 .main).endKind = .window ∧ (t.head 2).table.learned.main = 3938907 := by decide +kernel

/-- R125, R127: a settle that ends by its limit does not learn. -/
theorem test_settleLimitExpiry :
    let t := after (.settleLimitExpiry 2 .main) (settling.modChan 2 .main fun c => { c with lastPulse := some 12900000 })
    (t.chan 2 .main).endKind = .limit ∧ (t.chan 2 .main).learn = .skipped ∧ (t.head 2).table.learned.main = 4000000 := by
  decide +kernel

/-! ### Valves and containers -/

/-- R147: a change becomes the candidate and is not yet the level. -/
theorem test_feedbackInputChange :
    let t := after (.feedbackInputChange 7 2 .slow true) (node .locked)
    (t.valve 2 .slow).candidate = ⟨true, 7⟩ ∧ (t.valve 2 .slow).feedback = .none := by decide +kernel

/-- R147: the candidate is taken after the 3 ms of the power-on setting. -/
theorem test_feedbackDebounceExpiry :
    let t := after (.feedbackDebounceExpiry 2 .slow) (node .locked)
    (t.valve 2 .slow).feedback = .closed ∧ t.now = 30000 := by decide +kernel

/-- R150, R106: SLOW does not open in time: VALVE_NO_OPEN, and the snift is forced. -/
theorem test_strokeExpiry :
    let s := (dosing 0).modValve 2 .slow fun x => { x with supervision := .stroking, expiry := some 600000 }
    let t := after (.strokeExpiry 2 .slow) s
    t.orq.records.map Record.code = [2#8] ∧ (t.seq 2).state = .forcedSnift ∧ (t.valve 2 .slow).output = false := by
  decide +kernel

/-- R143: the level becomes the candidate, and is taken after 5 ms. -/
theorem test_containerPresentChange :
    ((after (.containerPresentChange 9 1 true) (node .locked)).head 1).presenceCandidate = ⟨true, 9⟩ := by decide +kernel

theorem test_containerDebounceExpiry :
    let t := after (.containerDebounceExpiry 1) (after (.containerPresentChange 9 1 true) (node .locked))
    (t.head 1).presence = .present ∧ t.now = 50009 := by decide +kernel

/-! ### The words of the bus -/

/-- R35, section 2.11: the elapsed counts of heads at positions 40, 45 and 47 when position 45 is at the infeed. -/
theorem test_elapsed : elapsedCount 144 45 40 = 5 ∧ elapsedCount 144 45 45 = 0 ∧ elapsedCount 144 45 47 = 142 := by
  decide +kernel

/-- R180, R181: the frame kind is byte 0, the serial bytes 2 and 3, the check the last two, high byte first. -/
theorem test_bytes :
    let f : Frame := { expected with check := 0x1234#16 }
    (frameBytes f).take 6 = [1#8, 2#8, 0x23#8, 0xFB#8, 0#8, 43#8] ∧ (frameBytes f).drop 156 = [0x12#8, 0x34#8] ∧
      frameOfBytes (frameBytes f) = some f := by decide +kernel

/-! ### Witnesses: states and operands that meet the hypotheses of each obligation, each clause at a boundary value -/

/-- The node answers a request at its own address, and one at 63. -/
theorem witness_takesOwn : (node .locked).takesOwn own := ⟨rfl, .inr (.inl rfl), 2, rfl, rfl⟩
theorem witness_takes : (node .locked).takes own ∧ joining.takes toAll :=
  ⟨⟨rfl, .inr (.inl rfl), .inr ⟨2, rfl, rfl⟩⟩, rfl, .inl rfl, .inl rfl⟩

/-- The node uses the frames of the tests. -/
theorem witness_usesFrame :
    (node .locked).usesFrame expected ∧ (node .failed).usesFrame (frame 2#8 2#8 0#16 0#16 1#8) := by
  simp only [State.usesFrame, expected, frame_good]
  decide +kernel

/-- A record, and a queue of records with room for none. -/
def someRecord : Record := ⟨.alarm, 255#8, 0#16, 255#8, 11#8, 0#8, 0#32, 0#24⟩
def crowded : State := { node .locked with orq := ⟨List.replicate 47 someRecord, 1, false⟩ }

theorem witness_InterlockIsKeptByEveryStep :
    (dosing 0).interlocked ∧ ((dosing 0).head 2).valves.slow.output = true ∧
      ∃ t, step { dosing 0 with pending := [.phaseTimeLimitExpiry 2] } = .next t := by
  refine ⟨?_, by decide +kernel, _, rfl⟩
  unfold State.interlocked Head.interlocked; decide +kernel

theorem witness_RecordPlacesAreKeptByEveryStep :
    crowded.recordsBounded ∧ crowded.orq.records.length + crowded.orq.reservations = 48 ∧
      ∃ t, step { crowded with pending := [.pitchWindowExpiry] } = .next t :=
  ⟨by unfold State.recordsBounded; decide +kernel, by decide +kernel, _, rfl⟩

/-- The last word of table memory is listed. -/
def fullLoad : State := (loading 16).modTables fun t => { t with words := [(0, 1#32), (16383, 7#32)] }

theorem witness_TablesAreKeptByEveryStep :
    fullLoad.memoryWf ∧ fullLoad.segmentsPlaced ∧ checking.segmentsPlaced ∧
      ∃ t, step { fullLoad with pending := [.loadClose own 0#32] } = .next t := by
  refine ⟨by unfold State.memoryWf; decide +kernel, ?_, ?_, _, rfl⟩
  · constructor <;> decide +kernel
  · constructor <;> decide +kernel

/-- The learned main afterflow at its maximum, A RUNNING, and a queue of 16 entries at depth 16. -/
def bounded : State :=
  { withHead .idle (node .locked) with
    queue := ⟨List.replicate 16 entry40, false⟩
    settings := { (node .locked).settings with depth := 16 }
    trace := { (node .locked).trace with a := { (node .locked).trace.a with state := .running } } }

theorem witness_BoundsAreKeptByEveryStep :
    bounded.learnedBounded ∧ bounded.oneTraceRuns ∧ bounded.queueBounded ∧ bounded.settingsInRange ∧
      (bounded.head 2).table.learned.main = (bounded.head 2).table.afterflowMax.main ∧
      ∃ t, step { bounded with pending := [.queueClear own] } = .next t := by
  refine ⟨fun h m => ?_, ?_, ?_, ?_, by decide +kernel, _, rfl⟩
  · revert h; cases m <;> decide +kernel
  · unfold State.oneTraceRuns; decide +kernel
  · unfold State.queueBounded; decide +kernel
  · unfold State.settingsInRange; decide +kernel

/-- RESET held. -/
def held : State := after (.powerOnReset 10 .resetInput) (node .locked)

theorem witness_ReleaseAndSelfTestStartTheNode :
    held.resetHeld = true ∧ State.reset.resetHeld = false ∧ State.reset.selfTest = true ∧ State.reset.ring.state = .bypass := by
  decide +kernel

/-- A soft reset scheduled, with one segment LOADING. -/
def scheduled : State := { loading 6 with resetScheduled := true }

theorem witness_SoftResetSetsEveryBlock :
    (node .locked).resetScheduled = false ∧ scheduled.resetScheduled = true ∧ (scheduled.segment 1).state = .loading ∧
      ((after (.softReset 0) scheduled).segment 1).state = .bad ∧
      (let s := (scheduled.modHead 2 fun x => { x with presentPin := true, seq := { x.seq with elapsed := some 3 } })
       let t := after (.softReset 7) { s with scanner := { s.scanner with request := true, pointer := .head 2 } }
       (t.scanner.request, t.scanner.pointer, (t.head 2).presenceCandidate, (t.seq 2).elapsed) = (false, .bowl, ⟨true, 7⟩, none)) := by
  decide +kernel

theorem witness_FramesAndBytesReadBack :
    (List.replicate 158 (1#8 : Byte)).length = 158 ∧ (List.replicate 157 (1#8 : Byte)).length ≠ 158 ∧
      (List.replicate 159 (1#8 : Byte)).length ≠ 158 := by simp

/-- A hop count of 254 and of 255 leaves as 255, untouched in BYPASS, with an inverted check when an insertion is pending. -/
theorem witness_FramesAreForwarded :
    let f := fun hop => frame 3#8 hop 0#16 0#16 1#8
    let hopOf := fun hop s => (after (.frameOfUndefinedKind 0 (f hop)) s).frameOut.map Frame.hop
    State.reset.ring.state = .bypass ∧ held.resetHeld = true ∧ (node .locked).ring.state ≠ .bypass ∧
      (node .locked).resetHeld = false ∧ (node .locked).ring.damagePending = false ∧
      (after (.testDamageNext own) stopped).ring.damagePending = true ∧
      [hopOf 254#8 (node .locked), hopOf 255#8 (node .locked), hopOf 254#8 State.reset] = [some 255#8, some 255#8, some 254#8] := by
  simp only [after_undefinedFrame]
  decide +kernel

/-- A check is never its own inverse, so a frame with its check inverted is bad. -/
theorem inverted_check (x : Half) : x ≠ ~~~x := by
  intro h
  have := congrArg (fun y : Half => y.getLsbD 0) h
  simp at this

theorem bad_frame (f : Frame) (h : goodFrame f = true) : checkOf (frameContent { f with check := ~~~f.check }) ≠ ~~~f.check := by
  have : checkOf (frameContent f) = f.check := by simpa [goodFrame] using h
  show checkOf (frameContent f) ≠ ~~~f.check
  rw [this]
  exact inverted_check f.check

/-- A bad frame, a marked one, and ones of undefined kind and carousel state; the counter at its last value and before. -/
theorem witness_UnusedFramesAreForwarded :
    checkOf (frameContent { expected with check := ~~~expected.check }) ≠ ~~~expected.check ∧
      checkOf (frameContent expected) = expected.check ∧ (freshCheck { expected with damage := 1#8 }).damage ≠ 0#8 ∧
      (frame 3#8 2#8 0#16 0#16 1#8).kind ∉ [1#8, 2#8] ∧ (frame 1#8 2#8 0#16 0#16 4#8).carousel ∉ [1#8, 2#8, 3#8] ∧
      (node .locked).counter .damagedFrames ≠ 65535#16 ∧
      (setCounter .damagedFrames 65535#16 (node .locked)).counter .damagedFrames = 65535#16 := by
  refine ⟨bad_frame _ (frame_good _ _ _ _ _), ?_, ?_⟩
  · simpa [goodFrame, expected] using frame_good 1#8 2#8 9211#16 43#16 3#8
  · decide +kernel

/-- An unlatched node; address 31 with nothing to say, with an ALARM record, and FAILED. -/
theorem witness_AttentionBitShowsTheNode :
    let f := frame 2#8 31#8 0#16 0#16 1#8
    let g := frame 2#8 32#8 0#16 0#16 1#8
    let bits := fun (f : Frame) (s : State) => (after (.serviceFrame 0 f) s).frameOut.map Frame.attention
    (joining.usesFrame f ∧ joining.usesFrame g ∧ (node .failed).usesFrame f) ∧
      (after (.serviceFrame 0 f) joining).ring.address = some 31 ∧ (after (.serviceFrame 0 g) joining).ring.address = none ∧
      bits f joining = some 0#32 ∧ bits f { joining with orq := ⟨[someRecord], 0, false⟩ } = some 0x80000000#32 ∧
      bits f (node .failed) = some 0x80000000#32 ∧ bits f (withHead .fault joining) = some 0x80000000#32 := by
  simp only [State.usesFrame, frame_good, after_serviceFrame]
  decide +kernel

/-- Three records and four EMPTY slots, of which two are written under the latched address; slots that hold something already;
and a node in JOINING, which writes none. -/
theorem witness_OldestRecordsFillEmptySlots :
    let rs := [someRecord, { someRecord with code := 12#8 }, { someRecord with code := 13#8 }]
    let s : State := { node .locked with orq := ⟨rs, 0, false⟩ }
    let j : State := { joining with orq := ⟨rs, 0, false⟩ }
    let codes := fun (t : State) => (t.frameOut.map fun g => [g.r0.code, g.r1.code, g.r2.code, g.r3.code], t.orq.records.length)
    let f := frame 2#8 2#8 0#16 0#16 3#8
    (s.usesFrame expected ∧ s.usesFrame written ∧ j.usesFrame f) ∧ s.ring.state ≠ .bypass ∧
      codes (after (.pitchFrame 0 expected) s) = (some [11#8, 12#8, 0#8, 0#8], 1) ∧
      (after (.pitchFrame 0 expected) s).frameOut.map (fun g => (g.r0.node, g.r1.node)) = some (2#8, 2#8) ∧
      codes (after (.pitchFrame 0 written) s) = (some [0#8, 0#8, 0#8, 0#8], 3) ∧
      codes (after (.serviceFrame 0 f) j) = (some [0#8, 0#8, 0#8, 0#8], 3) := by
  simp only [State.usesFrame, expected, frame_good, written_good, after_pitchFrame, after_serviceFrame, after_written]
  decide +kernel

/-- JOINING, FAILED and BLIND with hop counts 31 and 32; LOCKED and HOLDOVER with another count, with room for one record. -/
theorem witness_HopCountIsTheAddress :
    let f := fun hop => frame 1#8 hop 9211#16 43#16 3#8
    let roomy : State := withHead .idle { node .holdover with orq := ⟨List.replicate 47 someRecord, 0, false⟩ }
    (joining.usesFrame (f 31#8) ∧ (node .blind).usesFrame (f 32#8) ∧ (node .failed).usesFrame (f 31#8)) ∧
      (roomy.usesFrame (f 3#8) ∧ roomy.ring.address = some 2 ∧ (f 3#8).hop.toNat ≠ 2 ∧
        roomy.orq.records.length + roomy.orq.reservations < 48 ∧ (f 3#8).mgmt.state ≠ 1#2 ∧ (roomy.seq 2).state = .idle) ∧
      (after (.pitchFrame 0 (f 31#8)) (node .blind)).ring.address = some 31 ∧
      (after (.pitchFrame 0 (f 32#8)) (node .blind)).ring.address = none := by
  simp only [State.usesFrame, frame_good, after_pitchFrame]
  decide +kernel

theorem witness_ServiceFrameShowsTheCarousel :
    let f := fun c => frame 2#8 2#8 0#16 0#16 c
    (node .locked).usesFrame (f 1#8) ∧ joining.usesFrame (f 2#8) ∧ (node .holdover).usesFrame (f 3#8) ∧ (f 1#8).kind = 2#8 ∧
      (f 1#8).hop.toNat = (2 : Fin 32).val ∧ carouselOf (f 1#8).carousel = some .stopped ∧
      carouselOf (f 2#8).carousel = some .jog ∧ carouselOf (f 3#8).carousel = some .running := by
  simp only [State.usesFrame, frame_good]
  decide +kernel

/-- A run of length 1 before the frame: with the next serial and position, and with another position. -/
theorem witness_SecondPitchFrameLocksTheNode :
    let s : State := { joining with ring := { joining.ring with run := ⟨1, 65535#16, 143⟩ } }
    let f := fun p => frame 1#8 2#8 0#16 p 3#8
    (s.usesFrame (f 0#16) ∧ s.usesFrame (f 1#16)) ∧ (f 0#16).serial = s.ring.run.serial + 1#16 ∧
      (f 0#16).position.toNat = (s.ring.run.position + 1) % s.settings.nPos ∧
      (f 1#16).position.toNat ≠ (s.ring.run.position + 1) % s.settings.nPos ∧
      (after (.pitchFrame 0 (f 0#16)) s).ring.state = .locked ∧ (after (.pitchFrame 0 (f 1#16)) s).ring.state = .joining := by
  simp only [State.usesFrame, frame_good, after_pitchFrame]
  decide +kernel

/-- At the lock a HELD head is IDLE, also at its infeed with a container waiting for no entry; an unlatched node at a hop count of
32 stays in JOINING at run 1, with its head HELD. -/
theorem witness_SecondPitchFrameLocksTheNode_heads :
    let s : State := withHead .held { joining with ring := { joining.ring with run := ⟨1, 9210#16, 42⟩ } }
    let f := fun hop => frame 1#8 hop 9211#16 43#16 3#8
    let t := after (.pitchFrame 0 (f 2#8)) s
    let at43 := after (.pitchFrame 0 (f 2#8)) (s.modTable 2 fun t => { t with position := 43 })
    let bare : State := { s with ring := { s.ring with address := none } }
    let u := after (.pitchFrame 0 (f 32#8)) bare
    bare.usesFrame (f 32#8) ∧ (f 32#8).mgmt.state ≠ 1#2 ∧ (t.ring.state, (t.seq 2).state) = (.locked, .idle) ∧
      ((at43.seq 2).state, at43.counter .unassigned) = (.idle, 1#16) ∧
      (u.ring.state, u.ring.run, u.ring.address, (u.seq 2).state) = (.joining, ⟨1, 9211#16, 43⟩, none, .held) := by
  simp only [State.usesFrame, frame_good, after_pitchFrame]
  decide +kernel

/-- The second consecutive frame in HOLDOVER, at the wrap of position, and the first. -/
theorem witness_ExpectedPitchIsReceived :
    let s : State :=
      { node .holdover with
        ring := { (node .holdover).ring with run := ⟨1, 65535#16, 143⟩ }
        pitch := { (node .holdover).pitch with sequence := some ⟨65535#16, 143, .received, 0⟩ } }
    let f := frame 1#8 2#8 0#16 0#16 3#8
    ((node .locked).usesFrame expected ∧ (node .holdover).usesFrame expected ∧ s.usesFrame f) ∧ expected.kind = 1#8 ∧
      carouselOf expected.carousel = some .running ∧ expected.serial = 9210#16 + 1#16 ∧ expected.position.toNat = (42 + 1) % 144 ∧
      (after (.pitchFrame 0 f) s).ring.state = .locked ∧ (after (.pitchFrame 0 expected) (node .holdover)).ring.state = .holdover := by
  simp only [State.usesFrame, expected, frame_good, after_pitchFrame]
  decide +kernel

/-- R25, R135: the bowl request of each kind of pitch event, in LOCKED and at the lock; none at a frame that does not lock, at a
reconfirmation and at entry into BLIND. -/
theorem witness_pitchEventsRequestTheBowl :
    let asks := fun f s => (after (.pitchFrame 0 f) s).scanner.request
    let f := fun serial p => frame 1#8 2#8 serial p 3#8
    let run : State := { joining with ring := { joining.ring with run := ⟨1, 9210#16, 42⟩ } }
    let estimated : State := { node .locked with pitch := { (node .locked).pitch with sequence := some ⟨9210#16, 42, .estimated, 0⟩ } }
    let bad := fun n => { node .holdover with ring := { (node .holdover).ring with badCount := n } }
    (node .locked).scanner.request = false ∧ (f 9211#16 43#16).mgmt.state ≠ 1#2 ∧
      [asks (f 9211#16 43#16) (node .locked), asks (f 9211#16 43#16) run, asks (f 9211#16 44#16) run,
        asks (f 9210#16 42#16) estimated, asks (f 9212#16 44#16) estimated] = [true, true, false, false, true] ∧
      [(after .pitchWindowExpiry (bad 7)).scanner.request, (after .pitchWindowExpiry (bad 8)).scanner.request] = [true, false] := by
  simp only [after_pitchFrame]
  decide +kernel

/-- A reconfirmation of an estimated pitch; catch-ups of 1 and of 8 serials, the holdover limit. -/
theorem witness_ReconfirmationAndCatchUp :
    let s : State := { node .locked with pitch := { (node .locked).pitch with sequence := some ⟨9210#16, 42, .estimated, 0⟩ } }
    let f := fun serial p => frame 1#8 2#8 serial p 3#8
    (s.usesFrame (f 9210#16 42#16) ∧ s.usesFrame (f 9212#16 44#16) ∧ s.usesFrame (f 9219#16 51#16)) ∧
      (f 9212#16 44#16).serial = 9210#16 + 1#16 + BitVec.ofNat 16 1 ∧ (f 9219#16 51#16).serial = 9210#16 + 1#16 + BitVec.ofNat 16 8 ∧
      8 ≤ s.settings.holdover ∧ (f 9219#16 51#16).position.toNat = (42 + 8 + 1) % s.settings.nPos ∧
      (after (.pitchFrame 0 (f 9219#16 51#16)) s).counter .missingPitches = 8#16 := by
  simp only [State.usesFrame, frame_good, after_pitchFrame]
  decide +kernel

/-- A frame ahead by 9, one more than the holdover limit, and one of the last received serial. -/
theorem witness_DiscontinuityRejoinsTheRing :
    let f := fun serial p => frame 1#8 2#8 serial p 3#8
    let d := fun serial : Half => (serial - 9210#16).toNat
    ((node .locked).usesFrame (f 9220#16 52#16) ∧ (node .locked).usesFrame (f 9210#16 42#16)) ∧
      settingsOk (node .locked).settings = true ∧ d 9220#16 = 10 ∧ d 9210#16 = 0 ∧
      (∀ h : HeadId, ((node .locked).seq h).state ≠ .stepHold) ∧
      (after (.pitchFrame 0 (f 9220#16 52#16)) (node .locked)).ring.state = .joining ∧
      (after (.pitchFrame 0 (f 9210#16 42#16)) (node .locked)).ring.state = .joining := by
  simp only [State.usesFrame, frame_good, after_pitchFrame]
  decide +kernel

/-- R108 at a discontinuity: an IDLE head; a head before its snift; one in its snift, RUNNING and FORCED_SNIFT; and one in
STEP_HOLD ahead of its snift under a JOG header. -/
theorem witness_DiscontinuityRejoinsTheRing_heads :
    let at' := fun c s =>
      let t := after (.pitchFrame 0 (frame 1#8 2#8 9300#16 52#16 c)) s
      ((t.seq 2).state, (t.seq 2).planIndex, (t.seq 2).flags.ringLoss, t.ring.badCount)
    let begun := fun x => (cycling x 6 .active).modSeq 2 fun q => { q with sniftBegun := true }
    [at' 3#8 (withHead .idle (node .locked)), at' 3#8 (cycling .running 3 .active), at' 3#8 (begun .running),
      at' 3#8 (begun .forcedSnift), at' 2#8 (cycling .stepHold 2 .none)] =
      [(.held, 0, false, 0), (.forcedSnift, 6, true, 0), (.forcedSnift, 6, true, 0), (.forcedSnift, 6, true, 0),
        (.forcedSnift, 6, true, 0)] := by
  simp only [after_pitchFrame]
  decide +kernel

/-- R36: a NODE SET that lowers N_pos to 42 and to 43 under the last position 42, and one that leaves N_pos; under 42, the frames
that the new modulus would expect, catch up or reconfirm are discontinuities, also behind an estimated event. -/
theorem witness_DiscontinuityRejoinsTheRing_beyond :
    let set := fun (n : Word) s => after (.nodeSet own n 32#32 8#32 5#16 3#16 0#32 1#32) s
    let f := fun serial p => frame 1#8 2#8 serial p 3#8
    let s := set 42#32 (node .locked)
    let estimated : State := { s with pitch := { s.pitch with sequence := some ⟨9210#16, 42, .estimated, 0⟩ } }
    let expired := after .pitchWindowExpiry s
    [(set 42#32 (node .locked)).pitch.lastBeyond, (set 43#32 (node .locked)).pitch.lastBeyond, (set 42#32 s).pitch.lastBeyond,
      (set 43#32 s).pitch.lastBeyond] = [true, false, true, false] ∧
      expired.pitch.sequence.map PitchSequence.position = some 1 ∧ expired.pitch.lastBeyond = true ∧
      (after (.pitchFrame 0 (f 9211#16 1#16)) s).ring.state = .joining ∧
      (after (.pitchFrame 0 (f 9212#16 2#16)) s).ring.state = .joining ∧
      (after (.pitchFrame 0 (f 9210#16 42#16)) estimated).ring.state = .joining ∧
      (after (.pitchFrame 0 (f 9212#16 2#16)) expired).ring.state = .joining ∧
      (after (.pitchFrame 0 (f 9211#16 43#16)) (set 43#32 (node .locked))).ring.state = .joining ∧
      (after (.pitchFrame 0 (f 9211#16 0#16)) (set 43#32 (node .locked))).ring.state = .locked := by
  simp only [after_pitchFrame]
  decide +kernel

/-- R36 in JOINING: behind a join reference at 42 under the new N_pos 42, the frame at 1 starts a new run and measures nothing,
and the frame after it locks the node. -/
theorem witness_SecondPitchFrameLocksTheNode_beyond :
    let s : State :=
      { joining with
        ring := { joining.ring with run := ⟨1, 9210#16, 42⟩ }
        pitch := { joining.pitch with joinRef := some ⟨9210#16, 42, 0, .running⟩ } }
    let f := fun serial p => frame 1#8 2#8 serial p 3#8
    let t := after (.pitchFrame 0 (f 9211#16 1#16)) (after (.nodeSet own 42#32 32#32 8#32 5#16 3#16 0#32 1#32) s)
    t.ring.state = .joining ∧ t.ring.run = ⟨1, 9211#16, 1⟩ ∧ t.pitch.estimate = some 50000 ∧ t.pitch.lastBeyond = false ∧
      (after (.pitchFrame 0 (f 9212#16 2#16)) t).ring.state = .locked := by
  simp only [after_pitchFrame]
  decide +kernel

/-- The bad-pitch counts before and at each change of the ring state. -/
theorem witness_WindowExpiryIsABadPitch :
    let at' := fun r n => { node r with ring := { (node r).ring with badCount := n } }
    let next := fun s => (after .pitchWindowExpiry s).ring.state
    stopped.pitch.window = none ∧ joining.pitch.window = some 75000 ∧ (at' .locked 1).pitch.window = some 75000 ∧
      [at' .locked 1, at' .locked 2, at' .holdover 7, at' .holdover 8].map next = [.locked, .holdover, .holdover, .blind] := by
  decide +kernel

/-- A LOCKED node one bad pitch short of BLIND, with head 2 as it stands and a container waiting. -/
def beforeBlind (s : State) : State :=
  { s with ring := { s.ring with badCount := 8 }, queue := ⟨[entry40, { entry40 with kind := .gap }], true⟩, orq := ⟨[], 1, false⟩ }

/-- R49, R108: a dose, a snift under way, and a resolution when the ring is lost; the records of the loss. -/
theorem witness_WindowExpiryIsABadPitch_ringLoss :
    let lost := fun s => after .pitchWindowExpiry (beforeBlind s)
    let head := fun s => ((lost s).seq 2).state
    ((dosing 0).seq 2).sniftBegun = false ∧ (∃ e ∈ cycle40.plan, e.kind = .snift) ∧ (beforeBlind (dosing 0)).orq.lost = false ∧
      [head (dosing 0), head (cycling .forcedSnift 6 .active), head (resolving (.following 40)), head (withHead .idle (node .locked))] =
        [.forcedSnift, .forcedSnift, .resolving, .held] ∧
      ((lost (dosing 0)).chan 2 .main).closeKind = .cut ∧ ((lost (dosing 0)).seq 2).flags.ringLoss = true ∧
      (lost (resolving (.following 40))).resolver.current.map Resolution.overtaken = some true ∧
      (lost (dosing 0)).orq.records.map (fun r => (r.kind, r.code)) = [(.alarm, 14#8), (.notServed, 5#8)] := by decide +kernel

/-- R101, R106, R108: a ring loss and a drift once the snift has begun, in a SNIFT entry, in its hold, and in STEP_HOLD behind
it, where the next SNIFT entry begins. -/
theorem witness_WindowExpiryIsABadPitch_sniftBegun :
    let begun := fun x p => (cycling x 6 p).modSeq 2 fun q => { q with sniftBegun := true }
    let drifted := fun s : State => s.modValve 2 .slow fun x => { x with candidate := ⟨true, 0⟩, feedback := .closed }
    let shape := fun s : State => ((s.seq 2).state, (s.seq 2).planIndex, (s.seq 2).progress)
    let all := [begun .running .active, begun .running .holding, begun .stepHold .none]
    let want := [(HeadState.forcedSnift, 6, Progress.active), (.forcedSnift, 6, .holding), (.forcedSnift, 7, .active)]
    (plan40[6]?.map PhaseEntry.kind) = some .snift ∧
      all.map (fun s => shape (after .pitchWindowExpiry (beforeBlind s))) = want ∧
      all.map (fun s => shape (after (.feedbackDebounceExpiry 2 .slow) (drifted s))) = want ∧
      all.map (fun s => ((after (.feedbackDebounceExpiry 2 .slow) (drifted s)).seq 2).faultPending) = [true, true, true] := by
  decide +kernel

/-- R103 to R105: at the elapsed count 1, each deadline one beyond it and at it, before, in and after the dose; R17. -/
theorem witness_WindowExpiryIsABadPitch_deadlines :
    let at' := fun (s : State) a b c => s.modHead 2 fun y =>
      { y with cycle := some { cycle40 with recipe := { recipe40 with deadlines := ⟨a, b, c⟩ } } }
    let fin := fun (s : State) a b c =>
      let t := after .pitchWindowExpiry (at' s a b c)
      ((t.seq 2).state, (t.seq 2).progress, (t.seq 2).flags.deadline)
    let early := cycling .running 2 .active
    ((dosing 0).chan 2 .main).state ≠ .idle ∧ (early.chan 2 .main).state = .idle ∧ ((dosing 0).seq 2).state = .running ∧
      [fin early 2 3 4, fin early 1 3 4, fin (dosing 0) 1 3 4, fin settling 1 3 4, fin (dosing 0) 0 1 4, fin settling 0 1 2] =
        [(.running, .active, false), (.forcedSnift, .active, true), (.running, .settling, true), (.running, .settling, false),
          (.forcedSnift, .active, true), (.forcedSnift, .active, true)] ∧
      [fin early 0 0 1, fin (cycling .forcedSnift 6 .active) 0 0 1].map Prod.fst = [.fault, .fault] ∧
      (after .pitchWindowExpiry { node .locked with ring := { (node .locked).ring with badCount := 2 } }).orq.records.map Record.code =
        [13#8] := by decide +kernel

/-- Each check of R40 as the first to fail, at the edge of its range, and a slot that leaves 2 free places. -/
theorem witness_AssignmentSlotIsJudged :
    let reason := fun (serial position : Half) (recipe : Byte) (s : State) =>
      (after (.containerAssignment 0 2#8 serial position recipe 0#8) s).assignOut.map fun a => (a.kind, a.flags)
    let full : State :=
      { served with queue := ⟨List.replicate 16 ⟨7002#16, 40, 5, .gap, false⟩, true⟩, settings := { served.settings with depth := 16 } }
    let near : State :=
      { full with queue := ⟨List.replicate 13 ⟨7002#16, 40, 5, .gap, false⟩, true⟩ }
    served.resetScheduled = false ∧ served.ring.state = .locked ∧ served.ring.address = some 2 ∧ joining.ring.state ≠ .locked ∧
      [reason 7010#16 40#16 128#8 served, reason 7010#16 43#16 127#8 served, reason 7001#16 40#16 5#8 served,
        reason (7001#16 + 4096#16) 40#16 5#8 served, reason 7010#16 41#16 5#8 served, reason 7010#16 40#16 5#8
          { served with queue := ⟨[⟨7010#16, 40, 5, .gap, false⟩], true⟩ }, reason 7010#16 40#16 5#8 full] =
        [some (4#8, 1#8), some (4#8, 2#8), some (4#8, 3#8), some (4#8, 4#8), some (4#8, 5#8), some (4#8, 6#8), some (4#8, 7#8)] ∧
      reason 7010#16 40#16 127#8 near = some (3#8, 0#8) ∧ near.queue.armed = true ∧
      near.settings.depth = near.queue.entries.length + 3 ∧ near.orq.lost = false := by decide +kernel

/-- An entry behind the frame's serial by 1, and one of that serial for a head at the infeed. -/
theorem witness_QueueFollowsThePitch :
    let s : State :=
      (withHead .idle { node .locked with queue := ⟨[entry40, { entry40 with serial := 9211#16 }], true⟩ }).modTable 2 fun t =>
        { t with position := 43 }
    s.usesFrame expected ∧ expected.mgmt.state ≠ 1#2 ∧ expected.a0.kind = 0#8 ∧
      (after (.pitchFrame 0 expected) s).queue.entries = [] ∧ (after (.pitchFrame 0 expected) s).counter .assignStale = 1#16 := by
  simp only [State.usesFrame, expected, frame_good, after_pitchFrame]
  decide +kernel

/-- R42, R43, R47: two stale entries, a container and a gap, with the result slots written: one record, and re-arming at 4 free
places but not at 3. -/
theorem witness_QueueFollowsThePitch_stale :
    let later := fun n : Nat => { entry40 with serial := 9212#16 + BitVec.ofNat 16 n }
    let s := fun n : Nat =>
      ({ node .locked with
         settings := { (node .locked).settings with depth := 16 }
         queue := ⟨entry40 :: { entry40 with kind := .gap } :: (List.range n).map later, false⟩ } : State)
    let t := fun n => after (.pitchFrame 0 written) (s n)
    (s 12).usesFrame written ∧ (s 12).settings.depth = 16 ∧ written.mgmt.state ≠ 1#2 ∧
      (t 12).orq.records = [⟨.notServed, 255#8, 9210#16, 40#8, 1#8, 0#8, 42#32, 0#24⟩] ∧ (t 12).counter .assignStale = 2#16 ∧
      [(t 12).queue.armed, (t 13).queue.armed] = [true, false] := by
  refine ⟨⟨rfl, rfl, written_good, by decide +kernel⟩, ?_⟩
  simp only [after_written]
  decide +kernel

theorem witness_InfeedStartsTheResolution :
    let s : State :=
      (withHead .idle
        { node .locked with
          queue := ⟨[{ entry40 with serial := 9211#16 }], true⟩
          orq := ⟨List.replicate 47 someRecord, 0, false⟩ }).modTable 2 fun t => { t with position := 43 }
    s.usesFrame expected ∧ (s.seq 2).reserved = false ∧ (∀ k : HeadId, k < 2 → (s.head k).table.position ≠ 43) ∧
      (∀ k : HeadId, (s.seq k).state ≠ .stepHold) ∧ s.resolver = ⟨[], none⟩ ∧ (s.head 2).presence = .present ∧
      ((after (.pitchFrame 0 expected) s).seq 2).state = .resolving := by
  simp only [State.usesFrame, expected, frame_good, after_pitchFrame]
  decide +kernel

/-- The resolution in progress as a request: its head, the recipe that it follows and its overtaken mark (R77, R86). -/
def begun (s : State) : Option ResRequest :=
  s.resolver.current.map fun r => ⟨r.head, match r.stage with | .following n => n | _ => 255, r.overtaken⟩

/-- R77: the Resolver is free, with no request and with one that waits; and it follows recipe 7 of head 5, with one that waits. -/
theorem witness_InfeedStartsTheResolution_list :
    let busy := fun l c =>
      (withHead .idle
        { node .locked with queue := ⟨[{ entry40 with serial := 9211#16 }], true⟩, resolver := ⟨l, c⟩ }).modTable 2 fun t =>
          { t with position := 43 }
    let fin := fun s => let t := after (.pitchFrame 0 expected) s; (t.resolver.requests, begun t)
    [fin (busy [] none), fin (busy [⟨6, 9, true⟩] none),
      fin (busy [⟨6, 9, true⟩] (some ⟨5, 7, 0, Fixed.empty, .following 7, [], 0, false⟩))] =
      [([], some ⟨2, 40, false⟩), ([⟨2, 40, false⟩], some ⟨6, 9, true⟩), ([⟨6, 9, true⟩, ⟨2, 40, false⟩], some ⟨5, 7, false⟩)] := by
  simp only [expected, after_pitchFrame]
  decide +kernel

/-- Head 2 alone at the infeed of the frame `written`, with a queue, a container level and a count of records held. -/
def atInfeed (x : HeadState) (r : RingState) (es : List QueueEntry) (p : Presence) (n : Nat) : State :=
  ((withHead x { node r with queue := ⟨es, true⟩, orq := ⟨List.replicate n someRecord, 0, false⟩ }).modTable 2 fun t =>
    { t with position := 43 }).modHead 2 fun y => { y with presence := p }

/-- R44 to R47, R91: a missing and an unassigned container, a GAP without a container, and a container declined; a head in
FAULT and a node in HOLDOVER. The last record's code, and the entry that the head keeps. -/
theorem witness_InfeedStartsTheResolution_otherwise :
    let e : QueueEntry := { entry40 with serial := 9211#16 }
    let gap : QueueEntry := { e with kind := .gap }
    let fin := fun s =>
      let t := after (.pitchFrame 0 written) s
      ((t.orq.records.drop (s.orq.records.length)).map Record.code, (t.seq 2).entry, t.orq.lost)
    let s := atInfeed .idle .locked [e] .present 47
    (s.usesFrame written ∧ (atInfeed .idle .holdover [e] .present 0).usesFrame written) ∧ (s.seq 2).reserved = false ∧
      (∀ k : HeadId, (s.head k).table.position = 43 ↔ k = 2) ∧ (∀ k : HeadId, k ≠ 2 → (s.seq k).state = .off) ∧
      written.mgmt.state ≠ 1#2 ∧ written.a5.kind = 0#8 ∧ written.r3.kind ≠ 0#8 ∧
      [fin (atInfeed .idle .locked [e] .absent 47), fin (atInfeed .idle .locked [] .present 47),
        fin (atInfeed .idle .locked [gap] .present 47), fin (atInfeed .idle .locked [gap] .none 47),
        fin (atInfeed .idle .locked [e] .present 48), fin (atInfeed .fault .locked [e] .present 47),
        fin (atInfeed .idle .holdover [e] .present 47)] =
        [([6#8], none, false), ([7#8], none, false), ([7#8], none, false), ([], some gap, false), ([], some e, true),
          ([2#8], none, false), ([3#8], none, false)] := by
  simp only [State.usesFrame, written_good, after_written]
  decide +kernel

/-- Requests that pass, are refused in FAILED, and are of kinds not open to broadcast or not defined (0, 22). -/
theorem witness_RequestsAreSiftedByState :
    let u := fun dest kind => Instr.undefinedRequest 0 { noMgmt with state := 1#2, dest := dest, kind := kind }
    (requestOf (.tableRead own 0#32 0#32 1#32)).isSome = true ∧ (node .blind).resetScheduled = false ∧ joining.judges ∧
      code (after (.queueClear own) (node .failed)) = some 3#8 ∧
      code (after (.tableRead toAll 0#32 0#32 1#32) (node .locked)) = some 6#8 ∧
      [u 2#6 0#5, u 2#6 22#5, u 63#6 31#5].map (fun i => code (after i (node .locked))) = [some 6#8, some 6#8, some 6#8] := by
  refine ⟨rfl, rfl, .inl rfl, ?_⟩
  decide +kernel

/-- Handled slots: addressed; broadcast, accepted and refused, with counts at 254 and 255. -/
theorem witness_AnswersAreWrittenBySender :
    let m : MgmtSlot := { noMgmt with state := 1#2, dest := 63#6, kind := 11#5, ack := 254#8, refuse := 255#8 }
    let n : MgmtSlot := { m with kind := 6#5 }
    let k : MgmtSlot := { m with dest := 2#6 }
    slotHandled m (node .locked) = true ∧ slotHandled n (node .locked) = true ∧ slotHandled k (node .locked) = true ∧
      (judgeRequest m (node .locked)).1.result = .done ∧ (judgeRequest n (node .locked)).1.result = .unknownKind ∧
      (handleSlot m (node .locked)).1.ack = 255#8 ∧ (handleSlot n (node .locked)).1.refuse = 255#8 := by decide +kernel

/-- The edges of R56's tests, in their order: number, kind, state, length, placement, shared words, and a segment at the end. -/
theorem witness_SegmentDefineIsJudgedInOrder :
    let ask := fun (g base length kind : Word) => code (after (.segmentDefine own g base length kind) mapped)
    mapped.takes own ∧
      [ask 32#32 0#32 32#32 1#32, ask 31#32 0#32 32#32 3#32, ask 1#32 0#32 32#32 1#32, ask 31#32 0#32 0#32 1#32,
        ask 31#32 0#32 16#32 1#32, ask 31#32 16368#32 32#32 2#32, ask 31#32 2303#32 16#32 2#32, ask 31#32 2304#32 16#32 2#32,
        ask 31#32 16368#32 16#32 2#32] =
        [some 4#8, some 4#8, some 3#8, some 4#8, some 4#8, some 4#8, some 4#8, some 0#8, some 0#8] := by
  refine ⟨⟨rfl, .inr (.inl rfl), .inr ⟨2, rfl, rfl⟩⟩, ?_⟩
  decide +kernel

/-- A resolution that holds segment 1 in its read set. -/
def reading : State :=
  { mapped with resolver := ⟨[], some ⟨2, 40, 1, Fixed.empty, .following 5, [1], 32, false⟩⟩ }

/-- Each test of R57 and R59 as the first to fail, and both requests accepted. -/
theorem witness_SegmentDeleteAndLoadOpenAreJudged :
    let del := fun (g : Word) (s : State) => code (after (.segmentDelete own g) s)
    let opn := fun (g : Word) (s : State) => code (after (.loadOpen own g) s)
    (node .locked).takes own ∧
      [del 32#32 mapped, del 31#32 mapped, del 1#32 (loading 6), del 1#32 checking, del 1#32 reading, del 1#32 mapped] =
        [some 4#8, some 3#8, some 2#8, some 2#8, some 2#8, some 0#8] ∧
      [opn 32#32 mapped, opn 31#32 mapped,
        opn 0#32 ((loading 6).modSegment 0 fun _ => ⟨.valid, some .curve, 0, 16, 0#16, 0#16⟩), opn 1#32 checking, opn 1#32 reading,
        opn 1#32 (loading 6)] = [some 4#8, some 3#8, some 3#8, some 2#8, some 2#8, some 0#8] := by
  refine ⟨witness_takes.1, ?_⟩
  decide +kernel

/-- Counts 0, 7, 1 and 6; no open segment; another pointer; the last words, and one beyond. -/
theorem witness_LoadDataWritesItsWords :
    let load := fun (p : Half) (n : BitVec 3) (s : State) => code (after (.loadData own p n words0) s)
    (loading 6).takes own ∧ Memory.wf (loading 6).tables.words = true ∧ 2048 + 16 ≤ 16384 ∧
      [load 6#16 0#3 (loading 6), load 6#16 7#3 (loading 6), load 6#16 1#3 mapped, load 5#16 6#3 (loading 6), load 10#16 6#3 (loading 10),
        load 11#16 6#3 (loading 11), load 15#16 1#3 (loading 15)] =
        [some 4#8, some 4#8, some 3#8, some 5#8, some 0#8, some 4#8, some 0#8] := by
  refine ⟨⟨rfl, .inr (.inl rfl), .inr ⟨2, rfl, rfl⟩⟩, ?_⟩
  decide +kernel

/-- No open segment, a short load, another segment under check, and an accepted close. -/
theorem witness_LoadCloseStartsTheCheck :
    let close := fun s : State => code (after (.loadClose own 0#32) s)
    (loading 16).takes own ∧
      [close mapped, close (loading 15), close ((loading 16).modTables fun t => { t with check := some ⟨0, 0⟩ }), close (loading 16)] =
        [some 3#8, some 5#8, some 2#8, some 1#8] := by
  refine ⟨⟨rfl, .inr (.inl rfl), .inr ⟨2, rfl, rfl⟩⟩, ?_⟩
  decide +kernel

theorem witness_CheckCompleteJudgesItsSegment :
    mapped.tables.check = none ∧ checking.tables.check = some ⟨1, 0⟩ ∧ (checking.segment 1).length = 16 := by decide +kernel

/-- Segment 32, counts 0 and 7, an UNDEFINED segment, the last word and one beyond; a report of the open segment. -/
theorem witness_SegmentsAreReadBack :
    let read := fun (g i n : Word) => code (after (.tableRead own g i n) (loading 6))
    (loading 6).takesOwn own ∧
      [read 32#32 0#32 1#32, read 1#32 0#32 0#32, read 1#32 0#32 7#32, read 2#32 0#32 6#32, read 1#32 10#32 6#32, read 1#32 11#32 6#32] =
        [some 4#8, some 4#8, some 4#8, some 3#8, some 0#8, some 4#8] ∧
      answer (after (.segmentStatus own 31#32) (loading 6)) = some words0 ∧
      answer (after (.segmentStatus own 1#32) (loading 6)) = some ⟨2#32, 2#32, 2048#32, 16#32, 6#32, 0#32⟩ := by
  refine ⟨⟨rfl, .inr (.inl rfl), 2, rfl, rfl⟩, ?_⟩
  decide +kernel

/-- Recipes 127 and 128, actions 1 and 2, segment 32, index 511 and 512, and a removal that names neither. -/
theorem witness_DirectorySetWritesTheEntry :
    let set := fun r a g i : Word => code (after (.directorySet own r a g i) (node .locked))
    [set 128#32 0#32 0#32 0#32, set 127#32 2#32 0#32 0#32, set 127#32 1#32 32#32 0#32, set 127#32 1#32 31#32 512#32,
      set 127#32 1#32 31#32 511#32, set 127#32 0#32 32#32 512#32] = [some 4#8, some 4#8, some 4#8, some 4#8, some 0#8, some 0#8] := by
  decide +kernel

/-- Heads 7 and 8, a head in service, and each field at and beyond an end of its range. -/
theorem witness_HeadSetWritesItsGroup :
    let place := fun (h p : Word) (o k : Half) (gas : Byte) (snift : Word) (s : State) =>
      code (after (.headSetPlace own h p o k gas 5#8 5#8 250#8 snift) s)
    let meters := fun (h a b : Word) (x y : Half) => code (after (.headSetMeters own h a b x y 31#16 1023#16) (node .locked))
    let s := node .locked
    [place 8#32 143#32 1000#16 20000#16 5#8 250#32 s, place 2#32 0#32 0#16 1#16 5#8 5#32 (withHead .idle s),
      place 7#32 143#32 1000#16 20000#16 5#8 250#32 s, place 7#32 144#32 0#16 1#16 5#8 5#32 s, place 7#32 0#32 1001#16 1#16 5#8 5#32 s,
      place 7#32 0#32 0#16 0#16 5#8 5#32 s, place 7#32 0#32 0#16 1#16 4#8 5#32 s, place 7#32 0#32 0#16 1#16 5#8 251#32 s] =
        [some 4#8, some 3#8, some 0#8, some 4#8, some 4#8, some 4#8, some 4#8, some 4#8] ∧
      [meters 8#32 1000#32 200000#32 31#16 1023#16, meters 7#32 1000#32 200000#32 31#16 1023#16, meters 7#32 999#32 1000#32 0#16 0#16,
        meters 7#32 1000#32 200001#32 0#16 0#16, meters 7#32 1000#32 1000#32 32#16 0#16, meters 7#32 1000#32 1000#32 0#16 1024#16] =
        [some 4#8, some 0#8, some 4#8, some 4#8, some 4#8, some 4#8] := by decide +kernel

theorem witness_HeadSetWritesItsGroup_afterflow :
    let set := fun h a b : Word => code (after (.headSetAfterflow own h a b) (node .locked))
    [set 8#32 0#32 0#32, set 7#32 0#32 50000000#32, set 7#32 50000001#32 0#32] = [some 4#8, some 0#8, some 4#8] ∧
      code (after (.headSetAfterflow own 2#32 0#32 0#32) (withHead .held (node .locked))) = some 3#8 := by decide +kernel

/-- BUSY by an entry and by a head; settings at and beyond their ends; a head at the new N_pos; new debounce times. -/
theorem witness_NodeSetWritesAllSettings :
    let set := fun (n d o : Word) (p f : Half) (bo bg : Word) (s : State) => code (after (.nodeSet own n d o p f bo bg) s)
    let s := withHead .idle (node .locked)
    [set 144#32 32#32 8#32 5#16 3#16 0#32 1#32 { s with queue := ⟨[entry40], true⟩ },
      set 144#32 32#32 8#32 5#16 3#16 0#32 1#32 (withHead .held s), set 513#32 64#32 16#32 20#16 20#16 1000#32 20000#32 s,
      set 144#32 40#32 8#32 5#16 3#16 0#32 1#32 s, set 144#32 32#32 1#32 5#16 3#16 0#32 1#32 s,
      set 144#32 32#32 8#32 21#16 3#16 0#32 1#32 s, set 42#32 32#32 8#32 5#16 3#16 0#32 1#32 s,
      set 43#32 16#32 2#32 5#16 3#16 1000#32 1#32 s, set 512#32 64#32 16#32 20#16 3#16 0#32 20000#32 s] =
        [some 2#8, some 2#8, some 4#8, some 4#8, some 4#8, some 4#8, some 4#8, some 0#8, some 0#8] := by decide +kernel

/-- R147, R149: the feedback debounce goes from 3 ms to 2 ms at 5 ms. An active level that has held for 2 ms, and one that has not;
at a valve commanded closed, one commanded open in a stroke, and one commanded closed in a stroke. -/
theorem witness_NodeSetWritesAllSettings_feedback :
    let at' := fun since out sup =>
      let s := (withHead .idle (node .locked)).modValve 2 .slow fun x =>
        { x with candidate := ⟨true, since⟩, output := out, supervision := sup, expiry := some 90000 }
      let t := after (.nodeSet { own with time := 50000 } 144#32 32#32 8#32 5#16 2#16 0#32 1#32) s
      ((t.valve 2 .slow).feedback, (t.valve 2 .slow).supervision, (t.valve 2 .slow).expiry, t.orq.records.map Record.code)
    (node .locked).settings.feedback = 3 ∧
      [at' 30000 false .idle, at' 30001 false .idle, at' 30000 true .stroking, at' 30000 false .stroking] =
        [(.opened, .faulted, some 90000, [3#8]), (.none, .idle, some 90000, []), (.opened, .idle, none, []),
          (.opened, .stroking, some 90000, [])] := by decide +kernel

/-- A queue whose records fill the last places, and one in which they are lost. -/
theorem witness_QueueClearRecordsEveryContainer :
    let s : State := { node .locked with queue := ⟨[entry40, entry40], true⟩, orq := ⟨List.replicate 45 someRecord, 1, false⟩ }
    s.takes own ∧ s.orq.lost = false ∧ s.orq.records.length + s.orq.reservations + 2 = 48 ∧
      (after (.queueClear own) s).orq.records.length = 47 ∧ ((after (.queueClear own) s).totals[40]).unservedCount = 2 := by
  refine ⟨⟨rfl, .inr (.inl rfl), .inr ⟨2, rfl, rfl⟩⟩, ?_⟩
  decide +kernel

/-- Heads 7 and 8; a head in service; a record without weights or with a position out of range; and one that starts. -/
theorem witness_HeadControlOnStartsTheHead :
    let on := fun (h : Word) (s : State) => code (after (.headControlOn own h) s)
    let s := withHead .off (node .locked)
    [on 8#32 s, on 2#32 (withHead .idle s), on 7#32 s, on 2#32 (s.modTable 2 fun t => { t with position := 144 }), on 2#32 s] =
      [some 4#8, some 3#8, some 4#8, some 4#8, some 0#8] := by decide +kernel

/-- Each head state, and a head whose conversion is in flight. -/
theorem witness_HeadControlOffClosesTheHead :
    let off := fun x => code (after (.headControlOff own 2#32) (withHead x (node .locked)))
    let s := withHead .idle (node .locked)
    let at2 : State := { s with scanner := { s.scanner with conversion := ⟨.head 2, false, some 0⟩ } }
    [HeadState.off, .resolving, .running, .forcedSnift, .stepHold, .idle, .fault, .held].map off =
        [some 3#8, some 2#8, some 2#8, some 2#8, some 2#8, some 0#8, some 0#8, some 0#8] ∧
      (after (.headControlOff own 2#32) at2).scanner.conversion.channel = .bowl ∧
      (let busy := { at2 with scanner := { at2.scanner with pointer := .head 2 } }
       let other := busy.modSeq 5 fun q => { q with state := .idle }
       let scan := fun s => (after (.headControlOff own 2#32) s).scanner
       [(scan other).conversion, (scan { other with scanner := { other.scanner with request := true } }).conversion] =
         [⟨.head 5, false, some 0⟩, ⟨.bowl, true, some 0⟩] ∧
       (scan other).pointer = .head 5 ∧ (scan { other with scanner := { other.scanner with request := true } }).pointer = .head 2) := by
  decide +kernel

/-- Head 2 in FAULT with all five feedback levels closed. -/
def closedFault : State :=
  [ValveId.gas, .fast, .slow, .add, .snift].foldl (fun s v => s.modValve 2 v fun x => { x with feedback := .closed })
    (withHead .fault (node .locked))

theorem witness_HeadControlClearAndForget :
    code (after (.headControlClear own 2#32) closedFault) = some 0#8 ∧
      code (after (.headControlClear own 2#32) (closedFault.modValve 2 .add fun x => { x with feedback := .none })) = some 3#8 ∧
      code (after (.headControlForget own 2#32) (withHead .off (node .locked))) = some 0#8 ∧
      code (after (.headControlForget own 2#32) (withHead .held (node .locked))) = some 3#8 := by decide +kernel

theorem witness_StepModeIsSetAndStepped :
    code (after (.headControlStepOn own 2#32) (withHead .idle stopped)) = some 0#8 ∧
      code (after (.headControlStepOn own 2#32) (withHead .idle (node .locked))) = some 3#8 ∧
      code (after (.headControlStepOff own 2#32) (withHead .fault stopped)) = some 0#8 ∧
      code (after (.headControlStep own 2#32) (cycling .stepHold 4 .none)) = some 0#8 ∧
      code (after (.headControlStep own 2#32) (withHead .idle stopped)) = some 3#8 := by decide +kernel

theorem witness_CountersAndTotalsAreReadAndCleared :
    let read := fun c : Word => code (after (.countersRead own c) (node .locked))
    let total := fun r c : Word => code (after (.totalsRead own r c) (node .locked))
    [read 0#32, read 1#32, read 2#32] = [some 0#8, some 0#8, some 4#8] ∧
      [total 127#32 0#32, total 127#32 1#32, total 128#32 0#32, total 0#32 2#32] = [some 0#8, some 0#8, some 4#8, some 4#8] := by
  decide +kernel

/-- The edges of R166's test 1, its tests 2 and 3, and a linked arm of B that waits while A runs. -/
theorem witness_TraceArmWritesTheDescriptor :
    let arm := fun (d h g v n : Word) (l t : Half) (s : State) => code (after (.traceArm own d h g v n l t) s)
    let s := node .locked
    let run := after (.traceArm own 0#32 7#32 3#32 64#32 512#32 0#16 0#16) s
    run.trace.a.state = .running ∧
      [arm 2#32 0#32 0#32 1#32 1#32 0#16 0#16 s, arm 0#32 8#32 0#32 1#32 1#32 0#16 0#16 s, arm 0#32 0#32 4#32 1#32 1#32 0#16 0#16 s,
        arm 0#32 0#32 0#32 65#32 1#32 0#16 0#16 s, arm 0#32 0#32 0#32 1#32 513#32 0#16 0#16 s, arm 0#32 0#32 0#32 1#32 1#32 1#16 0#16 s,
        arm 1#32 0#32 0#32 1#32 1#32 0#16 2#16 s, arm 0#32 0#32 0#32 1#32 1#32 0#16 1#16 run, arm 1#32 0#32 0#32 1#32 1#32 0#16 0#16 run,
        arm 1#32 0#32 0#32 1#32 1#32 1#16 0#16 run] =
        [some 4#8, some 4#8, some 4#8, some 4#8, some 4#8, some 4#8, some 4#8, some 2#8, some 2#8, some 0#8] := by decide +kernel

theorem witness_TraceStopAndTraceRead :
    [(Instr.traceStop own 2#32), .traceStop own 1#32, .traceRead own 2#32 0#32, .traceRead own 1#32 512#32,
      .traceRead own 1#32 511#32].map (fun i => code (after i (node .locked))) =
      [some 4#8, some 0#8, some 4#8, some 4#8, some 0#8] := by decide +kernel

theorem witness_NodeStatusReportsTheNode :
    (node .failed).resetScheduled = false ∧ (node .failed).ring.state = .failed ∧ (node .failed).ownAddress own.dest ∧
      code (after (.nodeStatus own) (node .failed)) = some 0#8 :=
  ⟨rfl, rfl, ⟨2, rfl, rfl⟩, by decide +kernel⟩

/-- Heads 7 and 8; an elapsed count that is known and one that is not. -/
theorem witness_HeadStatusReportsItsPart :
    let s := cycling .running 4 .active
    s.takesOwn own ∧ code (after (.headStatusCycle own 8#32) s) = some 4#8 ∧ (s.seq 2).elapsed = some 1 ∧ (s.seq 7).elapsed = none ∧
      (answer (after (.headStatusCycle own 7#32) s)).map DataWords.d2 = some 65535#32 ∧ (s.seq 2).planIndex < 256 := by
  refine ⟨⟨rfl, .inr (.inl rfl), 2, rfl, rfl⟩, ?_⟩
  decide +kernel

theorem witness_NodeResetAndTestAreJudged :
    code (after (.nodeReset own) (withHead .resolving stopped)) = some 2#8 ∧ code (after (.nodeReset own) (withHead .held stopped)) = some 0#8 ∧
      code (after (.testDamageNext own) stopped) = some 0#8 ∧ code (after (.testForceRail own 8#32) stopped) = some 4#8 ∧
      code (after (.testForceRail own 7#32) stopped) = some 0#8 ∧ code (after (.testForceRail own 7#32) (node .locked)) = some 3#8 := by
  decide +kernel

/-- A recipe word 0 that says FULL (1) or VARIANT (2) of a parent. -/
def chainAt (n : Nat) (w : Word) (st : SegState) (len : Nat) (r : Resolution → Resolution) : State :=
  let s := resolving (.following n)
  { ((s.modSegment 2 fun _ => ⟨st, some .recipe, 0, len, 0#16, 0#16⟩).modTables fun t => { t with words := [(32, w)] }) with
    directory := s.directory.set 127 (some ⟨2, 1⟩)
    resolver := { s.resolver with current := s.resolver.current.map r } }

/-- The stage after one step, and the fault and detail of the record that a step leaves when it fails. -/
def stageAfter (s : State) : Option Stage := (after (.resolutionStep 0) s).resolver.current.map Resolution.stage
def faultAfter (s : State) : List (Word × BitVec 24) :=
  (after (.resolutionStep 0) s).orq.records.map fun r => (r.valueA, r.valueB)

/-- Numbers 127 and 128, a missing entry, a wrong kind, a segment not VALID, an index beyond the end, the fourth record of a
chain and a record of no kind; and the VARIANT and FULL records that pass. -/
theorem witness_ResolutionStepFollowsTheChain :
    (node .locked).resolver.current = none ∧
      [faultAfter (resolving (.following 128)), faultAfter (resolving (.following 127)),
        faultAfter (chainAt 127 0x80290000#32 .undefined 64 id), faultAfter (chainAt 127 0x80290000#32 .loading 64 id),
        faultAfter (chainAt 127 0x80290000#32 .valid 63 id),
        faultAfter (chainAt 127 0x80290000#32 .valid 64 fun r => { r with chainLength := 3 }),
        faultAfter (chainAt 127 0#32 .valid 64 id)] =
        [[(1#32, 128#24)], [(1#32, 127#24)], [(2#32, 127#24)], [(3#32, 127#24)], [(4#32, 127#24)], [(5#32, 41#24)],
          [(6#32, 127#24)]] ∧
      stageAfter (chainAt 127 0x80290000#32 .valid 64 id) = some (.following 41) ∧
      stageAfter (chainAt 127 0x40000000#32 .valid 64 fun r => { r with chainLength := 3 }) =
        some (.merged (mergeFull Fixed.empty (fullOf [0x40000000#32]))) := by decide +kernel

/-- The merged recipe of section 5.3 with a change of its recipe, and with a plan of the given kinds. -/
def mergedWith (f : Recipe → Recipe) : Merged := { merged40 with recipe := f recipe40 }
def planned (ks : List Nat) : Merged := { merged40 with plan := ks.map fun k => ⟨k, false, 1, 100, 0, 0⟩ }

/-- Fields at and beyond an end of their range, each plan rule broken, and the deadlines equal, and at N_pos and one less. -/
theorem witness_ResolutionStepFollowsTheChain_validation :
    let fault := fun m => validate 144 m
    let dead := fun a b c => fault (mergedWith fun r => { r with deadlines := ⟨a, b, c⟩ })
    [fault (mergedWith fun r => { r with vMain := 49999999 }), fault (mergedWith fun r => { r with vMain := 50000000 }),
      fault { merged40 with planCount := 0 }, fault (mergedWith fun r => { r with factor := -20001 })] =
        [some .fieldRange, none, some .fieldRange, some .fieldRange] ∧
      [[2, 3, 4, 6], [2, 3, 6], [2, 3, 4, 4, 6], [2, 4, 6], [3, 2, 4, 6], [2, 3, 4], [2, 3, 6, 4], [2, 3, 4, 6, 6]].map
        (fun ks => fault (planned ks)) =
        [none, some .planInvalid, some .planInvalid, some .planInvalid, some .planInvalid, some .planInvalid, some .planInvalid,
          none] ∧
      [dead 12 12 48, dead 12 30 30, dead 12 30 144, dead 12 30 143] =
        [some .deadlinesInvalid, some .deadlinesInvalid, some .deadlinesInvalid, none] ∧
      [fault merged40, fault (mergedWith fun r => { r with ratio := 0 })] = [none, some .planInvalid] ∧
      [faultAfter (resolving (.merged (planned [2, 4, 6]))), faultAfter (resolving (.merged (mergedWith fun r => { r with gain := 0 })))] =
        [[(7#32, 0#24)], [(6#32, 0#24)]] := by decide +kernel

/-- The Resolver about to read a curve in record 1 of segment 1, of 32 words, with the given words of the record. -/
def curveAt' (x : Stage) (st : SegState) (len : Nat) (kind : SegKind) (words : List (Nat × Word)) : State :=
  ((resolving x).modTable 2 fun t => { t with curve := ⟨⟨1, 1⟩, ⟨1, 1⟩⟩ }).modSegment 1 (fun _ => ⟨st, some kind, 0, len, 0#16, 0#16⟩)
    |>.modTables fun t => { t with words := words }

/-- Segment 32; each test of R82 as the first to fail, for the main and the additive curve; both curves that pass; a ratio of 0. -/
theorem witness_ResolutionStepFollowsTheChain_curves :
    let good : List (Nat × Word) := [(16, 2#32), (17, 0x03E804B0#32), (18, 0x1388FCE0#32)]
    let long : List (Nat × Word) := [(16, 9#32)]
    let main := curveAt' (.merged merged40)
    let add := curveAt' (.mainRead merged40 curve40)
    let plain : Merged := { merged40 with recipe := { recipe40 with ratio := 0 } }
    let none' := (resolving (.merged merged40)).modTable 2 fun t => { t with curve := ⟨⟨32, 0⟩, ⟨31, 0⟩⟩ }
    [none', main .valid 32 .recipe good, main .bad 32 .curve good, main .valid 31 .curve good, main .valid 32 .curve [(16, 1#32)],
      main .valid 32 .curve long, main .valid 32 .curve [(16, 2#32), (17, 0x10000#32), (18, 0x10000#32)]].map faultAfter =
        List.replicate 7 [(9#32, 0#24)] ∧
      [add .loading 32 .curve good, add .valid 32 .curve long].map faultAfter = List.replicate 2 [(9#32, 1#24)] ∧
      stageAfter (main .valid 32 .curve good) = some (.mainRead merged40 curve40) ∧
      stageAfter (add .valid 32 .curve good) = some (.curvesRead merged40 curve40 (some curve40)) ∧
      stageAfter (resolving (.mainRead plain curve40)) = some (.curvesRead plain curve40 none) ∧
      stageAfter (resolving (.curvesRead plain curve40 none)) = some (.curvesRead plain curve40 none) ∧
      faultAfter (resolving (.failed .noRecipe 130)) = [(1#32, 130#24)] := by decide +kernel

/-- A field fixed and a field open, with the override flag set and clear; and plan entries of defined kinds. -/
theorem witness_NearestRecordFixesEachField :
    let fx : Fixed := { Fixed.empty with target := some 330000000 }
    (∀ e ∈ merged40.plan, 1 ≤ e.kindCode ∧ e.kindCode ≤ 6) ∧
      fx.target = some 330000000 ∧ fx.tolUnder = none ∧ fx.deadlines = none ∧ (fixVariant [0x80050001#32, 500#32] fx).target = some 330000000 ∧
      (fixVariant [0x80050001#32, 500#32] Fixed.empty).target = some 500 ∧ (fixVariant [0x80050000#32, 500#32] Fixed.empty).target = none := by
  decide +kernel

/-- The ways in which a resolution completes: a fault, a merged recipe that fails, an overtaken resolution, and a start one pitch before D_fill at the
lowest bowl pressure allowed. -/
theorem witness_ResolutionEndsWithItsOutcome :
    let done := Stage.curvesRead merged40 curve40 (some curve40)
    let s := (resolving done).modSeq 2 fun q => { q with elapsed := some 11 }
    let low : State := { s with scanner := { s.scanner with bowl := ⟨some 3500, none, false, 0⟩ } }
    let late : State := { s with resolver := { s.resolver with current := s.resolver.current.map fun r => { r with overtaken := true } } }
    (s.seq 2).entry = some entry40 ∧ s.orq.lost = false ∧ 0 < s.orq.reservations ∧ (planOf merged40).map PhaseEntry.kind = plan40.map PhaseEntry.kind ∧
      ((after (.resolutionComplete 0) (resolving (.failed .noRecipe 130))).seq 2).state = .idle ∧
      validate 144 (mergedWith fun r => { r with gain := 7 }) = some .fieldRange ∧
      (after (.resolutionComplete 0) (resolving (.merged (mergedWith fun r => { r with gain := 7 })))).orq.records.map Record.valueA =
        [6#32] ∧
      ((after (.resolutionComplete 0) low).seq 2).state = .running ∧
      (after (.resolutionComplete 0) late).orq.records.map Record.code = [5#8] := by decide +kernel

/-- R87 tests 3 to 5: the elapsed count one below D_fill and at it; the bowl fault and no bowl value; each bowl limit, and 1 beyond. -/
theorem witness_ResolutionEndsWithItsOutcome_declined :
    let at' := fun (n : Nat) (bowl : ScanChannel) =>
      let s := (resolving (.curvesRead merged40 curve40 (some curve40))).modSeq 2 fun q => { q with elapsed := some n }
      let t := after (.resolutionComplete 0) { s with scanner := { s.scanner with bowl := bowl } }
      ((t.seq 2).state, t.orq.records.map Record.code)
    let bowl := fun b => (⟨some b, none, false, 0⟩ : ScanChannel)
    recipe40.deadlines.dFill = 12 ∧
      [at' 11 (bowl 3500), at' 12 (bowl 3500), at' 11 ⟨some 3840, none, true, 0⟩, at' 11 ⟨none, none, false, 0⟩, at' 11 (bowl 3499),
        at' 11 (bowl 4200), at' 11 (bowl 4201)] =
        [(.running, []), (.idle, [9#8]), (.idle, [10#8]), (.idle, [10#8]), (.idle, [11#8]), (.running, []), (.idle, [11#8])] := by
  decide +kernel

/-- R115, R132, R167: q_s is 0 from the cycle start, while a trace goes on reading the rate that stood. -/
theorem witness_ResolutionEndsWithItsOutcome_rate :
    let s := (resolving (.curvesRead merged40 curve40 (some curve40))).modChan 2 .main fun c => { c with state := .ended, rate := 827 }
    let t := after (.resolutionComplete 0) s
    let d : Descriptor := { State.reset.trace.a with head := 2, signal := .mainRate }
    (sampleOf d s, sampleOf d t, (t.chan 2 .main).rate, (t.chan 2 .main).state) = (827#16, 827#16, 0, .idle) ∧
      sampleOf d (doseStart 2 .main t) = 0#16 := by decide +kernel

/-- R77: a request that waits, marked overtaken, begins when a resolution fails, is declined and starts its cycle. -/
theorem witness_ResolutionEndsWithItsOutcome_list :
    let done := Stage.curvesRead merged40 curve40 (some curve40)
    let fin := fun (x : Stage) (mark : Bool) =>
      let s := resolving x
      let t := after (.resolutionComplete 0)
        { s with resolver := ⟨[⟨6, 9, true⟩, ⟨7, 3, false⟩], s.resolver.current.map fun r => { r with overtaken := mark }⟩ }
      ((t.seq 2).state, t.resolver.requests, begun t)
    [fin (.failed .noRecipe 130) false, fin done true, fin done false] =
      [(.idle, [⟨7, 3, false⟩], some ⟨6, 9, true⟩), (.idle, [⟨7, 3, false⟩], some ⟨6, 9, true⟩),
        (.running, [⟨7, 3, false⟩], some ⟨6, 9, true⟩)] := by decide +kernel

/-- Every kind of next entry, and a head in step mode that holds. -/
theorem witness_NextEntryBeginsOrHolds :
    let s := fun i => cycling .running i .active
    let kind := fun i => ((plan40)[i]?).map PhaseEntry.kind
    [0, 1, 3, 4, 5].map kind = [some .purge, some .pressurise, some .fill, some .rest, some .snift] ∧ ((s 0).head 2).cycle = some cycle40 ∧
      ((s 1).head 2).scan.fault = false ∧ (s 1).scanner.bowl.fault = false ∧ ((s 3).head 2).table.learned.main < recipe40.vMain ∧
      ((s 5).seq 2).sniftBegun = false ∧ ((goOn 2 (s 3)).chan 2 .main).state = .dosing ∧
      ((goOn 2 ((s 3).modSeq 2 fun q => { q with stepMode := true })).seq 2).state = .stepHold := by decide +kernel

/-- How doses begin: ADDITIVE at D_fill and 1 before it, at a learned afterflow at the target of 4,950,000 and 1 below; FILL likewise. -/
theorem witness_NextEntryBeginsOrHolds_doses :
    let at' := fun (i n a b : Nat) => (cycling .running i .active).modHead 2 fun y =>
      { y with table := { y.table with learned := ⟨a, b⟩ }, seq := { y.seq with elapsed := some n } }
    let chan := fun m s => let t := goOn 2 s; ((t.seq 2).planIndex, (t.seq 2).progress, (t.chan 2 m).state, (t.chan 2 m).target)
    let opened := fun s => let t := goOn 2 s; [ValveId.fast, .slow, .add].map fun v => (t.valve 2 v).request
    [chan .additive (at' 2 12 0 0), chan .additive (at' 2 11 0 4949999), chan .additive (at' 2 11 0 4950000)] =
        [(4, .active, .idle, 0), (3, .active, .dosing, 4950000), (3, .settling, .settling, 4950000)] ∧
      [chan .main (at' 3 12 329999999 0), chan .main (at' 3 12 330000000 0)] =
        [(4, .active, .dosing, 330000000), (4, .settling, .settling, 330000000)] ∧
      [opened (at' 2 12 0 0), opened (at' 2 11 0 0), opened (at' 2 11 0 4950000), opened (at' 3 12 330000000 0)] =
        [[false, true, false], [false, false, true], [false, false, false], [false, false, false]] := by decide +kernel

/-- The items of a valve that an opening may change. -/
structure Drive where
  request : Bool
  output : Bool
  supervision : Supervision
  expiry : Option Ticks
  deriving DecidableEq

def drive (v : ValveId) (s : State) : Drive :=
  let x := s.valve 2 v
  ⟨x.request, x.output, x.supervision, x.expiry⟩

/-- The codes and values of the records. -/
structure Alarm where
  code : Byte
  valueA : Word
  valueB : BitVec 24
  deriving DecidableEq

def alarms (s : State) : List Alarm := s.orq.records.map fun r => ⟨r.code, r.valueA, r.valueB⟩

/-- R145, R148: PURGE opens GAS and SNIFT, with strokes of 80 ms; with a feedback level of OPEN, and with the request standing. -/
theorem witness_NextEntryBeginsOrHolds_opens :
    let purge := cycling .running 0 .none
    let gas := fun f => let t := goOn 2 (purge.modValve 2 .gas f); [drive .gas t, drive .snift t]
    (purge.seq 2).equalised = false ∧
      [gas id, gas (fun x => { x with feedback := .opened }), gas (fun x => { x with feedback := .closed }),
        gas (fun x => { x with request := true })] =
        [[⟨true, true, .stroking, some 800000⟩, ⟨true, true, .stroking, some 800000⟩],
          [⟨true, true, .idle, none⟩, ⟨true, true, .stroking, some 800000⟩],
          [⟨true, true, .stroking, some 800000⟩, ⟨true, true, .stroking, some 800000⟩],
          [⟨true, false, .idle, none⟩, ⟨true, true, .stroking, some 800000⟩]] := by decide +kernel

/-- R146: ADD and SLOW open with the equalised flag set and SNIFT closed; they are suppressed with the flag clear, and with SNIFT
open; SLOW ahead of FAST where the start band is 0. -/
theorem witness_NextEntryBeginsOrHolds_interlock :
    let at' := fun (i : Nat) (flag snift : Bool) =>
      ((cycling .running i .active).modSeq 2 fun q => { q with equalised := flag }).modValve 2 .snift fun x =>
        { x with output := snift }
    let opens := fun v s => let t := goOn 2 s; (drive v t, alarms t)
    let both := fun s : State =>
      s.modHead 2 fun y => { y with cycle := some { cycle40 with recipe := { recipe40 with startBand := 0 } } }
    let shut : Drive := ⟨true, false, .idle, none⟩
    [opens .add (at' 2 true false), opens .slow (at' 3 true false), opens .fast (both (at' 3 true false))] =
        List.replicate 3 (⟨true, true, .stroking, some 600000⟩, []) ∧
      [opens .add (at' 2 false false), opens .add (at' 2 true true), opens .slow (at' 3 false true)] =
        [(shut, [⟨4#8, 3#32, 0#24⟩]), (shut, [⟨4#8, 3#32, 1#24⟩]), (shut, [⟨4#8, 2#32, 0#24⟩])] ∧
      opens .fast (both (at' 3 true true)) = (shut, [⟨4#8, 2#32, 1#24⟩, ⟨4#8, 1#32, 1#24⟩]) := by decide +kernel

/-- R146: SLOW stands commanded open where PURGE or SNIFT begins: SNIFT opens with its request closed, or the flag becomes clear. -/
theorem witness_NextEntryBeginsOrHolds_closes :
    let at' := fun (i : Nat) (begun flag request : Bool) =>
      let s := ((dosing 5).modSeq 2 fun q => { q with planIndex := i, sniftBegun := begun, equalised := flag }).modValve 2 .snift
        fun x => { x with request := request }
      let t := goOn 2 s
      ((t.valve 2 .slow).request, (t.valve 2 .slow).output, (t.valve 2 .snift).output, alarms t)
    [at' 0 false true false, at' 0 false true true, at' 5 false true false, at' 5 true true false] =
      [(true, false, true, [⟨4#8, 2#32, 1#24⟩]), (true, false, false, [⟨4#8, 2#32, 0#24⟩]), (true, false, true, [⟨4#8, 2#32, 0#24⟩]),
        (true, false, true, [⟨4#8, 2#32, 1#24⟩])] := by decide +kernel

/-- R95: a PRESSURISE entry that begins under a head or a bowl sensor fault, with ABORT and with CONTINUE. -/
theorem witness_NextEntryBeginsOrHolds_fault :
    let at' := fun (head bowl on : Bool) =>
      let plan := plan40.map fun e => if e.kind = .pressurise then { e with continues := on } else e
      let s := (cycling .running 1 .active).modHead 2 fun y =>
        { y with scan := { y.scan with fault := head }, cycle := some { cycle40 with plan := plan } }
      let t := goOn 2 { s with scanner := { s.scanner with bowl := { s.scanner.bowl with fault := bowl } } }
      ((t.seq 2).state, (t.seq 2).planIndex, (t.seq 2).flags.timeout)
    [at' true false false, at' false true false, at' true false true] =
      [(.forcedSnift, 6, false), (.forcedSnift, 6, false), (.running, 3, false)] := by decide +kernel

/-- R169: both descriptors wait for a marked fill at head 2; A waits at another head, with B unlinked and linked; and B runs. -/
theorem witness_NextEntryBeginsOrHolds_marked :
    let mark := (cycling .running 3 .active).modSeq 2 fun q => { q with entry := some { entry40 with trace := true } }
    let d : Descriptor := { State.reset.trace.a with state := .armed, head := 2, trigger := .markedFill }
    let states := fun a b => let t := (goOn 2 { mark with trace := ⟨a, b⟩ }).trace; (t.a.state, t.b.state)
    [states d d, states { d with head := 1 } d, states { d with head := 1 } { d with link := true }, states d { d with state := .running }] =
      [(.running, .armed), (.armed, .running), (.armed, .armed), (.armed, .running)] := by decide +kernel

/-- No timer; PRESSURISE with ABORT; PURGE and REST in step mode; the last SNIFT; a hold, in step mode and not. -/
theorem witness_EntryTimerExpires :
    let stepping := fun i p => (cycling .running i p).modSeq 2 fun q => { q with stepMode := true }
    let limit := fun s : State => ((after (.phaseTimeLimitExpiry 2) s).seq 2).state
    let hold := fun s : State => ((after (.sniftHoldExpiry 2) s).seq 2).state
    ((node .locked).seq 2).timer = none ∧ (∃ x ∈ plan40, x.kind = .snift) ∧
      [limit (cycling .running 2 .active), limit (stepping 1 .active), limit (stepping 5 .active)] =
        [.forcedSnift, .stepHold, .stepHold] ∧
      [hold (stepping 6 .holding), hold (cycling .forcedSnift 6 .holding)] = [.stepHold, .forcedSnift] := by decide +kernel

/-- Where the cycle goes on: PURGE, REST, and each failure with CONTINUE, outside step mode and in it; and a SNIFT that is not the last. -/
theorem witness_EntryTimerExpires_goesOn :
    let at' := fun (step : Bool) (i : Nat) =>
      let plan := plan40.map fun e => { e with continues := true }
      let s := (if i = 4 then dosing 5 else cycling .running i .active).modHead 2 fun y =>
        { y with cycle := some { cycle40 with plan := plan }, seq := { y.seq with stepMode := step } }
      let t := after (.phaseTimeLimitExpiry 2) s
      ((t.seq 2).state, (t.seq 2).planIndex, (t.seq 2).flags.timeout, (t.chan 2 .main).closeKind)
    [1, 2, 3, 4, 5].map (at' false) =
        [(.running, 2, false, .none), (.running, 3, true, .none), (.running, 4, true, .none), (.running, 5, true, .cut),
          (.running, 6, false, .none)] ∧
      [1, 2, 3, 4, 5].map (at' true) =
        [(.stepHold, 1, false, .none), (.stepHold, 2, true, .none), (.stepHold, 3, true, .none), (.stepHold, 4, true, .cut),
          (.stepHold, 5, false, .none)] ∧
      at' true 6 = (.running, 7, true, .none) := by decide +kernel

theorem witness_FailedSniftEndsTheCycle :
    let s := cycling .forcedSnift 8 .active
    let t := after (.phaseTimeLimitExpiry 2) s
    plan40.length = 8 ∧ (plan40[7]?.map PhaseEntry.kind) = some .snift ∧ (s.seq 2).timer = some 10000000 ∧
      (∀ v ∈ [ValveId.fast, .slow, .add], (s.valve 2 v).output = false) ∧ s.orq = ⟨[], 1, false⟩ ∧
      (t.seq 2).state = .fault ∧ t.orq.records.map Record.kind = [.alarm, .fill] ∧ t.orq.reservations = 0 := by
  decide +kernel

/-- The four judgements of a reading, a request for the bowl, and the round robin after the bowl with no head on. -/
theorem witness_ConversionIsJudgedAndFollowed :
    let s : State := withHead .idle (node .locked)
    let at2 := fun (fault : Bool) (run forced : Nat) =>
      ({ s with scanner := { s.scanner with conversion := ⟨.head 2, false, some 0⟩ } } : State).modHead 2 fun x =>
        { x with scan := ⟨some 5006, none, fault, run⟩, forced := forced }
    let judged := fun raw t => ((after (.conversionComplete raw) t).head 2).scan
    held.scanner.conversion.started = none ∧ s.scanner.conversion.started = some 0 ∧
      [judged 4094#12 (at2 false 1 0), judged 4095#12 (at2 false 0 0), judged 2000#12 (at2 false 1 1), judged 0#12 (at2 true 1 0),
        judged 1#12 (at2 true 0 0), judged 1#12 (at2 true 1 0)] =
        [⟨some 8996, some 4094#12, false, 0⟩, ⟨some 5006, some 4095#12, false, 1⟩, ⟨some 5006, some 0#12, true, 0⟩,
          ⟨some 5006, some 0#12, true, 0⟩, ⟨some 5006, some 1#12, true, 1⟩, ⟨some 0, some 1#12, false, 0⟩] ∧
      (after (.conversionComplete 9#12) (node .locked)).scanner.pointer = .bowl ∧
      (after (.conversionComplete 9#12) { s with scanner := { s.scanner with request := true } }).scanner.request = false := by
  decide +kernel

/-- A conversion of head 2 in flight, the bowl at 3,840 mbar, and head 2's debounce counts and rail run. -/
def converting (cond burst run : Nat) (s : State) : State :=
  { s with scanner := { s.scanner with conversion := ⟨.head 2, false, some 0⟩, bowl := ⟨some 3840, none, false, 0⟩ } }.modHead 2 fun x =>
    { x with scan := ⟨some 3600, none, false, run⟩, seq := { x.seq with condCount := cond, burstCount := burst } }

/-- What a conversion of head 2 leaves: the codes of the records, then the head. -/
structure Converted where
  codes : List Byte
  state : HeadState
  planIndex : Nat
  progress : Progress
  equalised : Bool
  deriving DecidableEq

def converted (raw : BitVec 12) (s : State) : Converted :=
  let t := after (.conversionComplete raw) s
  ⟨t.orq.records.map Record.code, (t.seq 2).state, (t.seq 2).planIndex, (t.seq 2).progress, (t.seq 2).equalised⟩

/-- R95, R141: the PRESSURISE condition at 3,690 mbar, its threshold, on the second and the first conversion, and below it; and in
step mode. -/
theorem witness_ConversionIsJudgedAndFollowed_pressurise :
    let press := cycling .running 2 .active
    let stepping := press.modSeq 2 fun q => { q with stepMode := true }
    (press.head 2).cycle = some cycle40 ∧ (press.seq 2).sniftBegun = false ∧
      (plan40[2 - 1]?).map PhaseEntry.kind = some .pressurise ∧ (plan40[2 - 1]?).map PhaseEntry.continues = some false ∧
      converted 1922#12 (converting 1 0 0 press) = ⟨[], .running, 3, .active, true⟩ ∧
      converted 1922#12 (converting 0 0 0 press) = ⟨[], .running, 2, .active, false⟩ ∧
      converted 1921#12 (converting 1 0 0 press) = ⟨[], .running, 2, .active, false⟩ ∧
      converted 1922#12 (converting 1 0 0 stepping) = ⟨[], .stepHold, 2, .none, true⟩ := by decide +kernel

/-- R99, R102, R95: a SNIFT at 1,500 mbar, its threshold, with a hold, and above it; the last SNIFT; a burst below 2,940 mbar and
none at it; and a new sensor fault in a PRESSURISE entry. -/
theorem witness_ConversionIsJudgedAndFollowed_cycle :
    let snift := cycling .forcedSnift 6 .active
    converted 1024#12 (converting 1 0 0 snift) = ⟨[], .forcedSnift, 6, .holding, false⟩ ∧
      converted 1025#12 (converting 1 0 0 snift) = ⟨[], .forcedSnift, 6, .active, false⟩ ∧
      converted 450#12 (converting 2 0 0 (cycling .forcedSnift 8 .active)) = ⟨[3#8], .idle, 0, .none, false⟩ ∧
      converted 1613#12 (converting 0 1 0 (dosing 0)) = ⟨[7#8], .forcedSnift, 6, .active, false⟩ ∧
      converted 1614#12 (converting 0 1 0 (dosing 0)) = ⟨[], .running, 4, .active, true⟩ ∧
      converted 4095#12 (converting 0 0 1 (cycling .running 2 .active)) = ⟨[5#8], .forcedSnift, 6, .active, false⟩ := by decide +kernel

/-- R89, R102: below the burst threshold with the equalised flag clear, in a FILL and in a REST entry: no burst. -/
theorem witness_ConversionIsJudgedAndFollowed_unequalised :
    let bare := fun s : State => s.modSeq 2 fun q => { q with equalised := false }
    converted 1613#12 (converting 0 1 0 (bare (dosing 0))) = ⟨[], .running, 4, .active, false⟩ ∧
      converted 1613#12 (converting 0 1 0 (cycling .running 5 .active)) = ⟨[], .running, 5, .active, false⟩ := by decide +kernel

/-- R139, R167, R168: a new bowl fault in a PRESSURISE entry; a tick that stores nothing, one that stores, and the last of A, at
which B starts. -/
theorem witness_ConversionIsJudgedAndFollowed_trace :
    let bowl : State := { cycling .running 2 .active with scanner := { State.reset.scanner with bowl := ⟨some 3840, none, false, 1⟩ } }
    let t := after (.conversionComplete 0#12) { bowl with scanner := { bowl.scanner with conversion := ⟨.bowl, false, some 0⟩ } }
    let a : Descriptor := { State.reset.trace.a with state := .running, head := 2, signal := .headPressure, divider := 2, length := 1 }
    let b : Descriptor := { State.reset.trace.b with state := .armed, link := true }
    let tick := fun n => (after (.conversionComplete 1922#12)
      (converting 0 0 0 { withHead .idle (node .locked) with trace := ⟨{ a with ticks := n }, b⟩ })).trace
    (t.seq 2).state = .forcedSnift ∧ t.counter .sensorFaults = 1#16 ∧ t.orq.records.map Record.code = [6#8] ∧
      ((tick 0).a.ticks, (tick 0).a.samples, (tick 0).b.state) = (1, 0, .armed) ∧
      ((tick 1).a.state, (tick 1).a.samples, (tick 1).a.buffer[0], (tick 1).b.state) = (.done, 1, 3692#16, .running) := by decide +kernel

/-- RESET held; a stray pulse; a settling pulse; the pulses before, at and after the cutoff volume of 327,000,000 less one pulse. -/
theorem witness_PulseAddsItsVolume :
    let at' := fun s => ((after (.meterPulse 100 2 .main) s).chan 2 .main).state
    held.resetHeld = true ∧ ((node .locked).chan 2 .main).state = .idle ∧ (settling.chan 2 .main).state = .settling ∧
      ((dosing 0).chan 2 .main).state = .dosing ∧ ((dosing 0).head 2).cycle = some cycle40 ∧
      [at' (dosing 326974961), at' (dosing 326974963), at' settling] = [.dosing, .settling, .settling] := by decide +kernel

/-- The rates at and around each point of the curve. -/
theorem witness_CurveIsInterpolated :
    ratesRise curve40 = true ∧ [0, 1000, 1001, 1777, 4999, 5000, 65535].map (fun q => curveAt q curve40) =
      [1200, 1200, 1200, 812, -799, -800, -800] := by decide +kernel

/-- A settle whose window and limit come at the same time, whose window comes first, and whose limit comes first. -/
theorem witness_SettleEndsAndLearns :
    let at' := fun t => settling.modChan 2 .main fun c => { c with lastPulse := some t }
    let win := fun s : State => ((after (.settleWindowExpiry 2 .main) s).chan 2 .main).endKind
    let lim := fun s : State => ((after (.settleLimitExpiry 2 .main) s).chan 2 .main).endKind
    ((dosing 0).chan 2 .main).state ≠ .settling ∧ (plan40.drop 4).all (fun e => e.kind != .fill) = true ∧
      [win (at' 12600000), win (at' 12600001), lim (at' 12599999), lim (at' 12600000)] = [.window, .none, .none, .limit] := by
  decide +kernel

/-- R125, R128: the FILL entry settles, outside step mode and in it; no entry settles with the channel; and an afterflow at four
times its maximum and one beyond. -/
theorem witness_SettleEndsAndLearns_entry :
    let ends := fun s : State =>
      let t := after (.settleWindowExpiry 2 .main) s
      ((t.seq 2).state, (t.seq 2).planIndex, (t.chan 2 .main).learn, t.orq.records.map Record.code)
    let beyond := fun n => settling.modHead 2 fun y =>
      { y with
        table := { y.table with afterflowMax := ⟨3755625 / 4, 0⟩ }
        chan := { y.chan with main := { y.chan.main with closeVolume := some 0, volume := 4 * (3755625 / 4) + n } } }
    [ends settling, ends (settling.modSeq 2 fun q => { q with stepMode := true }),
      ends (settling.modSeq 2 fun q => { q with progress := .active }), ends (beyond 0), ends (beyond 1)] =
      [(.running, 5, .learned, []), (.stepHold, 4, .learned, []), (.running, 4, .learned, []), (.running, 5, .learned, []),
        (.running, 5, .skipped, [10#8])] := by decide +kernel

/-- RESET held; the same level; another level with the power-on debounce and with none; agreement; disagreement in a stroke and in rest. -/
theorem witness_FeedbackIsDebouncedAndJudged :
    let s := node .locked
    let now0 : State := { s with settings := { s.settings with feedback := 0 } }
    let moved := fun sup out => s.modValve 2 .gas fun x => { x with candidate := ⟨true, 0⟩, feedback := .closed, output := out, supervision := sup }
    let v := fun t => (after (.feedbackDebounceExpiry 2 .gas) t).valve 2 .gas
    held.resetHeld = true ∧ (s.valve 2 .gas).candidate.level = false ∧ 0 < s.settings.feedback ∧
      ((after (.feedbackInputChange 5 2 .gas true) now0).valve 2 .gas).feedback = .opened ∧
      [(v (moved .stroking true)).supervision, (v (moved .stroking false)).supervision, (v (moved .idle false)).supervision] =
        [.idle, .stroking, .faulted] ∧ (moved .idle false).valve 2 .gas ≠ (v (moved .idle false)) := by decide +kernel

/-- A stroke of GAS; of SLOW commanded closed and open in a RUNNING cycle; and none. -/
theorem witness_StrokeExpiryReportsTheFault :
    let stroke := fun v out => (dosing 0).modValve 2 v fun x => { x with output := out, supervision := .stroking, expiry := some 9 }
    let head := fun v out => ((after (.strokeExpiry 2 v) (stroke v out)).seq 2).state
    (((node .locked).valve 2 .gas).supervision ≠ .stroking) ∧ ((stroke .gas true).seq 2).sniftBegun = false ∧
      (stroke .gas true).orq.lost = false ∧ [head .gas true, head .slow false, head .slow true] = [.running, .fault, .forcedSnift] := by
  decide +kernel

/-- R157, R161: the alarm with the lost flag clear and set; a count that wraps at 46 places, at 47 and at 48; and 48 places with no wrap. -/
theorem witness_StrokeExpiryReportsTheFault_record :
    let at' := fun (places : Nat) (lost : Bool) (count : Half) =>
      let s := (node .locked).modValve 2 .gas fun x => { x with output := true, supervision := .stroking, expiry := some 9 }
      let t := after (.strokeExpiry 2 .gas)
        { s with orq := ⟨[], places, lost⟩, counters := (setCounter .valveFaults count s).counters }
      (t.orq.records.map fun r => (r.code, r.flags), t.orq.lost, t.counter .valveFaults, t.counter .recordsLost)
    [at' 47 false 0#16, at' 47 true 0#16, at' 48 false 0#16] =
        [([(2#8, 0#8)], false, 1#16, 0#16), ([(2#8, 16#8)], false, 1#16, 0#16), ([], true, 1#16, 1#16)] ∧
      [at' 46 false 65535#16, at' 47 false 65535#16, at' 48 false 65535#16] =
        [([(2#8, 0#8), (12#8, 0#8)], false, 0#16, 0#16), ([(2#8, 0#8)], true, 0#16, 1#16), ([], true, 0#16, 2#16)] := by
  decide +kernel

theorem witness_ContainerLevelIsDebounced :
    let s := node .locked
    let now0 : State := { s with settings := { s.settings with presence := 0 } }
    held.resetHeld = true ∧ s.resetHeld = false ∧ ((after (.containerPresentChange 5 2 true) now0).head 2).presence = .present ∧
      ((after (.containerPresentChange 5 2 true) s).head 2).presence = .none ∧ (s.head 2).presence ≠ .absent := by decide +kernel

end Sys2Proof.Tests
end

section
/-! Proofs about table memory, the segment map and loading (R56 to R64): how a request on the tables is answered, the judgement
of each request in the manual's words, and the statements O28 to O31 and O33, each assembled from these. -/

namespace Sys2Proof.Machine

/-! ### Arguments of requests -/

/-- A segment number above 31 names no segment. -/
theorem segmentOf_beyond {w : Word} (h : 31 < w.toNat) : segmentOf w = none := by
  rw [segmentOf, dif_neg (by omega)]

theorem segmentOf_number {w : Word} {g : Fin 32} (h : w.toNat = g.val) : segmentOf w = some g := by
  have hlt : w.toNat < 32 := h ▸ g.isLt
  rw [segmentOf, dif_pos hlt]
  exact congrArg some (Fin.ext h)

theorem segKindOf_other {w : Word} (h : w ≠ 1#32 ∧ w ≠ 2#32) : segKindOf w = none := by
  simp [segKindOf, h]

theorem segKindOf_defined {w : Word} (h : w = 1#32 ∨ w = 2#32) :
    segKindOf w = some (if w = 1#32 then .recipe else .curve) := by
  rcases h with rfl | rfl <;> rfl

/-- The record sizes of R54 by the code of the kind. -/
theorem recordSize_kind {p : Prop} [Decidable p] :
    recordSize (if p then .recipe else .curve) = if p then 32 else 16 := by
  split <;> rfl

theorem lowerHalf_eq_ofNat (w : Word) : lowerHalf w = BitVec.ofNat 16 w.toNat := by
  simp [lowerHalf, BitVec.extractLsb']

/-! ### The tests that a request on the tables makes -/

/-- R56: within table memory, two placements share a word exactly when some word number lies in both. -/
theorem sharesWord_iff {base length : Nat} {s : State} (hend : base + length ≤ 16384) :
    sharesWord base length s = true ↔
      ∃ k : Fin 32, (s.segment k).state ≠ .undefined ∧
        ∃ w : Fin 16384, (base ≤ w.val ∧ w.val < base + length) ∧
          (s.segment k).base ≤ w.val ∧ w.val < (s.segment k).base + (s.segment k).length := by
  simp only [sharesWord, List.any_eq_true, Bool.and_eq_true, decide_eq_true_eq, Vector.mem_toList_iff, Vector.mem_iff_getElem]
  constructor
  · rintro ⟨_, ⟨i, hi, rfl⟩, hdef, hlt⟩
    refine ⟨⟨i, hi⟩, hdef, ⟨max base s.tables.segments[i].base, by omega⟩, ?_⟩
    simp only [State.segment, Fin.getElem_fin]
    omega
  · rintro ⟨k, hdef, w, hnew, hold⟩
    refine ⟨s.segment k, ⟨k.val, k.isLt, rfl⟩, hdef, ?_⟩
    omega

/-- R85: the read set that a delete or an open respects. -/
theorem inReadSet_iff {g : Fin 32} {s : State} : inReadSet g s = true ↔ ∃ r ∈ s.resolver.current, g ∈ r.readSet := by
  cases h : s.resolver.current <;> simp [inReadSet, h]

theorem otherOpen_iff {g : Fin 32} {s : State} :
    otherOpen g s = true ↔ s.tables.openSegment ≠ none ∧ s.tables.openSegment ≠ some g := by
  cases h : s.tables.openSegment <;> simp [otherOpen, h]

theorem checksOther_iff {g : Fin 32} {s : State} : checksOther g s = true ↔ ∃ c ∈ s.tables.check, c.segment ≠ g := by
  cases h : s.tables.check <;> simp [checksOther, h]

/-! ### Requests by the answer of their rule -/

/-- What a judged request leaves when its rule gives the answer and the state `r`. -/
def leftBy (m : MgmtSlot) (r : Answer × State) : State := { r.2 with mgmtOut := some (replied m r.1) }

theorem leftBy_ite {m : MgmtSlot} {p : Prop} [Decidable p] (a b : Answer × State) :
    leftBy m (if p then a else b) = if p then leftBy m a else leftBy m b :=
  apply_ite (leftBy m) p a b

/-- A request that the node judges leaves what its own rule makes of the state at the request's time. -/
theorem request_judged {q : Envelope} {m : MgmtSlot} {s : State} {r : Answer × State} (ht : s.takes q) (hm : m.state = 1#2)
    (hd : m.dest = q.dest) (hk : definedRequestKind m.kind = true) (hb : q.dest = 63#6 → broadcastKind m.kind = true)
    (hr : ownRule m (s.advance q.time) = r) : request q m s = .next (leftBy m r) := by
  rw [request_taken ht hm hd hk hb, hr]
  rfl

/-! ### Each request judged in the manual's order of tests -/

theorem defineSegment_refusedRange {m : MgmtSlot} {s : State}
    (h : 31 < m.data.d0.toNat ∨ (m.data.d3 ≠ 1#32 ∧ m.data.d3 ≠ 2#32)) :
    defineSegment m s = (Answer.refuse .refusedRange, s) := by
  rcases h with hseg | hkind
  · simp only [defineSegment, segmentOf_beyond hseg]
  · cases hg : segmentOf m.data.d0 <;> simp only [defineSegment, hg, segKindOf_other hkind]

/-- R56 for a defined number and kind; the placement has been found within table memory before its words are compared. -/
theorem defineSegment_judged {m : MgmtSlot} {g : Fin 32} {s : State} (hg : m.data.d0.toNat = g.val)
    (hk : m.data.d3 = 1#32 ∨ m.data.d3 = 2#32) :
    defineSegment m s =
      let b := m.data.d1.toNat
      let n := m.data.d2.toNat
      if (s.segment g).state ≠ .undefined then (Answer.refuse .refusedState, s)
      else if n = 0 ∨ n % (if m.data.d3 = 1#32 then 32 else 16) ≠ 0 ∨ 16384 < b + n then (Answer.refuse .refusedRange, s)
      else if ∃ k : Fin 32, (s.segment k).state ≠ .undefined ∧
          ∃ w : Fin 16384, (b ≤ w.val ∧ w.val < b + n) ∧
            (s.segment k).base ≤ w.val ∧ w.val < (s.segment k).base + (s.segment k).length then
        (Answer.refuse .refusedRange, s)
      else
        (Answer.done,
          s.modSegment g fun _ => ⟨.empty, some (if m.data.d3 = 1#32 then .recipe else .curve), b, n, 0#16, 0#16⟩) := by
  simp only [defineSegment, segmentOf_number hg, segKindOf_defined hk, recordSize_kind, Config.tableWords]
  refine if_congr Iff.rfl rfl (ite_congr rfl (fun _ => rfl) fun hfits => ?_)
  exact if_congr (sharesWord_iff (by omega)) rfl rfl

theorem deleteSegment_beyond {m : MgmtSlot} {s : State} (h : 31 < m.data.d0.toNat) :
    deleteSegment m s = (Answer.refuse .refusedRange, s) := by
  simp only [deleteSegment, segmentOf_beyond h]

/-- R57 for a segment of the map. -/
theorem deleteSegment_judged {m : MgmtSlot} {g : Fin 32} {s : State} (hg : m.data.d0.toNat = g.val) :
    deleteSegment m s =
      if (s.segment g).state = .undefined then (Answer.refuse .refusedState, s)
      else if (s.segment g).state = .loading ∨ (s.segment g).state = .checking then (Answer.refuse .busy, s)
      else if ∃ r ∈ s.resolver.current, g ∈ r.readSet then (Answer.refuse .busy, s)
      else (Answer.done, s.modSegment g fun _ => Segment.none) := by
  simp only [deleteSegment, segmentOf_number hg, inReadSet_iff]

theorem openLoad_beyond {m : MgmtSlot} {s : State} (h : 31 < m.data.d0.toNat) :
    openLoad m s = (Answer.refuse .refusedRange, s) := by
  simp only [openLoad, segmentOf_beyond h]

/-- R59 for a segment of the map. -/
theorem openLoad_judged {m : MgmtSlot} {g : Fin 32} {s : State} (hg : m.data.d0.toNat = g.val) :
    openLoad m s =
      if (s.segment g).state = .undefined then (Answer.refuse .refusedState, s)
      else if s.tables.openSegment ≠ none ∧ s.tables.openSegment ≠ some g then (Answer.refuse .refusedState, s)
      else if (s.segment g).state = .checking then (Answer.refuse .busy, s)
      else if ∃ r ∈ s.resolver.current, g ∈ r.readSet then (Answer.refuse .busy, s)
      else
        (Answer.done,
          (s.modSegment g fun x => { x with state := .loading, expected := 0#16, computed := 0#16 }).modTables fun t =>
            { t with openSegment := some g, pointer := 0 }) := by
  simp only [openLoad, segmentOf_number hg, otherOpen_iff, inReadSet_iff]

theorem loadWords_refusedRange {m : MgmtSlot} {s : State} (h : m.count.toNat = 0 ∨ 6 < m.count.toNat) :
    loadWords m s = (Answer.refuse .refusedRange, s) := by
  simp only [loadWords, if_pos h]

theorem loadWords_closed {m : MgmtSlot} {s : State} (hlo : 1 ≤ m.count.toNat) (hhi : m.count.toNat ≤ 6)
    (h : s.tables.openSegment = none) : loadWords m s = (Answer.refuse .refusedState, s) := by
  simp only [loadWords, h]
  rw [if_neg (by omega)]

/-- R60: tests 3 and 4, with a count in range and a segment open. -/
theorem loadWords_judged {m : MgmtSlot} {g : Fin 32} {s : State} (hg : s.tables.openSegment = some g)
    (hlo : 1 ≤ m.count.toNat) (hhi : m.count.toNat ≤ 6) :
    loadWords m s =
      if m.param.toNat ≠ s.tables.pointer then (Answer.sequence s, s)
      else if (s.segment g).length < s.tables.pointer + m.count.toNat then (Answer.refuse .refusedRange, s)
      else
        (Answer.done,
          s.modTables fun t =>
            { t with
              words :=
                Memory.writeWords t.words ((s.segment g).base + t.pointer) ((dataList m.data).take m.count.toNat)
              pointer := t.pointer + m.count.toNat }) := by
  simp only [loadWords, hg]
  rw [if_neg (by omega)]

theorem closeLoad_closed {m : MgmtSlot} {s : State} (h : s.tables.openSegment = none) :
    closeLoad m s = (Answer.refuse .refusedState, s) := by
  simp only [closeLoad, h]

/-- R61 with a segment open. -/
theorem closeLoad_judged {m : MgmtSlot} {g : Fin 32} {s : State} (hg : s.tables.openSegment = some g) :
    closeLoad m s =
      if s.tables.pointer ≠ (s.segment g).length then (Answer.sequence s, s)
      else if ∃ c ∈ s.tables.check, c.segment ≠ g then (Answer.refuse .busy, s)
      else
        (⟨.accepted, [], none⟩,
          (s.modSegment g fun x => { x with state := .checking, expected := BitVec.ofNat 16 m.data.d0.toNat }).modTables
            fun t => { t with openSegment := none, pointer := 0, check := some ⟨g, 0⟩ }) := by
  simp only [closeLoad, hg, checksOther_iff, lowerHalf_eq_ofNat]

theorem segmentReport_beyond {m : MgmtSlot} {s : State} (h : 31 < m.data.d0.toNat) :
    segmentReport m s = (Answer.refuse .refusedRange, s) := by
  simp only [segmentReport, segmentOf_beyond h]

/-- R63 for a segment of the map. -/
theorem segmentReport_number {m : MgmtSlot} {g : Fin 32} {s : State} (hg : m.data.d0.toNat = g.val) :
    segmentReport m s =
      let x := s.segment g
      (Answer.data
          (if x.state = .undefined then List.replicate 6 (word 0)
           else
            [word (segStateCode x.state), word (segKindCode x.kind), word x.base, word x.length,
              word (if s.tables.openSegment = some g then s.tables.pointer else 0), wordOfHalves x.expected x.computed]),
        s) := by
  simp only [segmentReport, segmentOf_number hg]

theorem readTable_refusedRange {m : MgmtSlot} {s : State}
    (h : 31 < m.data.d0.toNat ∨ m.data.d2.toNat = 0 ∨ 6 < m.data.d2.toNat) :
    readTable m s = (Answer.refuse .refusedRange, s) := by
  rcases h with hseg | hcount
  · simp only [readTable, segmentOf_beyond hseg]
  · cases hg : segmentOf m.data.d0 <;> simp only [readTable, hg, if_pos hcount]

/-- R64 for a segment of the map and a count in range. -/
theorem readTable_judged {m : MgmtSlot} {g : Fin 32} {s : State} (hg : m.data.d0.toNat = g.val)
    (hlo : 1 ≤ m.data.d2.toNat) (hhi : m.data.d2.toNat ≤ 6) :
    readTable m s =
      if (s.segment g).state = .undefined then (Answer.refuse .refusedState, s)
      else if (s.segment g).length < m.data.d1.toNat + m.data.d2.toNat then (Answer.refuse .refusedRange, s)
      else
        (Answer.data (Memory.readWords s.tables.words ((s.segment g).base + m.data.d1.toNat) m.data.d2.toNat), s) := by
  simp only [readTable, segmentOf_number hg]
  rw [if_neg (by omega)]

/-! ### The statements -/

/-- Settles O28: R56 through `defineSegment_judged`, whose last test is that of a shared word. -/
theorem segmentDefineIsJudgedInOrder : Obligations.SegmentDefineIsJudgedInOrder := by
  intro q segment base length kind s ht i m b n
  have exec_i {r} (hr : defineSegment m (s.advance q.time) = r) : exec i s = .next (leftBy m r) :=
    request_judged ht rfl rfl rfl (fun _ => rfl) hr
  refine ⟨fun hrange => ?_, fun g hg hk => ?_⟩
  · exact exec_i (defineSegment_refusedRange hrange)
  · rw [exec_i (defineSegment_judged hg hk)]
    simp only [leftBy_ite]
    rfl

/-- Settles O29: R57 and R59 through `deleteSegment_judged` and `openLoad_judged`. -/
theorem segmentDeleteAndLoadOpenAreJudged : Obligations.SegmentDeleteAndLoadOpenAreJudged := by
  intro q segment s ht i j m n
  have exec_i {r} (hr : deleteSegment m (s.advance q.time) = r) : exec i s = .next (leftBy m r) :=
    request_judged ht rfl rfl rfl (fun _ => rfl) hr
  have exec_j {r} (hr : openLoad n (s.advance q.time) = r) : exec j s = .next (leftBy n r) :=
    request_judged ht rfl rfl rfl (fun _ => rfl) hr
  refine ⟨fun hseg => ⟨?_, ?_⟩, fun g hg => ⟨?_, ?_⟩⟩
  · exact exec_i (deleteSegment_beyond hseg)
  · exact exec_j (openLoad_beyond hseg)
  · rw [exec_i (deleteSegment_judged hg)]
    simp only [leftBy_ite]
    rfl
  · rw [exec_j (openLoad_judged hg)]
    simp only [leftBy_ite]
    rfl

/-- Settles O30: R60 through `loadWords_judged`; what the words then read is `Memory.read_writeWords` for the words named and
`Memory.read_writeWords_other` for every other. -/
theorem loadDataWritesItsWords : Obligations.LoadDataWritesItsWords := by
  intro q pointer count words s ht hwf i m n p
  have exec_i {r} (hr : loadWords m (s.advance q.time) = r) : exec i s = .next (leftBy m r) :=
    request_judged ht rfl rfl rfl (fun _ => rfl) hr
  refine ⟨fun hn => ?_, fun hlo hhi hopen => ?_, fun g hopen hlo hhi => ?_⟩
  · exact exec_i (loadWords_refusedRange hn)
  · exact exec_i (loadWords_closed hlo hhi hopen)
  have judge : exec i s = .next
      (if pointer.toNat ≠ p then s.answered q m (Answer.sequence s)
       else if (s.segment g).length < p + n then s.answered q m (Answer.refuse .refusedRange)
       else
         (s.modTables fun t =>
           { t with
             words := Memory.writeWords s.tables.words ((s.segment g).base + p) ((dataList words).take n)
             pointer := p + n }).answered q m Answer.done) := by
    rw [exec_i (loadWords_judged hopen hlo hhi)]
    simp only [leftBy_ite]
    rfl
  refine ⟨fun hp => ?_, fun hp hl => ?_, fun hp hl hend => ?_⟩
  · rw [judge, if_pos hp]
    rfl
  · rw [judge, if_neg (not_not_intro hp), if_pos hl]
  · have hlen : ((dataList words).take n).length = n := List.length_take_of_le hhi
    refine ⟨Memory.writeWords s.tables.words ((s.segment g).base + p) ((dataList words).take n), ?_, fun k hk => ?_, fun a ha => ?_⟩
    · rw [judge, if_neg (not_not_intro hp), if_neg (Nat.not_lt.mpr hl)]
    · have hfits : (s.segment g).base + p + ((dataList words).take n).length ≤ Config.tableWords := by
        rw [hlen, Config.tableWords]
        omega
      rw [Memory.read_writeWords hwf hfits (by rwa [hlen]), List.getElem?_take_of_lt hk]
    · exact Memory.read_writeWords_other hwf (by rwa [hlen])

/-- Settles O31: R61 through `closeLoad_judged`. -/
theorem loadCloseStartsTheCheck : Obligations.LoadCloseStartsTheCheck := by
  intro q check s ht i m
  have exec_i {r} (hr : closeLoad m (s.advance q.time) = r) : exec i s = .next (leftBy m r) :=
    request_judged ht rfl rfl rfl (fun _ => rfl) hr
  refine ⟨fun hopen => ?_, fun g hopen => ?_⟩
  · exact exec_i (closeLoad_closed hopen)
  · rw [exec_i (closeLoad_judged hopen)]
    simp only [leftBy_ite]
    rfl

/-- Settles O33: R63 by the report itself, R64 through `readTable_judged`. -/
theorem segmentsAreReadBack : Obligations.SegmentsAreReadBack := by
  intro q segment index count s ht i j m n
  have own : ∀ k : BitVec 5, q.dest = 63#6 → broadcastKind k = true := fun k h => absurd h ht.2.2.ne_broadcast
  have exec_i {r} (hr : segmentReport m (s.advance q.time) = r) : exec i s = .next (leftBy m r) :=
    request_judged ht.takes rfl rfl rfl (own _) hr
  have exec_j {r} (hr : readTable n (s.advance q.time) = r) : exec j s = .next (leftBy n r) :=
    request_judged ht.takes rfl rfl rfl (own _) hr
  refine ⟨fun hseg => ?_, fun hrange => ?_, fun g hg => ⟨?_, fun hlo hhi => ?_⟩⟩
  · exact exec_i (segmentReport_beyond hseg)
  · exact exec_j (readTable_refusedRange hrange)
  · exact exec_i (segmentReport_number hg)
  · rw [exec_j (readTable_judged hg hlo hhi)]
    simp only [leftBy_ite]
    rfl

end Sys2Proof.Machine
end

section
/-! Proofs about TRACE ARM (R166): the values that its argument fields decode to, test 1 in the manual's words, tests 2 and 3
with the descriptor that is written, and the statement O43, assembled from these. -/

namespace Sys2Proof.Machine

/-! ### The argument fields of TRACE ARM -/

theorem upperHalf_wordOfHalves (hi lo : Half) : upperHalf (wordOfHalves hi lo) = hi :=
  BitVec.extractLsb'_append_eq_left

theorem lowerHalf_wordOfHalves (hi lo : Half) : lowerHalf (wordOfHalves hi lo) = lo :=
  BitVec.extractLsb'_append_eq_right

theorem headOf_eq_some_iff {w : Word} {h : HeadId} : headOf w = some h ↔ w.toNat = h.val := by
  unfold headOf
  split
  · simp [Fin.ext_iff]
  · exact iff_of_false nofun (by omega)

theorem optionOf_eq_some_iff {w : Word} {b : Bool} : optionOf w = some b ↔ w.toNat ≤ 1 ∧ b = decide (w = 1#32) := by
  unfold optionOf
  split
  · next h0 => simp [h0, eq_comm]
  · next h0 =>
    split
    · next h1 => simp [h1, eq_comm]
    · next h1 =>
      have : ¬w.toNat ≤ 1 := by bv_omega
      simp [this]

theorem optionOf_setWidth_eq_some_iff {c : Half} {b : Bool} :
    optionOf (c.setWidth 32) = some b ↔ c.toNat ≤ 1 ∧ b = decide (c = 1#16) := by
  have hone : c.setWidth 32 = 1#32 ↔ c = 1#16 := by bv_omega
  simp only [optionOf_eq_some_iff, hone, BitVec.toNat_setWidth_of_le (show 16 ≤ 32 by decide)]

theorem signalOf_eq_getElem? (w : Word) :
    signalOf w = [Signal.mainRate, .addRate, .headPressure, .bowlPressure][w.toNat]? := by
  unfold signalOf
  split
  · next h => subst h; rfl
  split
  · next h => subst h; rfl
  split
  · next h => subst h; rfl
  split
  · next h => subst h; rfl
  · have : 4 ≤ w.toNat := by bv_omega
    simp [this]

theorem triggerOf_eq_some_iff {c : Half} {t : Trigger} :
    triggerOf c = some t ↔ c.toNat ≤ 1 ∧ t = if c = 0#16 then .immediate else .markedFill := by
  unfold triggerOf
  split
  · next h0 => simp [h0, eq_comm]
  · next h0 =>
    split
    · next h1 => simp [h1, eq_comm]
    · next h1 =>
      have : ¬c.toNat ≤ 1 := by bv_omega
      simp [this]

/-! ### TRACE ARM judged in the manual's order of tests -/

/-- R166: the descriptor runs at once when its trigger is IMMEDIATE and no link flag is set, and waits otherwise. -/
theorem armedState_of_codes {link trigger : Half} (hlink : link.toNat ≤ 1) :
    armedState (if trigger = 0#16 then .immediate else .markedFill) (decide (link = 1#16)) =
      if trigger = 0#16 ∧ link = 0#16 then .running else .armed := by
  have hzero : link ≠ 1#16 ↔ link = 0#16 := by bv_omega
  refine if_congr ?_ rfl rfl
  simp [← hzero]

/-- An arm would run exactly when the condition of RUNNING holds, so test 3 of R166 asks for that condition. -/
theorem running_of_ite {p : Prop} [Decidable p] : (if p then TraceState.running else .armed) = .running ↔ p := by
  split <;> simp [*]

/-- A field of TRACE ARM is out of its range, or the link flag is set on A (test 1 of R166). -/
def armOutOfRange (descriptor head signal divider length : Word) (link trigger : Half) : Prop :=
  1 < descriptor.toNat ∨ 7 < head.toNat ∨ 3 < signal.toNat ∨ 1 < trigger.toNat ∨ divider.toNat = 0 ∨
    64 < divider.toNat ∨ length.toNat = 0 ∨ 512 < length.toNat ∨ 1 < link.toNat ∨ (link = 1#16 ∧ descriptor = 0#32)

section
variable {m : MgmtSlot} {s : State} {descriptor head signal divider length : Word} {link trigger : Half}

/-- Once the five coded fields have decoded, what is left of test 1 is divider, length and a link flag on A. -/
theorem armGuard_iff (hdesc : descriptor.toNat ≤ 1) (hhead : head.toNat ≤ 7) (hsignal : signal.toNat ≤ 3)
    (htrigger : trigger.toNat ≤ 1) (hlink : link.toNat ≤ 1) :
    (!inRange 1 64 divider.toNat || !inRange 1 512 length.toNat ||
        (decide (link = 1#16) && !decide (descriptor = 1#32))) = true ↔
      armOutOfRange descriptor head signal divider length link trigger := by
  have hA : descriptor ≠ 1#32 ↔ descriptor = 0#32 := by bv_omega
  simp only [armOutOfRange, Nat.not_lt.mpr, hdesc, hhead, hsignal, htrigger, hlink, false_or, ← hA, inRange, Bool.or_eq_true,
    Bool.and_eq_true, Bool.not_eq_true', Bool.and_eq_false_iff, decide_eq_false_iff_not, decide_eq_true_eq, or_assoc,
    Nat.not_le, Nat.lt_one_iff, ne_eq]

theorem traceArmRequest_refusedRange
    (hm : m.data = ⟨descriptor, head, signal, divider, length, wordOfHalves link trigger⟩)
    (hbad : armOutOfRange descriptor head signal divider length link trigger) :
    traceArmRequest m s = (Answer.refuse .refusedRange, s) := by
  simp only [traceArmRequest, hm, upperHalf_wordOfHalves, lowerHalf_wordOfHalves]
  split
  · next isB h g t l hB hH hG hT hL =>
    obtain ⟨hdesc, rfl⟩ := optionOf_eq_some_iff.mp hB
    obtain ⟨hlink, rfl⟩ := optionOf_setWidth_eq_some_iff.mp hL
    have hhead : head.toNat ≤ 7 := headOf_eq_some_iff.mp hH ▸ Nat.le_of_lt_succ h.isLt
    have hsignal : signal.toNat ≤ 3 :=
      Nat.le_of_lt_succ (List.getElem?_eq_some_iff.mp (signalOf_eq_getElem? signal ▸ hG)).1
    have htrigger : trigger.toNat ≤ 1 := (triggerOf_eq_some_iff.mp hT).1
    exact if_pos ((armGuard_iff hdesc hhead hsignal htrigger hlink).mpr hbad)
  · rfl

/-- R166: tests 2 and 3 with every field in its range, and the descriptor that is written. -/
theorem traceArmRequest_judged
    (hm : m.data = ⟨descriptor, head, signal, divider, length, wordOfHalves link trigger⟩)
    (hok : ¬armOutOfRange descriptor head signal divider length link trigger) {h : HeadId} {g : Signal}
    (hh : head.toNat = h.val)
    (hg : [Signal.mainRate, .addRate, .headPressure, .bowlPressure][signal.toNat]? = some g) :
    traceArmRequest m s =
      let isB := decide (descriptor = 1#32)
      let runs := trigger = 0#16 ∧ link = 0#16
      if (s.trace.get isB).state = .running then (Answer.refuse .busy, s)
      else if runs ∧ (s.trace.get (!isB)).state = .running then (Answer.refuse .busy, s)
      else
        (Answer.done,
          s.setTrace isB
            { s.trace.get isB with
              state := if runs then .running else .armed
              head := h
              signal := g
              divider := divider.toNat
              length := length.toNat
              trigger := if trigger = 0#16 then .immediate else .markedFill
              link := decide (link = 1#16)
              ticks := 0
              samples := 0 }) := by
  have hranges := hok
  simp only [armOutOfRange, not_or, Nat.not_lt] at hranges
  obtain ⟨hdesc, hhead, hsignal, htrigger, -, -, -, -, hlink, -⟩ := hranges
  simp only [traceArmRequest, hm, upperHalf_wordOfHalves, lowerHalf_wordOfHalves,
    optionOf_eq_some_iff.mpr ⟨hdesc, rfl⟩, headOf_eq_some_iff.mpr hh, signalOf_eq_getElem?, hg,
    triggerOf_eq_some_iff.mpr ⟨htrigger, rfl⟩, optionOf_setWidth_eq_some_iff.mpr ⟨hlink, rfl⟩]
  rw [if_neg (mt (armGuard_iff hdesc hhead hsignal htrigger hlink).mp hok)]
  simp only [armDescriptor, Descriptor.arm, armedState_of_codes hlink, running_of_ite]

end

/-- Settles O43: R166 through `traceArmRequest_refusedRange` and `traceArmRequest_judged`. -/
theorem traceArmWritesTheDescriptor : Obligations.TraceArmWritesTheDescriptor := by
  intro q descriptor head signal divider length link trigger s ht i m bad
  have exec_i {r} (hr : traceArmRequest m (s.advance q.time) = r) : exec i s = .next (leftBy m r) :=
    request_judged ht rfl rfl rfl (fun _ => rfl) hr
  refine ⟨fun hbad => exec_i (traceArmRequest_refusedRange rfl hbad), fun hok h g hh hg => ?_⟩
  rw [exec_i (traceArmRequest_judged rfl hok hh hg)]
  simp only [leftBy_ite]
  rfl

end Sys2Proof.Machine
end

section
/-! Proofs about every command: what the work of one event leaves of the node (`EventWork`), what a request leaves of it
(`RequestWork`), that every command answers a next state that keeps the safety properties, the commands that wait and the time
(`exec_goesOn`), and the statements O1 to O7, assembled from these. -/

namespace Sys2Proof.Machine

/-! ### The work of one event -/

/-- What the queue, the heads and the records do at one event leaves every other block, every item of a head but those of its
cycle, the elapsed counts, the count of missing pitches and the records that stand. -/
structure EventWork (s t : State) : Prop where
  node : t =
    { s with
      queue := t.queue, resolver := t.resolver, heads := t.heads, orq := t.orq, counters := t.counters, totals := t.totals
      trace := t.trace }
  own : ∀ h, t.head h =
    { s.head h with
      seq := (t.head h).seq
      chan := (t.head h).chan
      valves := (t.head h).valves
      table := { (s.head h).table with learned := (t.head h).table.learned }
      lastAdditive := (t.head h).lastAdditive }
  elapsed : ∀ h, (t.seq h).elapsed = (s.seq h).elapsed
  missing : t.counter .missingPitches = s.counter .missingPitches
  records : ∃ l, t.orq.records = s.orq.records ++ l

namespace EventWork

variable {s t u : State}

theorem refl (s : State) : EventWork s s := ⟨rfl, fun _ => rfl, fun _ => rfl, rfl, ⟨[], (List.append_nil _).symm⟩⟩

theorem trans (a : EventWork s t) (b : EventWork t u) : EventWork s u := by
  refine ⟨?_, fun h => ?_, fun h => (b.elapsed h).trans (a.elapsed h), b.missing.trans a.missing, ?_⟩
  · have h1 := b.node
    have h2 := a.node
    rw [h2] at h1
    exact h1
  · have h1 := b.own h
    rw [a.own h] at h1
    exact h1
  · obtain ⟨l, hl⟩ := a.records
    obtain ⟨m, hm⟩ := b.records
    exact ⟨l ++ m, by rw [hm, hl, List.append_assoc]⟩

/-- The last change first, as `HeadWork.after`. -/
theorem after (b : EventWork t u) (a : EventWork s t) : EventWork s u := a.trans b

theorem ite {p : Prop} [Decidable p] {a b : State} (ha : p → EventWork s a) (hb : ¬p → EventWork s b) :
    EventWork s (if p then a else b) := by
  split
  · exact ha ‹_›
  · exact hb ‹_›

theorem foldl {α : Type} (f : State → α → State) (hf : ∀ s x, EventWork s (f s x)) (l : List α) (s : State) :
    EventWork s (l.foldl f s) := by
  induction l generalizing s with
  | nil => exact refl s
  | cons x l ih => exact (hf s x).trans (ih _)

theorem forHeads (f : HeadId → State → State) (hf : ∀ h s, EventWork s (f h s)) (s : State) : EventWork s (forHeads f s) :=
  foldl _ (fun s h => hf h s) _ s

/-- A change of the queue, the Resolver and the records that adds none, which leaves the heads. -/
theorem ofNode (ho : t = { s with queue := t.queue, resolver := t.resolver, orq := t.orq, counters := t.counters, totals := t.totals })
    (hm : t.counter .missingPitches = s.counter .missingPitches) (hr : t.orq.records = s.orq.records) : EventWork s t := by
  have hh : t.heads = s.heads := by rw [ho]
  have ht : t.trace = s.trace := by rw [ho]
  have hd : ∀ k, t.head k = s.head k := fun k => by simp only [State.head, hh]
  refine ⟨?_, fun h => by rw [hd], fun h => by rw [State.seq, hd]; rfl, hm, ⟨[], by rw [hr, List.append_nil]⟩⟩
  rw [hh, ht]
  exact ho

/-- What the work of one event leaves of the parts that it never changes. -/
theorem now (w : EventWork s t) : t.now = s.now := by rw [w.node]

theorem pending (w : EventWork s t) : t.pending = s.pending := by rw [w.node]

theorem ring (w : EventWork s t) : t.ring = s.ring := by rw [w.node]

theorem pitch (w : EventWork s t) : t.pitch = s.pitch := by rw [w.node]

theorem settings (w : EventWork s t) : t.settings = s.settings := by rw [w.node]

theorem scanner (w : EventWork s t) : t.scanner = s.scanner := by rw [w.node]

theorem position (w : EventWork s t) (h : HeadId) : (t.head h).table.position = (s.head h).table.position := by rw [w.own]

theorem presence (w : EventWork s t) (h : HeadId) : (t.head h).presence = (s.head h).presence := by rw [w.own]

theorem cycle (w : EventWork s t) (h : HeadId) : (t.head h).cycle = (s.head h).cycle := by rw [w.own]

end EventWork

variable (s : State)

/-- One head's work is work of an event. -/
theorem HeadWork.event {h : HeadId} {s t : State} (w : HeadWork h s t) : EventWork s t := by
  have hk : ∀ k, k ≠ h → t.head k = s.head k := w.others
  refine ⟨?_, fun k => ?_, fun k => ?_, w.counters _ (by decide) (by decide), w.records⟩
  · have hn := w.node
    have hq : t.queue = s.queue := w.queue
    have hr : t.resolver = s.resolver := w.resolver
    rw [hq, hr]
    exact hn
  · by_cases e : k = h
    · rw [e]; exact w.own
    · rw [hk k e]
  · by_cases e : k = h
    · rw [e]; exact w.elapsed
    · rw [State.seq, hk k e]; rfl

theorem event_loseRecord : EventWork s (loseRecord s) := (work_loseRecord s 0).event

theorem event_enterUnreserved (r : Record) : EventWork s (enterUnreserved r s) := (work_enterUnreserved s 0 r).event

theorem event_raiseAlarm (c : AlarmCode) (head : Byte) (a b : Nat) : EventWork s (raiseAlarm c head a b s) :=
  event_enterUnreserved s _

theorem event_countUnserved (n : Nat) : EventWork s (countUnserved n s) := (work_modTotals s 0 n _).event

theorem event_countNotServed (n : Nat) (r : NotServedReason) : EventWork s (countNotServed n r s) :=
  EventWork.ite (fun _ => EventWork.refl s) fun _ => event_countUnserved s n

theorem event_modSeq (h : HeadId) (f : Sequencer → Sequencer) (he : ∀ q, (f q).elapsed = q.elapsed) :
    EventWork s (s.modSeq h f) :=
  (work_modSeq s h f he).event

theorem event_setCounter (c : CounterId) (hc : c ≠ .missingPitches) (v : Half) : EventWork s (setCounter c v s) :=
  EventWork.ofNode rfl (setCounter_counter_ne s c _ v hc.symm) rfl

theorem event_countEvent (c : CounterId) (hc : c ≠ .missingPitches) : EventWork s (countEvent c s) :=
  EventWork.ite (fun _ => (event_setCounter s c hc 0#16).trans (event_raiseAlarm _ _ _ _ _)) fun _ => event_setCounter s c hc _

/-! ### The Assignment Queue (R37 to R49) -/

theorem event_setQueue (q : AssignQueue) : EventWork s { s with queue := q } := EventWork.ofNode rfl rfl rfl

theorem event_rearm : EventWork s (rearm s) := EventWork.ite (fun _ => event_setQueue s _) fun _ => EventWork.refl s

theorem event_discardRecord (head : Byte) (r : NotServedReason) (e : QueueEntry) : EventWork s (discardRecord head r e s) :=
  EventWork.ite (fun _ => (event_countNotServed s _ _).trans (event_enterUnreserved _ _)) fun _ => EventWork.refl s

theorem event_discardRecords (r : NotServedReason) (es : List QueueEntry) : EventWork s (discardRecords r es s) :=
  EventWork.foldl _ (fun s e => event_discardRecord s _ _ e) _ _

theorem event_clearQueue (r : NotServedReason) : EventWork s (clearQueue r s) :=
  (event_setQueue s _).trans (event_discardRecords _ _ _)

/-- A discarded entry leaves the queue to those that removed it. -/
theorem discardRecord_queue (head : Byte) (r : NotServedReason) (e : QueueEntry) :
    (discardRecord head r e s).queue = s.queue := by
  unfold discardRecord
  split
  · rw [(work_enterUnreserved _ 0 _).queue]
    exact (HeadWork.ite (fun _ => HeadWork.refl 0 s) fun _ => work_modTotals s 0 _ _).queue
  · rfl

theorem discardRecords_queue (r : NotServedReason) (es : List QueueEntry) : (discardRecords r es s).queue = s.queue := by
  unfold discardRecords
  induction es generalizing s with
  | nil => rfl
  | cons e es ih => exact (ih _).trans (discardRecord_queue s nodeByte r e)

/-- Clearing leaves the queue empty and its arming armed (R48, R49). -/
theorem clearQueue_queue (r : NotServedReason) : (clearQueue r s).queue = ⟨[], true⟩ := discardRecords_queue _ r _

theorem event_discardStale (c : Half) : EventWork s (discardStale c s) := by
  unfold discardStale
  refine EventWork.ite (fun _ => EventWork.refl s) fun _ => ?_
  refine EventWork.after (EventWork.foldl _ (fun s e => ?_) _ _) ((event_setQueue s _).trans (event_rearm _))
  exact (event_countEvent s _ (by decide)).trans (event_discardRecord _ _ _ _)

theorem event_handOver (c : Half) (p : Nat) (k : EventKind) : EventWork s (handOver c p k s).2 := by
  have taken : ∀ rest, EventWork s (rearm { s with queue := { s.queue with entries := rest } }) := fun _ =>
    (event_setQueue s _).trans (event_rearm _)
  unfold handOver
  split
  · dsimp only
    split
    · split
      · exact (taken _).trans (event_discardRecord _ _ _ _)
      · split
        · exact (taken _).trans (event_discardRecord _ _ _ _)
        · exact taken _
    · exact EventWork.refl s
  · exact EventWork.refl s

theorem event_appendEntry (e : QueueEntry) : EventWork s (appendEntry e s) := by
  unfold appendEntry
  refine EventWork.ite (fun _ => ?_) fun _ => event_setQueue s _
  exact (event_setQueue s _).trans (event_raiseAlarm _ _ _ _ _)

theorem event_takeSlot (a : AssignSlot) : EventWork s (takeSlot a s).2 := by
  unfold takeSlot
  split
  · split
    · exact event_countEvent s _ (by decide)
    · exact event_appendEntry s _
  · exact EventWork.refl s

/-! ### The infeed and the Resolver's list (R77, R90 to R92) -/

theorem event_takeReservation (h : HeadId) : EventWork s (takeReservation h s) :=
  EventWork.trans (t := { s with orq := { s.orq with reservations := s.orq.reservations + 1 } }) (EventWork.ofNode rfl rfl rfl)
    (event_modSeq _ h _ fun _ => rfl)

theorem event_beginResolution : EventWork s (beginResolution s) := by
  unfold beginResolution
  split
  · exact EventWork.ofNode rfl rfl rfl
  · exact EventWork.refl s

theorem event_requestResolution (h : HeadId) (recipe : Nat) : EventWork s (requestResolution h recipe s) :=
  EventWork.after (event_beginResolution _) (EventWork.ofNode rfl rfl rfl)

theorem event_immediateNotServed (h : HeadId) (serial : Half) (n : Nat) (r : NotServedReason) (c : CounterId)
    (hc : c ≠ .missingPitches) : EventWork s (immediateNotServed h serial n r c s) := by
  unfold immediateNotServed
  refine EventWork.after (event_modSeq _ h _ fun _ => rfl) (EventWork.after (event_countEvent _ c hc) ?_)
  refine EventWork.after (EventWork.ite (fun _ => ?_) fun _ => event_loseRecord _) (event_countNotServed s _ _)
  exact (event_takeReservation _ h).trans (work_placeRecord _ h _).event

theorem event_requestCycle (h : HeadId) (e : QueueEntry) : EventWork s (requestCycle h e s) := by
  unfold requestCycle
  refine EventWork.ite (fun _ => ?_) fun _ => (event_loseRecord s).trans (event_countUnserved _ _)
  exact EventWork.after (event_requestResolution _ h _) (EventWork.after (event_modSeq _ h _ fun _ => rfl) (event_takeReservation s h))

theorem event_infeedDecision (h : HeadId) (serial : Half) (e : Option QueueEntry) : EventWork s (infeedDecision h serial e s) := by
  unfold infeedDecision
  dsimp only
  split
  · split
    · exact event_requestCycle s h _
    · exact EventWork.refl s
  · exact event_immediateNotServed s h _ _ _ _ (by decide)
  · exact event_immediateNotServed s h _ _ _ _ (by decide)
  · exact EventWork.refl s

theorem event_takeInfeed (serial : Half) (k : EventKind) (x : Option (HeadId × QueueEntry)) (h : HeadId) :
    EventWork s (takeInfeed serial k x h s) :=
  EventWork.ite (fun _ => EventWork.after (event_infeedDecision _ h _ _) (event_modSeq s h _ fun _ => rfl)) fun _ =>
    EventWork.refl s

/-! ### Ring loss, deadlines and step mode at every head (R103 to R110) -/

theorem event_markOvertaken (h : HeadId) : EventWork s (markOvertaken h s) := EventWork.ofNode rfl rfl rfl

theorem event_takeRingLoss (h : HeadId) : EventWork s (takeRingLoss h s) := by
  have cut := ((work_modFlags s h fun f => { f with ringLoss := true }).trans (work_cutToSnift _ h)).event
  unfold takeRingLoss
  split
  · exact event_modSeq s h _ fun _ => rfl
  · exact event_markOvertaken s h
  · exact cut
  · exact cut
  · exact (work_modFlags s h _).event
  · exact EventWork.refl s
  · exact EventWork.refl s
  · exact EventWork.refl s

theorem event_ringLoss : EventWork s (ringLoss s) :=
  (event_clearQueue s _).trans (EventWork.forHeads _ (fun h s => event_takeRingLoss s h) _)

theorem event_forDeadlines : EventWork s (forHeads takeDeadlines s) :=
  EventWork.forHeads _ (fun h s => (work_takeDeadlines s h).event) s

theorem event_endStepModes : EventWork s (forHeads endStepMode s) :=
  EventWork.forHeads _ (fun h s => (work_endStepMode s h).event) s

/-! ### What a request leaves of the node -/

/-- A request or an event of the queue and the heads leaves the time, the carousel, the ring but for a pending damage insertion,
the Resolver, the elapsed counts and the records that stand. -/
structure RequestWork (s t : State) : Prop where
  node : t =
    { s with
      resetScheduled := t.resetScheduled
      ring := { s.ring with damagePending := t.ring.damagePending }
      pitch := { s.pitch with lastBeyond := t.pitch.lastBeyond }
      queue := t.queue, tables := t.tables, directory := t.directory, settings := t.settings, resolver := t.resolver
      heads := t.heads, scanner := t.scanner, orq := t.orq, counters := t.counters, totals := t.totals, trace := t.trace }
  elapsed : ∀ h, (t.seq h).elapsed = (s.seq h).elapsed
  records : ∃ l, t.orq.records = s.orq.records ++ l
  queue : s.queue = ⟨[], true⟩ → t.queue = ⟨[], true⟩

namespace RequestWork

variable {s t u : State}

theorem refl (s : State) : RequestWork s s := ⟨rfl, fun _ => rfl, ⟨[], (List.append_nil _).symm⟩, id⟩

theorem trans (a : RequestWork s t) (b : RequestWork t u) : RequestWork s u := by
  refine ⟨?_, fun h => (b.elapsed h).trans (a.elapsed h), ?_, fun hq => b.queue (a.queue hq)⟩
  · have h1 := b.node
    have h2 := a.node
    rw [h2] at h1
    exact h1
  · obtain ⟨l, hl⟩ := a.records
    obtain ⟨m, hm⟩ := b.records
    exact ⟨l ++ m, by rw [hm, hl, List.append_assoc]⟩

theorem after (b : RequestWork t u) (a : RequestWork s t) : RequestWork s u := a.trans b

theorem ite {p : Prop} [Decidable p] {a b : State} (ha : p → RequestWork s a) (hb : ¬p → RequestWork s b) :
    RequestWork s (if p then a else b) := by
  split
  · exact ha ‹_›
  · exact hb ‹_›

/-- A change that leaves the heads, the records and the queue. -/
theorem ofNode
    (ho : t =
      { s with
        resetScheduled := t.resetScheduled
        ring := { s.ring with damagePending := t.ring.damagePending }
        pitch := { s.pitch with lastBeyond := t.pitch.lastBeyond }
        tables := t.tables, directory := t.directory, settings := t.settings, scanner := t.scanner
        counters := t.counters, totals := t.totals, trace := t.trace }) : RequestWork s t := by
  have hh : t.heads = s.heads := by rw [ho]
  have hq : t.orq = s.orq := by rw [ho]
  have hr : t.resolver = s.resolver := by rw [ho]
  have he : t.queue = s.queue := by rw [ho]
  refine ⟨?_, fun h => by simp only [State.seq, State.head, hh], ⟨[], by rw [hq, List.append_nil]⟩, fun e => he.trans e⟩
  rw [hh, hq, hr, he]
  exact ho

/-- A change of one head that leaves its elapsed count. -/
theorem ofHead (h : HeadId) (f : Head → Head) (he : ∀ x, (f x).seq.elapsed = x.seq.elapsed) : RequestWork s (s.modHead h f) := by
  refine ⟨rfl, fun k => ?_, ⟨[], (List.append_nil _).symm⟩, id⟩
  by_cases e : k = h
  · rw [e, State.seq, modHead_head]; exact he _
  · rw [State.seq, modHead_head_ne s h k f e]; rfl

theorem foldl {α : Type} (f : State → α → State) (hf : ∀ s x, RequestWork s (f s x)) (l : List α) (s : State) :
    RequestWork s (l.foldl f s) := by
  induction l generalizing s with
  | nil => exact refl s
  | cons x l ih => exact (hf s x).trans (ih _)

theorem now (w : RequestWork s t) : t.now = s.now := by rw [w.node]

theorem pending (w : RequestWork s t) : t.pending = s.pending := by rw [w.node]

theorem ring (w : RequestWork s t) : t.ring = { s.ring with damagePending := t.ring.damagePending } := by rw [w.node]

theorem pitch (w : RequestWork s t) : t.pitch = { s.pitch with lastBeyond := t.pitch.lastBeyond } := by rw [w.node]

end RequestWork

/-- What an event does is less than what a request may do. -/
theorem EventWork.request {s t : State} (w : EventWork s t) (hq : s.queue = ⟨[], true⟩ → t.queue = ⟨[], true⟩) :
    RequestWork s t := by
  refine ⟨?_, w.elapsed, w.records, hq⟩
  have hn := w.node
  have h1 : t.resetScheduled = s.resetScheduled := by rw [hn]
  have h2 : t.tables = s.tables := by rw [hn]
  have h3 : t.directory = s.directory := by rw [hn]
  rw [h1, h2, h3, w.ring, w.pitch, w.settings, w.scanner]
  exact hn

theorem HeadWork.request {h : HeadId} {s t : State} (w : HeadWork h s t) : RequestWork s t :=
  w.event.request fun hq => w.queue.trans hq

theorem request_raiseAlarm (c : AlarmCode) (head : Byte) (a b : Nat) : RequestWork s (raiseAlarm c head a b s) :=
  (work_enterUnreserved s 0 _).request

theorem request_modSeq (h : HeadId) (f : Sequencer → Sequencer) (he : ∀ q, (f q).elapsed = q.elapsed) :
    RequestWork s (s.modSeq h f) :=
  RequestWork.ofHead h _ fun x => he x.seq

theorem request_modTable (h : HeadId) (f : HeadRecord → HeadRecord) : RequestWork s (s.modTable h f) :=
  RequestWork.ofHead h _ fun _ => rfl

theorem request_modTables (f : Tables → Tables) : RequestWork s (s.modTables f) := RequestWork.ofNode rfl

theorem request_countEvent (c : CounterId) : RequestWork s (countEvent c s) := by
  have set : ∀ v, RequestWork s (setCounter c v s) := fun _ => RequestWork.ofNode rfl
  exact RequestWork.ite (fun _ => (set _).trans (request_raiseAlarm _ _ _ _ _)) fun _ => set _

theorem request_takeFeedback (h : HeadId) (v : ValveId) : RequestWork s (takeFeedback h v s) := by
  have announced : ∀ k u, RequestWork u (announceFault h v k u) := fun k u =>
    (request_raiseAlarm u _ _ _ _).trans (request_countEvent _ _)
  unfold takeFeedback
  refine RequestWork.after (RequestWork.ite (fun _ => ?_) fun _ => RequestWork.refl _) (work_modValve s h v _).request
  exact (announced _ _).trans (work_takeValveFault _ h v _).request

theorem RequestWork.forHeads (f : HeadId → State → State) (hf : ∀ h s, RequestWork s (f h s)) : RequestWork s (forHeads f s) :=
  RequestWork.foldl _ (fun s h => hf h s) _ s

theorem RequestWork.forValves (f : HeadId → ValveId → State → State) (hf : ∀ h v s, RequestWork s (f h v s)) :
    RequestWork s (forValves f s) :=
  RequestWork.forHeads s _ fun h s => RequestWork.foldl _ (fun s v => hf h v s) _ s

theorem request_retimePresence : RequestWork s (retimePresence s) :=
  RequestWork.forHeads s _ fun h s =>
    RequestWork.ite (fun _ => RequestWork.ofHead h _ fun _ => rfl) fun _ => RequestWork.refl s

theorem request_retimeFeedback : RequestWork s (retimeFeedback s) :=
  RequestWork.forValves s _ fun h v s =>
    RequestWork.ite (fun _ => request_takeFeedback s h v) fun _ => RequestWork.refl s

theorem request_applySettings (x : Settings) : RequestWork s (applySettings x s) := by
  have set : RequestWork s
      { s with settings := x, queue := { s.queue with armed := true }, pitch := rejudgePosition s.settings.nPos x.nPos s.pitch } := by
    rw [rejudgePosition_eq]
    exact ⟨rfl, fun _ => rfl, ⟨[], (List.append_nil _).symm⟩, fun hq => by rw [hq]⟩
  have presence : ∀ (p : Prop) [Decidable p] (u : State), RequestWork u (if p then u else retimePresence u) := fun _ _ u =>
    RequestWork.ite (fun _ => RequestWork.refl u) fun _ => request_retimePresence u
  have feedback : ∀ (p : Prop) [Decidable p] (u : State), RequestWork u (if p then u else retimeFeedback u) := fun _ _ u =>
    RequestWork.ite (fun _ => RequestWork.refl u) fun _ => request_retimeFeedback u
  unfold applySettings
  refine RequestWork.after (feedback _ _) (RequestWork.after (presence _ _) ?_)
  exact set

theorem request_startNext : RequestWork s (startNext s) :=
  RequestWork.ite (fun _ => RequestWork.ofNode rfl) fun _ => RequestWork.ofNode rfl

theorem request_turnOff (h : HeadId) : RequestWork s (turnOff h s) := by
  unfold turnOff abandonConversion
  refine RequestWork.after (RequestWork.ite (fun _ => request_startNext _) fun _ => RequestWork.refl _) ?_
  refine RequestWork.after (request_modSeq _ h _ fun _ => ?_) (HeadWork.after (work_clearEqualised _ h) (work_closeAll s h)).request
  rfl

theorem request_headOff (h : HeadId) : RequestWork s (headOff h s).2 := by
  unfold headOff
  cases (s.seq h).state <;> dsimp only
  case idle => exact request_turnOff s h
  case fault => exact request_turnOff s h
  case held => exact request_turnOff s h
  all_goals exact RequestWork.refl s

theorem request_headControl (m : MgmtSlot) : RequestWork s (headControl m s).2 := by
  have same := RequestWork.refl s
  have seq : ∀ h (f : Sequencer → Sequencer), (∀ q, (f q).elapsed = q.elapsed) → RequestWork s (s.modSeq h f) := request_modSeq s
  unfold headControl
  split
  · unfold headOn
    split_ifs <;> dsimp only
    · exact same
    · exact same
    · exact seq _ _ fun _ => rfl
  · exact request_headOff s _
  · unfold headClear
    split_ifs <;> dsimp only
    · exact same
    · exact seq _ _ fun _ => rfl
    · exact same
  · unfold headForget
    split_ifs <;> dsimp only
    · exact request_modTable s _ _
    · exact same
  · unfold headStepOn
    split_ifs <;> dsimp only
    · exact seq _ _ fun _ => rfl
    · exact same
  · exact (work_endStepMode s _).request
  · unfold headStep
    split_ifs <;> dsimp only
    · exact (work_resumeStep s _).request
    · exact same
  · exact same

theorem request_modSegment (g : Fin 32) (f : Segment → Segment) : RequestWork s (s.modSegment g f) := request_modTables s _

theorem request_defineSegment (m : MgmtSlot) : RequestWork s (defineSegment m s).2 := by
  unfold defineSegment
  dsimp only
  split
  · split_ifs <;> dsimp only
    · exact RequestWork.refl s
    · exact RequestWork.refl s
    · exact RequestWork.refl s
    · exact request_modSegment s _ _
  · exact RequestWork.refl s

theorem request_deleteSegment (m : MgmtSlot) : RequestWork s (deleteSegment m s).2 := by
  unfold deleteSegment
  split
  · exact RequestWork.refl s
  · split_ifs <;> dsimp only
    · exact RequestWork.refl s
    · exact RequestWork.refl s
    · exact RequestWork.refl s
    · exact request_modSegment s _ _

theorem request_openLoad (m : MgmtSlot) : RequestWork s (openLoad m s).2 := by
  unfold openLoad
  split
  · exact RequestWork.refl s
  · split_ifs <;> dsimp only
    · exact RequestWork.refl s
    · exact RequestWork.refl s
    · exact RequestWork.refl s
    · exact RequestWork.refl s
    · exact RequestWork.after (request_modTables _ _) (request_modSegment s _ _)

theorem request_loadWords (m : MgmtSlot) : RequestWork s (loadWords m s).2 := by
  unfold loadWords
  dsimp only
  split
  · exact RequestWork.refl s
  · split
    · exact RequestWork.refl s
    · split_ifs <;> dsimp only
      · exact RequestWork.refl s
      · exact RequestWork.refl s
      · exact request_modTables s _

theorem request_closeLoad (m : MgmtSlot) : RequestWork s (closeLoad m s).2 := by
  unfold closeLoad
  split
  · exact RequestWork.refl s
  · split_ifs <;> dsimp only
    · exact RequestWork.refl s
    · exact RequestWork.refl s
    · exact RequestWork.after (request_modTables _ _) (request_modSegment s _ _)

theorem request_directoryRequest (m : MgmtSlot) : RequestWork s (directoryRequest m s).2 := by
  have set : ∀ n d, RequestWork s (setDirectory n d s) := fun _ _ => RequestWork.ofNode rfl
  unfold directoryRequest
  split
  · split
    · exact set _ _
    · split_ifs <;> dsimp only
      · exact RequestWork.refl s
      · exact set _ _
    · exact RequestWork.refl s
  · exact RequestWork.refl s

theorem request_headSet (m : MgmtSlot) : RequestWork s (headSet m s).2 := by
  have set : ∀ h ok f, RequestWork s (setRecord h ok f s).2 := fun h ok f => by
    unfold setRecord
    split_ifs <;> dsimp only
    · exact RequestWork.refl s
    · exact request_modTable s _ _
    · exact RequestWork.refl s
  unfold headSet
  dsimp only
  split
  · exact RequestWork.refl s
  · split_ifs
    · exact set _ _ _
    · exact set _ _ _
    · exact set _ _ _
    · exact RequestWork.refl s

theorem request_nodeSetRequest (m : MgmtSlot) : RequestWork s (nodeSetRequest m s).2 := by
  unfold nodeSetRequest
  dsimp only
  split_ifs <;> dsimp only
  · exact RequestWork.refl s
  · exact RequestWork.refl s
  · exact RequestWork.refl s
  · exact request_applySettings s _

theorem request_countersRequest (m : MgmtSlot) : RequestWork s (countersRequest m s).2 := by
  unfold countersRequest
  split
  · exact RequestWork.refl s
  · exact RequestWork.refl s
  · exact RequestWork.ofNode rfl

theorem request_totalsRequest (m : MgmtSlot) : RequestWork s (totalsRequest m s).2 := by
  unfold totalsRequest
  split
  · split
    · exact RequestWork.refl s
    · exact RequestWork.refl s
    · exact RequestWork.ofNode rfl
  · exact RequestWork.refl s

theorem request_setTrace (isB : Bool) (d : Descriptor) : RequestWork s (s.setTrace isB d) := RequestWork.ofNode rfl

theorem request_traceArmRequest (m : MgmtSlot) : RequestWork s (traceArmRequest m s).2 := by
  unfold traceArmRequest
  dsimp only
  split
  · unfold armDescriptor
    split_ifs <;> dsimp only
    · exact RequestWork.refl s
    · exact RequestWork.refl s
    · exact RequestWork.refl s
    · exact request_setTrace s _ _
  · exact RequestWork.refl s

theorem request_testRequest (m : MgmtSlot) : RequestWork s (testRequest m s).2 := by
  unfold testRequest
  split
  · split_ifs <;> dsimp only
    · exact RequestWork.refl s
    · exact RequestWork.ofNode rfl
  · split_ifs <;> dsimp only
    · exact RequestWork.refl s
    · exact RequestWork.ofHead _ _ fun _ => rfl
  · exact RequestWork.refl s

theorem request_ownRule (m : MgmtSlot) : RequestWork s (ownRule m s).2 := by
  unfold ownRule
  split
  · exact request_defineSegment s m
  · exact request_deleteSegment s m
  · exact request_openLoad s m
  · exact request_loadWords s m
  · exact request_closeLoad s m
  · unfold segmentReport; split <;> exact RequestWork.refl s
  · unfold readTable; dsimp only; split
    · exact RequestWork.refl s
    · split_ifs <;> exact RequestWork.refl s
  · exact request_directoryRequest s m
  · exact request_headSet s m
  · exact request_nodeSetRequest s m
  · exact (event_clearQueue s _).request fun _ => clearQueue_queue s _
  · exact request_headControl s m
  · exact request_countersRequest s m
  · exact request_totalsRequest s m
  · exact request_traceArmRequest s m
  · unfold traceStopRequest; split
    · exact RequestWork.refl s
    · exact request_setTrace s _ _
  · unfold traceReadRequest; split
    · exact RequestWork.refl s
    · split_ifs <;> exact RequestWork.refl s
  · exact RequestWork.refl s
  · unfold headStatusRequest; split <;> exact RequestWork.refl s
  · unfold nodeResetRequest; split_ifs <;> dsimp only
    · exact RequestWork.refl s
    · exact RequestWork.ofNode rfl
  · exact request_testRequest s m
  · exact RequestWork.refl s

/-- A management slot of a frame, handled or not. -/
theorem request_handleSlot (m : MgmtSlot) : RequestWork s (handleSlot m s).2 := by
  unfold handleSlot
  split
  · unfold judgeRequest
    dsimp only
    split_ifs
    · exact RequestWork.refl s
    · exact RequestWork.refl s
    · exact RequestWork.refl s
    · exact request_ownRule s m
  · exact RequestWork.refl s

/-! ### Time and the commands that wait -/

/-- The commands that wait stay, and the time never goes back (log 1). -/
structure Onward (s t : State) : Prop where
  pending : t.pending = s.pending
  now : s.now ≤ t.now

namespace Onward

variable {s t u : State}

theorem refl (s : State) : Onward s s := ⟨rfl, Nat.le_refl _⟩

theorem trans (a : Onward s t) (b : Onward t u) : Onward s u := ⟨b.pending.trans a.pending, Nat.le_trans a.now b.now⟩

/-- The last change first, as `HeadWork.after`. -/
theorem after (b : Onward t u) (a : Onward s t) : Onward s u := a.trans b

theorem same (hp : t.pending = s.pending) (hn : t.now = s.now) : Onward s t := ⟨hp, hn.ge⟩

theorem ite {p : Prop} [Decidable p] {a b : State} (ha : p → Onward s a) (hb : ¬p → Onward s b) : Onward s (if p then a else b) := by
  split
  · exact ha ‹_›
  · exact hb ‹_›

end Onward

theorem RequestWork.onward {s t : State} (w : RequestWork s t) : Onward s t := Onward.same w.pending w.now

theorem EventWork.onward {s t : State} (w : EventWork s t) : Onward s t := Onward.same w.pending w.now

theorem HeadWork.onward {h : HeadId} {s t : State} (w : HeadWork h s t) : Onward s t := w.event.onward

theorem onward_advance (t : Ticks) : Onward s (s.advance t) := ⟨rfl, Nat.le_max_left _ _⟩

theorem onward_modHead (h : HeadId) (f : Head → Head) : Onward s (s.modHead h f) := Onward.same rfl rfl

theorem onward_modRing (f : RingPort → RingPort) : Onward s (s.modRing f) := Onward.same rfl rfl

theorem onward_modPitch (f : PitchTimer → PitchTimer) : Onward s (s.modPitch f) := Onward.same rfl rfl

theorem onward_setWindow : Onward s (setWindow s) := by
  unfold setWindow
  exact onward_modPitch s _

/-! ### Pitches (R14 to R35) -/

/-- The bowl request that every pitch event makes (R25, R135). -/
def State.requestBowl (s : State) : State := { s with scanner := { s.scanner with request := true } }

/-- The count of an estimated event (R25, R161). -/
def countEstimated (k : EventKind) (s : State) : State := if k = .estimated then countEvent .missingPitches s else s

/-- A pitch event: every head takes its elapsed count, the queue and the heads do their work, the bowl is requested, and an
estimated event is counted. -/
theorem pitchEvent_eq (serial : Half) (p : Nat) (k : EventKind) :
    ∃ u, EventWork (elapseAll p s) u ∧ pitchEvent serial p k s = countEstimated k u.requestBowl := by
  refine ⟨_, ?_, rfl⟩
  refine EventWork.after (event_forDeadlines _) (EventWork.after (EventWork.foldl _ (fun s h => event_takeInfeed s _ _ _ h) _ _) ?_)
  exact EventWork.after (event_handOver _ _ _ _) (event_discardStale _ _)

theorem onward_pitchEvent (serial : Half) (p : Nat) (k : EventKind) : Onward s (pitchEvent serial p k s) := by
  obtain ⟨u, w, e⟩ := pitchEvent_eq s serial p k
  have requested : Onward u u.requestBowl := Onward.same rfl rfl
  have elapsed : Onward s (elapseAll p s) := Onward.same rfl rfl
  rw [e]
  refine Onward.after (Onward.ite (fun _ => ?_) fun _ => Onward.refl _) (elapsed.trans (w.onward.trans requested))
  exact (request_countEvent _ _).onward

theorem onward_enterJoining (b : Bool) : Onward s (enterJoining b s) := by
  have dropped : ∀ f, Onward s (dropPitch (s.modRing f)) := fun f => Onward.after (onward_modPitch _ _) (onward_modRing s f)
  exact Onward.ite (fun _ => (dropped _).trans (event_ringLoss _).onward) fun _ => dropped _

theorem onward_joinMeasure (serial : Half) (p : Nat) : Onward s (joinMeasure serial p s) := by
  unfold joinMeasure
  refine Onward.after (onward_modPitch _ _) ?_
  split
  · exact onward_modPitch s _
  · exact Onward.refl s

theorem onward_releaseHeld : Onward s (releaseHeld s) := Onward.same rfl rfl

theorem onward_lockOn (serial : Half) (p : Nat) : Onward s (lockOn serial p s) := by
  unfold lockOn
  refine Onward.after (onward_pitchEvent _ _ _ _) (Onward.after (onward_setWindow _) (Onward.after (onward_modPitch _ _) ?_))
  exact (onward_modRing s _).trans (onward_releaseHeld _)

theorem onward_joiningPitch (serial : Half) (p : Nat) : Onward s (joiningPitch serial p s) := by
  have joined : Onward s (setWindow (joinMeasure serial p (extendRun serial p s))) :=
    Onward.after (onward_setWindow _) (Onward.after (onward_joinMeasure _ serial p) (onward_modRing s _))
  exact joined.trans
    (Onward.ite (fun _ => Onward.ite (fun _ => onward_lockOn _ serial p) fun _ => onward_modRing _ _) fun _ => Onward.refl _)

theorem onward_catchUpEvents (nPos n : Nat) (e : Half) (p : Nat) : Onward s (catchUpEvents nPos n e p s) := by
  induction n generalizing s e p with
  | zero => exact Onward.refl s
  | succ n ih => exact Onward.after (ih _ _ _) (onward_pitchEvent s e p _)

theorem onward_servingPitch (serial : Half) (p : Nat) : Onward s (servingPitch serial p s) := by
  have run : ∀ u, Onward u (holdoverRun serial p u) := fun u =>
    Onward.ite (fun _ => Onward.after (Onward.ite (fun _ => onward_modRing _ _) fun _ => Onward.refl _) (onward_modRing u _))
      fun _ => Onward.refl u
  have event : ∀ u, Onward u (setWindow (pitchEvent serial p .received (sequenceFrom serial p u))) := fun u =>
    Onward.after (onward_setWindow _) (Onward.after (onward_pitchEvent _ _ _ _) (onward_modPitch u _))
  unfold servingPitch
  split
  · exact Onward.refl s
  · split
    · refine Onward.after (run _) (Onward.after (event _) (Onward.ite (fun _ => onward_modPitch s _) fun _ => Onward.refl s))
    · exact Onward.after (run _) (Onward.after (onward_setWindow _) (onward_modPitch s _))
    · exact Onward.after (run _) (Onward.after (event _) (onward_catchUpEvents s _ _ _ _))
    · exact Onward.after (onward_enterJoining _ true) (event_raiseAlarm s _ _ _ _).onward

theorem onward_takeCarousel (c : Carousel) : Onward s (takeCarousel c s) := by
  refine Onward.after (Onward.ite (fun _ => (event_endStepModes _).onward) fun _ => ?_) (onward_modPitch s _)
  exact Onward.after (onward_modRing _ _) (onward_modPitch _ _)

theorem onward_takePitchHeader (serial : Half) (p : Nat) : Onward s (takePitchHeader serial p s) := by
  have emptied : Onward s (s.modRing fun r => { r with badCount := 0 }) := onward_modRing s _
  unfold takePitchHeader
  dsimp only
  split
  · exact emptied.trans (onward_joiningPitch _ _ _)
  · exact emptied.trans (onward_servingPitch _ _ _)
  · exact emptied.trans (onward_servingPitch _ _ _)
  · exact emptied
  · exact emptied
  · exact emptied

theorem onward_badPitch : Onward s (badPitch s) := by
  refine Onward.after (Onward.ite (fun _ => ?_) fun _ => Onward.ite (fun _ => ?_) fun _ => Onward.refl _) (onward_modRing s _)
  · exact Onward.after (event_ringLoss _).onward (Onward.after (event_raiseAlarm _ _ _ _ _).onward (onward_modRing _ _))
  · exact Onward.after (event_raiseAlarm _ _ _ _ _).onward (onward_modRing _ _)

theorem onward_estimatedPitch (t : Nat) : Onward s (estimatedPitch t s) := by
  unfold estimatedPitch
  split
  · refine Onward.ite (fun _ => ?_) fun _ => onward_setWindow s
    exact Onward.after (onward_setWindow _) (Onward.after (onward_modPitch _ _) (onward_pitchEvent s _ _ _))
  · exact onward_setWindow s

theorem onward_windowExpires (t : Nat) : Onward s (windowExpires t s) := by
  unfold windowExpires
  split
  · exact Onward.after (onward_modPitch _ _) (onward_modRing s _)
  · exact Onward.after (onward_estimatedPitch _ _) (onward_badPitch s)
  · exact Onward.after (onward_estimatedPitch _ _) (onward_badPitch s)
  · exact Onward.refl s
  · exact Onward.refl s
  · exact Onward.refl s

/-! ### Frames, slots and requests (R2 to R9, R172) -/

theorem onward_takeScheduled : Onward s (takeScheduled s) := Onward.ite (fun _ => Onward.same rfl rfl) fun _ => Onward.refl s

theorem kept_addressStep (hop : Byte) : Kept s (addressStep hop s) := by
  have latch : ∀ u, Kept u (latchAddress hop u) := fun u => Kept.ite (fun _ => Kept.refl u) fun _ => kept_modRing u _
  have compare : Kept s (compareAddress hop s) :=
    Kept.ite (fun _ => Kept.refl s) fun _ =>
      Kept.after (kept_modRing _ _) (Kept.after (kept_enterJoining _ _) (kept_raiseAlarm s _ _ _ _))
  unfold addressStep
  split
  · exact latch s
  · exact latch s
  · exact compare
  · exact compare
  · exact Kept.after (latch _) (kept_enterJoining s _)
  · exact Kept.refl s

theorem onward_addressStep (hop : Byte) : Onward s (addressStep hop s) := by
  have latch : ∀ u, Onward u (latchAddress hop u) := fun u => Onward.ite (fun _ => Onward.refl u) fun _ => onward_modRing u _
  have compare : Onward s (compareAddress hop s) :=
    Onward.ite (fun _ => Onward.refl s) fun _ =>
      Onward.after (onward_modRing _ _) (Onward.after (onward_enterJoining _ _) (event_raiseAlarm s _ _ _ _).onward)
  unfold addressStep
  split
  · exact latch s
  · exact latch s
  · exact compare
  · exact compare
  · exact Onward.after (latch _) (onward_enterJoining s _)
  · exact Onward.refl s

theorem kept_headerStep (f : Frame) : Kept s (headerStep f s) := by
  refine Kept.ite (fun _ => Kept.refl s) fun _ => ?_
  split
  · exact Kept.refl s
  · exact Kept.after (Kept.ite (fun _ => kept_takePitchHeader _ _ _) fun _ => Kept.refl _) (kept_takeCarousel s _)

theorem onward_headerStep (f : Frame) : Onward s (headerStep f s) := by
  refine Onward.ite (fun _ => Onward.refl s) fun _ => ?_
  split
  · exact Onward.refl s
  · exact Onward.after (Onward.ite (fun _ => onward_takePitchHeader _ _ _) fun _ => Onward.refl _) (onward_takeCarousel s _)

/-- The state behind the six assignment slots of a frame, taken in slot order (R5). -/
def slotsTaken (f : Frame) (s : State) : State :=
  [f.a0, f.a1, f.a2, f.a3, f.a4, f.a5].foldl (fun s a => (takeSlot a s).2) s

theorem assignmentStep_state (f : Frame) : (assignmentStep f s).2 = slotsTaken f s := by
  simp only [assignmentStep, slotsTaken, List.foldl_cons, List.foldl_nil]

theorem assignmentStep_mgmt (f : Frame) : (assignmentStep f s).1.mgmt = f.mgmt := by
  simp only [assignmentStep]

theorem kept_slotsTaken (f : Frame) : Kept s (slotsTaken f s) := Kept.foldl _ (fun s a => kept_takeSlot s a) _ s

theorem event_slotsTaken (f : Frame) : EventWork s (slotsTaken f s) := EventWork.foldl _ (fun s a => event_takeSlot s a) _ s

/-- An offered slot takes the oldest record or none. -/
theorem offerSlot_length (node : Byte) (r : ResultSlot) (q : Nat × List Record) :
    (offerSlot node r q).2.2.length ≤ q.2.length := by
  unfold offerSlot
  split
  · exact Nat.le_refl _
  · next x rest he =>
    split
    · rw [he]; exact Nat.le_succ _
    · exact Nat.le_refl _

theorem kept_resultStep (f : Frame) : Kept s (resultStep f s).2 := by
  unfold resultStep
  split
  · refine Kept.ofOrq _ fun hb => Nat.le_trans (Nat.add_le_add_right ?_ _) hb
    exact (offerSlot_length _ _ _).trans ((offerSlot_length _ _ _).trans ((offerSlot_length _ _ _).trans (offerSlot_length _ _ _)))
  · exact Kept.refl s

theorem onward_resultStep (f : Frame) : Onward s (resultStep f s).2 := by
  unfold resultStep
  split
  · exact Onward.same rfl rfl
  · exact Onward.refl s

/-- The state of a used frame ahead of its result slots: behind address, header, assignment slots and management slot (R5). -/
def served (f : Frame) (s : State) : State := (handleSlot f.mgmt (slotsTaken f (headerStep f (addressStep f.hop s)))).2

theorem useFrame_state (f : Frame) : ∃ g, (useFrame f s).2 = (resultStep g (served f s)).2 := by
  let u := headerStep f (addressStep f.hop s)
  refine ⟨(managementStep (assignmentStep f u).1 (assignmentStep f u).2).1, ?_⟩
  simp only [useFrame, managementStep, assignmentStep_state, assignmentStep_mgmt, served, u]

theorem kept_served (f : Frame) : Kept s (served f s) :=
  Kept.after (kept_handleSlot _ _) (Kept.after (kept_slotsTaken _ f) (Kept.after (kept_headerStep _ f) (kept_addressStep s f.hop)))

theorem onward_served (f : Frame) : Onward s (served f s) :=
  Onward.after (request_handleSlot _ _).onward
    (Onward.after (event_slotsTaken _ f).onward (Onward.after (onward_headerStep _ f) (onward_addressStep s f.hop)))

theorem kept_useFrame (f : Frame) : Kept s (useFrame f s).2 := by
  obtain ⟨g, hg⟩ := useFrame_state s f
  rw [hg]
  exact (kept_served s f).trans (kept_resultStep _ g)

theorem onward_useFrame (f : Frame) : Onward s (useFrame f s).2 := by
  obtain ⟨g, hg⟩ := useFrame_state s f
  rw [hg]
  exact (onward_served s f).trans (onward_resultStep _ g)

theorem kept_receiveFrame (f : Frame) : Kept s (receiveFrame f s) := by
  have sent : ∀ (u : State) (g : Option Frame), Kept u { u with frameOut := g } := fun u _ => Kept.same rfl rfl rfl rfl rfl rfl
  have processed : ∀ u, Kept u (processFrame f u).2 := fun u => by
    unfold processFrame
    split_ifs
    · exact kept_countEvent u _
    · exact Kept.refl u
    · exact kept_useFrame u f
  refine Kept.ite (fun _ => sent s _) fun _ => (kept_takeScheduled s).trans ?_
  exact Kept.after (sent _ _) (Kept.after (Kept.ite (fun _ => kept_modRing _ _) fun _ => Kept.refl _) (processed _))

theorem onward_receiveFrame (f : Frame) : Onward s (receiveFrame f s) := by
  have sent : ∀ (u : State) (g : Option Frame), Onward u { u with frameOut := g } := fun _ _ => Onward.same rfl rfl
  have processed : ∀ u, Onward u (processFrame f u).2 := fun u => by
    unfold processFrame
    split_ifs
    · exact (request_countEvent u _).onward
    · exact Onward.refl u
    · exact onward_useFrame u f
  refine Onward.ite (fun _ => sent s _) fun _ => (onward_takeScheduled s).trans ?_
  exact Onward.after (sent _ _) (Onward.after (Onward.ite (fun _ => onward_modRing _ _) fun _ => Onward.refl _) (processed _))

theorem kept_presentAssign (a : AssignSlot) : Kept s (presentAssign a s) := by
  have sent : ∀ (u : State) (b : AssignSlot), Kept u { u with assignOut := some b } := fun _ _ => Kept.same rfl rfl rfl rfl rfl rfl
  exact (kept_takeScheduled s).trans ((kept_takeSlot _ a).trans (sent _ _))

theorem onward_presentAssign (a : AssignSlot) : Onward s (presentAssign a s) := by
  have sent : ∀ (u : State) (b : AssignSlot), Onward u { u with assignOut := some b } := fun _ _ => Onward.same rfl rfl
  exact (onward_takeScheduled s).trans ((event_takeSlot _ a).onward.trans (sent _ _))

theorem kept_presentSlot (m : MgmtSlot) : Kept s (presentSlot m s) := by
  have sent : ∀ (u : State) (n : MgmtSlot), Kept u { u with mgmtOut := some n } := fun _ _ => Kept.same rfl rfl rfl rfl rfl rfl
  exact (kept_takeScheduled s).trans ((kept_handleSlot _ m).trans (sent _ _))

theorem onward_presentSlot (m : MgmtSlot) : Onward s (presentSlot m s) := by
  have sent : ∀ (u : State) (n : MgmtSlot), Onward u { u with mgmtOut := some n } := fun _ _ => Onward.same rfl rfl
  exact (onward_takeScheduled s).trans ((request_handleSlot _ m).onward.trans (sent _ _))

/-! ### The node's own events and its field lines -/

theorem event_resolutionNotServed (h : HeadId) (r : NotServedReason) (a b : Nat) :
    EventWork s (resolutionNotServed h r a b s) := by
  unfold resolutionNotServed
  refine EventWork.after (event_modSeq _ h _ fun _ => rfl) (EventWork.after (event_countNotServed _ _ _) ?_)
  exact (work_placeRecord s h _).event

theorem event_startOrDecline (h : HeadId) (o : Bool) : EventWork s (startOrDecline h o s) := by
  unfold startOrDecline
  split
  · exact event_resolutionNotServed s h _ _ _
  · exact (work_startCycle s h).event

theorem onward_completeResolution : Onward s (completeResolution s) := by
  have next : ∀ u, Onward u (beginResolution (clearResolution u)) := fun u =>
    Onward.after (event_beginResolution _).onward (Onward.same rfl rfl)
  unfold completeResolution
  split
  · exact Onward.refl s
  · dsimp only
    split
    · exact Onward.after (next _) (event_resolutionNotServed s _ _ _ _).onward
    · exact Onward.after (next _) (Onward.after (event_startOrDecline _ _ _).onward (onward_modHead s _ _))
    · exact Onward.refl s
    · exact Onward.refl s
    · exact Onward.refl s

theorem kept_stepResolution : Kept s (stepResolution s) := by
  have stepped : ∀ r, Kept s { s with resolver := { s.resolver with current := some r } } := fun _ => Kept.same rfl rfl rfl rfl rfl rfl
  unfold stepResolution
  split
  · exact Kept.refl s
  · dsimp only
    split
    · exact Kept.after (kept_completeResolution _) (stepped _)
    · exact stepped _
    · exact stepped _
    · exact stepped _
    · exact stepped _

theorem onward_stepResolution : Onward s (stepResolution s) := by
  have stepped : ∀ r, Onward s { s with resolver := { s.resolver with current := some r } } := fun _ => Onward.same rfl rfl
  unfold stepResolution
  split
  · exact Onward.refl s
  · dsimp only
    split
    · exact Onward.after (onward_completeResolution _) (stepped _)
    · exact stepped _
    · exact stepped _
    · exact stepped _
    · exact stepped _

theorem onward_completeCheck : Onward s (completeCheck s) := by
  unfold completeCheck
  split
  · exact Onward.refl s
  · exact Onward.after (request_modTables _ _).onward (request_modSegment s _ _).onward

theorem kept_phaseLimitExpires (h : HeadId) : Kept s (phaseLimitExpires h s) := by
  unfold phaseLimitExpires
  split
  · exact Kept.after (kept_timeLimitExpires _ h _) (kept_advance s _)
  · exact Kept.refl s

theorem onward_phaseLimitExpires (h : HeadId) : Onward s (phaseLimitExpires h s) := by
  unfold phaseLimitExpires
  split
  · exact Onward.after (work_timeLimitExpires _ h _).onward (onward_advance s _)
  · exact Onward.refl s

theorem kept_holdExpires (h : HeadId) : Kept s (holdExpires h s) := by
  unfold holdExpires
  split
  · exact Kept.after (kept_goOn _ h) (Kept.after (kept_modSeq _ h _ fun _ => rfl) (kept_advance s _))
  · exact Kept.refl s

theorem onward_holdExpires (h : HeadId) : Onward s (holdExpires h s) := by
  unfold holdExpires
  split
  · exact Onward.after (work_goOn _ h).onward (Onward.after (onward_modHead _ _ _) (onward_advance s _))
  · exact Onward.refl s

theorem onward_completeConversion (raw : BitVec 12) : Onward s (completeConversion raw s) := by
  have next : ∀ u, Onward u (startNext u) := fun u => (request_startNext u).onward
  have ticked : ∀ c u, Onward u (traceTick c u) := fun _ _ => Onward.same rfl rfl
  have announced : ∀ code head c r u, Onward u (announceSensorFault code head c r u) := fun _ _ _ _ u =>
    Onward.after (request_countEvent _ _).onward (event_raiseAlarm u _ _ _ _).onward
  have fault : ∀ h u, EventWork u (takeSensorFault h u) := fun h u => (work_takeSensorFault u h).event
  unfold completeConversion
  split
  · exact Onward.refl s
  · next t _ =>
    refine Onward.trans (onward_advance s (t + Config.conversionTicks)) ?_
    generalize s.advance (t + Config.conversionTicks) = u
    dsimp only
    split
    · refine Onward.after (next _) (Onward.after (ticked _ _) (Onward.after (work_takeConversion _ _ _).onward ?_))
      refine Onward.after (Onward.ite (fun _ => ?_) fun _ => Onward.refl _) (onward_modHead u _ _)
      exact Onward.after (fault _ _).onward (announced _ _ _ _ _)
    · refine Onward.after (next _) (Onward.after (ticked _ _) ?_)
      refine Onward.after (Onward.ite (fun _ => ?_) fun _ => Onward.refl _) (Onward.same rfl rfl)
      exact Onward.after (EventWork.forHeads _ fault _).onward (announced _ _ _ _ _)

theorem onward_takePulse (h : HeadId) (m : Meter) : Onward s (takePulse h m s) := by
  have stepped : ∀ u, Onward u (pulseSteps h m u) := fun _ => Onward.same rfl rfl
  unfold takePulse
  split
  · exact onward_modHead s _ _
  · exact onward_modHead s _ _
  · exact Onward.after (onward_modHead _ _ _) (stepped s)
  · refine Onward.after (Onward.ite (fun _ => (work_cutoffReached _ h m).onward) fun _ => ?_)
      (Onward.after (work_cutoffTest _ h m).onward (stepped s))
    cases m
    · exact (work_fastBand _ h).onward
    · exact Onward.refl _

theorem onward_windowEnds (h : HeadId) (m : Meter) : Onward s (windowEnds h m s) :=
  Onward.ite (fun _ => Onward.after (work_takeSettleEnd _ h m _).onward (onward_advance s _)) fun _ => Onward.refl s

theorem onward_limitEnds (h : HeadId) (m : Meter) : Onward s (limitEnds h m s) :=
  Onward.ite (fun _ => Onward.after (work_takeSettleEnd _ h m _).onward (onward_advance s _)) fun _ => Onward.refl s

theorem onward_changeFeedback (h : HeadId) (v : ValveId) (a : Bool) : Onward s (changeFeedback h v a s) := by
  have pinned : ∀ u f, Onward u (u.modValve h v f) := fun u _ => onward_modHead u h _
  refine Onward.ite (fun _ => pinned s _) fun _ => Onward.after (Onward.ite (fun _ => ?_) fun _ => Onward.refl _)
    ((pinned s _).trans (pinned _ _))
  exact (request_takeFeedback _ h v).onward

theorem onward_feedbackExpires (h : HeadId) (v : ValveId) : Onward s (feedbackExpires h v s) :=
  Onward.ite (fun _ => Onward.after (request_takeFeedback _ h v).onward (onward_advance s _)) fun _ => Onward.refl s

theorem onward_strokeExpires (h : HeadId) (v : ValveId) : Onward s (strokeExpires h v s) := by
  unfold strokeExpires
  split
  · refine Onward.after (work_takeValveFault _ h v _).onward (Onward.after (request_countEvent _ _).onward ?_)
    exact Onward.after (event_raiseAlarm _ _ _ _ _).onward (Onward.after (onward_modHead _ _ _) (onward_advance s _))
  · exact Onward.refl s

theorem onward_changePresence (h : HeadId) (a : Bool) : Onward s (changePresence h a s) :=
  Onward.ite (fun _ => onward_modHead s _ _) fun _ =>
    Onward.after (Onward.ite (fun _ => onward_modHead _ _ _) fun _ => Onward.refl _)
      (Onward.after (onward_modHead _ _ _) (onward_modHead s _ _))

theorem onward_presenceExpires (h : HeadId) : Onward s (presenceExpires h s) :=
  Onward.ite (fun _ => Onward.after (onward_modHead _ _ _) (onward_advance s _)) fun _ => Onward.refl s

theorem onward_endSelfTest (b : Bool) : Onward s (endSelfTest b s) := by
  refine Onward.ite (fun _ => ?_) fun _ => Onward.refl s
  exact Onward.ite (fun _ => Onward.after (onward_enterJoining _ _) (Onward.same rfl rfl)) fun _ => Onward.same rfl rfl

/-! ### Every command -/

/-- The command answers a next state that keeps the safety properties, the commands that wait and the time. -/
def State.goesOn (s : State) (c : Instr) : Prop := ∃ t, exec c s = .next t ∧ Kept s t ∧ Onward s t

/-- A request row has its slot presented at the time of its envelope. -/
theorem exec_request {c : Instr} {q : Envelope} {m : MgmtSlot} (h : requestOf c = some (q, m)) : exec c s = request q m s := by
  cases c <;> cases h <;> rfl

/-- A command whose meaning goes on from the time that it carries. -/
theorem goesOn_at {c : Instr} {u : State} (t : Ticks) (hx : exec c s = .next u) (hk : Kept (s.advance t) u)
    (ho : Onward (s.advance t) u) : s.goesOn c :=
  ⟨u, hx, (kept_advance s t).trans hk, (onward_advance s t).trans ho⟩

theorem goesOn_request {c : Instr} {q : Envelope} {m : MgmtSlot} (h : requestOf c = some (q, m)) : s.goesOn c :=
  goesOn_at s q.time (exec_request s h) (kept_presentSlot _ m) (onward_presentSlot _ m)

theorem goesOn_frame {c : Instr} {t : Ticks} {f : Frame} (h : exec c s = .next (receiveFrame f (s.advance t))) : s.goesOn c :=
  goesOn_at s t h (kept_receiveFrame _ f) (onward_receiveFrame _ f)

theorem goesOn_assign {c : Instr} {t : Ticks} {a : AssignSlot} (h : exec c s = .next (presentAssign a (s.advance t))) :
    s.goesOn c :=
  goesOn_at s t h (kept_presentAssign _ a) (onward_presentAssign _ a)

theorem exec_goesOn (c : Instr) : s.goesOn c := by
  cases c
  case powerOnReset t cause => exact goesOn_at s t rfl (kept_powerOn _ cause) (Onward.same rfl rfl)
  case resetRelease t =>
    refine goesOn_at s t rfl (kept_releaseReset _) (Onward.ite (fun _ => Onward.same rfl rfl) fun _ => Onward.refl _)
  case selfTestEnd t b => exact goesOn_at s t rfl (kept_endSelfTest _ b) (onward_endSelfTest _ b)
  case softReset t => exact goesOn_at s t rfl (kept_takeScheduled _) (onward_takeScheduled _)
  case pitchFrame t f => exact goesOn_frame s rfl
  case serviceFrame t f => exact goesOn_frame s rfl
  case frameOfUndefinedKind t f => exact goesOn_frame s rfl
  case containerAssignment => exact goesOn_assign s rfl
  case gapAssignment => exact goesOn_assign s rfl
  case assignmentOfUndefinedKind => exact goesOn_assign s rfl
  case pitchWindowExpiry =>
    cases hw : s.pitch.window with
    | none =>
      refine ⟨s, ?_, Kept.refl s, Onward.refl s⟩
      simp only [exec, execPitchWindowExpiry, hw]
    | some w =>
      refine goesOn_at s (w * Config.ticksPerUs) ?_ (kept_windowExpires _ w) (onward_windowExpires _ w)
      simp only [exec, execPitchWindowExpiry, hw]
  case undefinedRequest t m => exact goesOn_at s t rfl (kept_presentSlot _ m) (onward_presentSlot _ m)
  case checkComplete t => exact goesOn_at s t rfl (kept_completeCheck _) (onward_completeCheck _)
  case resolutionStep t => exact goesOn_at s t rfl (kept_stepResolution _) (onward_stepResolution _)
  case resolutionComplete t => exact goesOn_at s t rfl (kept_completeResolution _) (onward_completeResolution _)
  case phaseTimeLimitExpiry h => exact ⟨_, rfl, kept_phaseLimitExpires s h, onward_phaseLimitExpires s h⟩
  case sniftHoldExpiry h => exact ⟨_, rfl, kept_holdExpires s h, onward_holdExpires s h⟩
  case conversionComplete raw => exact ⟨_, rfl, kept_completeConversion s raw, onward_completeConversion s raw⟩
  case meterPulse t h m =>
    by_cases hr : s.resetHeld
    · exact goesOn_at s t (if_pos hr) (Kept.refl _) (Onward.refl _)
    · exact goesOn_at s t (if_neg hr) (kept_takePulse _ h m) (onward_takePulse _ h m)
  case settleWindowExpiry h m =>
    refine ⟨_, rfl, Kept.ite (fun _ => ?_) fun _ => Kept.refl s, onward_windowEnds s h m⟩
    exact Kept.after (kept_takeSettleEnd _ h m _) (kept_advance s _)
  case settleLimitExpiry h m =>
    refine ⟨_, rfl, Kept.ite (fun _ => ?_) fun _ => Kept.refl s, onward_limitEnds s h m⟩
    exact Kept.after (kept_takeSettleEnd _ h m _) (kept_advance s _)
  case feedbackInputChange t h v a =>
    by_cases hr : s.resetHeld
    · exact goesOn_at s t (if_pos hr) (kept_modValve _ h v _ rfl) (onward_modHead _ _ _)
    · exact goesOn_at s t (if_neg hr) (kept_changeFeedback _ h v a) (onward_changeFeedback _ h v a)
  case feedbackDebounceExpiry h v =>
    by_cases hr : s.resetHeld
    · exact ⟨s, if_pos hr, Kept.refl s, Onward.refl s⟩
    · exact ⟨_, if_neg hr, kept_feedbackExpires s h v, onward_feedbackExpires s h v⟩
  case strokeExpiry h v => exact ⟨_, rfl, kept_strokeExpires s h v, onward_strokeExpires s h v⟩
  case containerPresentChange t h a =>
    by_cases hr : s.resetHeld
    · exact goesOn_at s t (if_pos hr) (kept_modHead _ h _ id id) (onward_modHead _ _ _)
    · exact goesOn_at s t (if_neg hr) (kept_changePresence _ h a) (onward_changePresence _ h a)
  case containerDebounceExpiry h =>
    by_cases hr : s.resetHeld
    · exact ⟨s, if_pos hr, Kept.refl s, Onward.refl s⟩
    · exact ⟨_, if_neg hr, kept_presenceExpires s h, onward_presenceExpires s h⟩
  all_goals exact goesOn_request s rfl

/-- A step keeps every safety property: the command at the front of the queue keeps it, and so does an idle step. -/
theorem kept_step {t : State} (h : step s = .next t) : Kept s t := by
  unfold step at h
  split at h
  · cases h
    exact Kept.refl s
  · next c rest _ =>
    obtain ⟨u, hu, hk, -⟩ := exec_goesOn { s with pending := rest } c
    rw [hu] at h
    cases h
    exact Kept.trans (t := { s with pending := rest }) (Kept.same rfl rfl rfl rfl rfl rfl) hk

/-! ### The statements -/

/-- Settles O1: both sides are the two branches of `step`. -/
theorem stepRunsTheFrontCommand : Obligations.StepRunsTheFrontCommand := fun _ _ _ => ⟨rfl, rfl⟩

/-- Settles O2, by `exec_goesOn`. -/
theorem everyCommandGoesOn : Obligations.EveryCommandGoesOn := by
  intro c s
  obtain ⟨t, ht, -, ho⟩ := exec_goesOn s c
  exact ⟨t, ht, ho.pending, ho.now⟩

/-- Settles O3, by `kept_step`. -/
theorem interlockIsKeptByEveryStep : Obligations.InterlockIsKeptByEveryStep := fun s _ hi ht => (kept_step s ht).interlocked hi

/-- Settles O4, by `kept_step`. -/
theorem recordPlacesAreKeptByEveryStep : Obligations.RecordPlacesAreKeptByEveryStep := fun s _ hi ht =>
  (kept_step s ht).records hi

/-- Settles O5, by `kept_step`. -/
theorem tablesAreKeptByEveryStep : Obligations.TablesAreKeptByEveryStep := fun s _ ht =>
  ⟨(kept_step s ht).memory, (kept_step s ht).segments⟩

/-- Settles O6, by `kept_step`. -/
theorem boundsAreKeptByEveryStep : Obligations.BoundsAreKeptByEveryStep := fun s _ ht =>
  ⟨(kept_step s ht).learned, (kept_step s ht).traces, (kept_step s ht).queue, (kept_step s ht).settings⟩

/-- Settles O7: every output is closed, no record is held, the memory and the map are empty, and the settings are the
defaults of R70. -/
theorem powerOnStateIsSafe : Obligations.PowerOnStateIsSafe where
  interlocked h hp := by simp [State.reset, State.head, Head.reset, Valve.reset] at hp
  recordsBounded := Nat.zero_le _
  memoryWf := Memory.wf_reset
  segmentsPlaced := by
    have empty : ∀ g : Fin 32, State.reset.tables.segments[g] = Segment.none := fun g => by simp [State.reset, Tables.reset]
    constructor
    · intro g hg; exact absurd (congrArg Segment.state (empty g)) hg
    · intro g _ _ hg; exact absurd (congrArg Segment.state (empty g)) hg
    · intro g; rw [empty]; exact iff_of_false nofun nofun
    · intro g hg; cases hg
    · intro g; rw [empty]; exact iff_of_false nofun nofun
  learnedBounded h m := by cases m <;> simp [State.reset, State.head, Head.reset, HeadRecord.reset, PerMeter.get]
  oneTraceRuns h := nomatch h.1
  queueBounded := Nat.zero_le _
  settingsInRange := rfl

end Sys2Proof.Machine
end

section
/-! Proofs about the management slot (R172 to R174): which requests are handled, how they are sifted, how an answer is written,
and what a request that the node judges leaves; the statements O26 and O27. -/

namespace Sys2Proof.Machine

open Sys2Proof

section
variable {i : Instr} {q : Envelope} {m : MgmtSlot} {s : State} {r : Answer × State}

/-! ### The slots of the request rows -/

/-- The slot of a request row is in state REQUEST, under the envelope's destination, and of a kind that is defined. -/
theorem requestOf_slot (h : requestOf i = some (q, m)) :
    m.state = 1#2 ∧ m.dest = q.dest ∧ definedRequestKind m.kind = true := by
  cases i <;> cases h <;> exact ⟨rfl, rfl, rfl⟩

/-- A request row at the node's own address leaves what its rule makes of the state at the request's time. -/
theorem exec_own (hi : requestOf i = some (q, m)) (ht : s.takesOwn q) (hr : ownRule m (s.advance q.time) = r) :
    exec i s = .next (leftBy m r) := by
  obtain ⟨hm, hd, hk⟩ := requestOf_slot hi
  rw [exec_request s hi]
  exact request_judged ht.takes hm hd hk (fun h => absurd h ht.2.2.ne_broadcast) hr

/-- The same for a request of a kind that is open to broadcast. -/
theorem exec_open (hi : requestOf i = some (q, m)) (ht : s.takes q) (hb : broadcastKind m.kind = true)
    (hr : ownRule m (s.advance q.time) = r) : exec i s = .next (leftBy m r) := by
  obtain ⟨hm, hd, hk⟩ := requestOf_slot hi
  rw [exec_request s hi]
  exact request_judged ht hm hd hk (fun _ => hb) hr

/-! ### Which slots are handled, and which are refused ahead of their own rule -/

theorem takeScheduled_of_none (h : s.resetScheduled = false) : takeScheduled s = s := by
  simp [takeScheduled, h]

theorem presentSlot_of_none (h : s.resetScheduled = false) :
    presentSlot m s = { (handleSlot m s).2 with mgmtOut := some (handleSlot m s).1 } := by
  simp only [presentSlot, takeScheduled_of_none h]

/-- R9, R172: BYPASS and BLIND answer no management slot, and no ring state one for another address. -/
theorem slotHandled_eq_false
    (h : s.ring.state = .bypass ∨ s.ring.state = .blind ∨ (m.dest ≠ 63#6 ∧ ¬s.ownAddress m.dest)) :
    slotHandled m s = false := by
  unfold slotHandled
  rcases h with h | h | ⟨hne, hno⟩
  · simp [h]
  · simp [h]
  · cases ha : s.ring.address with
    | none => simp [hne]
    | some a =>
      have : m.dest.toNat ≠ a.val := fun e => hno ⟨a, ha, e⟩
      simp [hne, this]

/-- R11: FAILED refuses every kind but NODE STATUS. -/
theorem judgeRequest_failed (hs : s.ring.state = .failed) (hk : m.kind ≠ 18#5) :
    judgeRequest m s = (Answer.refuse .refusedState, s) :=
  if_pos ⟨hs, hk⟩

/-- A kind that is not defined, or at 63 not open to broadcast, is answered with UNKNOWN_KIND (R173). -/
theorem judgeRequest_unknownKind (hs : s.judges)
    (hk : definedRequestKind m.kind = false ∨ (m.dest = 63#6 ∧ broadcastKind m.kind = false)) :
    judgeRequest m s = (Answer.refuse .unknownKind, s) := by
  unfold judgeRequest
  rw [if_neg fun h => hs.not_failed h.1]
  rcases hk with hk | ⟨hd, hk⟩
  · simp [hk]
  · simp [hd, hk]

/-- A kind outside the ten that are open to broadcast. -/
theorem broadcastKind_eq_false {k : BitVec 5} (h : k ∉ [1#5, 2#5, 3#5, 4#5, 5#5, 8#5, 10#5, 11#5, 15#5, 16#5]) :
    broadcastKind k = false := by
  revert k
  decide

theorem definedRequestKind_eq_false {k : BitVec 5} (h : k.toNat = 0 ∨ 21 < k.toNat) : definedRequestKind k = false := by
  simp only [definedRequestKind, Bool.and_eq_false_iff, decide_eq_false_iff_not]
  omega

/-- A slot that is handled and refused ahead of its own rule changes nothing but itself. -/
theorem presentSlot_refused {a : Answer} (hn : s.resetScheduled = false) (hh : slotHandled m s = true)
    (hr : judgeRequest m s = (a, s)) : presentSlot m s = { s with mgmtOut := some (replied m a) } := by
  rw [presentSlot_of_none hn, handleSlot_handled hh, hr]

/-! ### How an answer is written -/

theorem raisedCount_eq (c : Byte) : raisedCount c = BitVec.ofNat 8 (min 255 (c.toNat + 1)) := by
  revert c
  decide

/-- The six data words of an answer, those that it does not name 0 (R172). -/
theorem dataList_dataOf (ws : List Word) : dataList (dataOf ws) = (ws ++ List.replicate 6 0#32).take 6 := by
  match ws with
  | [] => rfl
  | [_] => rfl
  | [_, _] => rfl
  | [_, _, _] => rfl
  | [_, _, _, _] => rfl
  | [_, _, _, _, _] => rfl
  | _ :: _ :: _ :: _ :: _ :: _ :: _ => rfl

theorem accepts_iff {c : ResultCode} : c.accepts = true ↔ c = .done ∨ c = .accepted := by
  simp [ResultCode.accepts]

end

/-! ### The statements -/

/-- Settles O26, by `slotHandled_eq_false` and the two refusals ahead of a request's own rule. -/
theorem requestsAreSiftedByState : Obligations.RequestsAreSiftedByState := by
  refine ⟨fun i q m s hi hn => ⟨fun hs => ?_, fun hk hs hd => ?_, fun hk hs hd => ?_⟩, fun time m s hm hn hs hd hk => ?_⟩
  · obtain ⟨-, he, -⟩ := requestOf_slot hi
    rw [exec_request s hi, request, presentSlot_of_none (s := s.advance q.time) hn,
      handleSlot_unhandled (slotHandled_eq_false (s := s.advance q.time) (by rw [he]; exact hs))]
    rfl
  · obtain ⟨hm, he, -⟩ := requestOf_slot hi
    rw [exec_request s hi, request,
      presentSlot_refused (s := s.advance q.time) hn (slotHandled_of hm (.inr hs) (he ▸ hd)) (judgeRequest_failed hs hk)]
    rfl
  · obtain ⟨hm, he, -⟩ := requestOf_slot hi
    rw [exec_request s hi, request,
      presentSlot_refused (s := s.advance q.time) hn (slotHandled_of hm (.inl hs) (.inl (he.trans hd)))
        (judgeRequest_unknownKind hs (.inr ⟨he.trans hd, broadcastKind_eq_false hk⟩))]
    rfl
  · have unknown : definedRequestKind m.kind = false ∨ (m.dest = 63#6 ∧ broadcastKind m.kind = false) := by
      rcases hk with hk | hk | ⟨hd, hk⟩
      · exact .inl (definedRequestKind_eq_false (.inl hk))
      · exact .inl (definedRequestKind_eq_false (.inr hk))
      · exact .inr ⟨hd, broadcastKind_eq_false hk⟩
    exact congrArg Host.Outcome.next
      (presentSlot_refused (s := s.advance time) hn (slotHandled_of hm (.inl hs) hd) (judgeRequest_unknownKind hs unknown))

/-- Settles O27, by `dataList_dataOf` and `raisedCount_eq`. -/
theorem answersAreWrittenBySender : Obligations.AnswersAreWrittenBySender := by
  intro m s hh a out
  have hout : out = replied m a := congrArg Prod.fst (handleSlot_handled hh)
  refine ⟨fun hd => ?_, fun hd ha => ?_, fun hd hdone hacc => ?_⟩
  · rw [hout, replied, if_neg hd]
    exact ⟨rfl, rfl, dataList_dataOf a.words, rfl, rfl, rfl, rfl, rfl⟩
  · rw [hout, replied, if_pos hd, answerBroadcast, if_pos (accepts_iff.mpr ha), raisedCount_eq]
  · have hno : ¬a.result.accepts = true := fun h => (accepts_iff.mp h).elim hdone hacc
    rw [hout, replied, if_pos hd, answerBroadcast, if_neg hno, raisedCount_eq]
    rfl

end Sys2Proof.Machine
end

section
/-! Proofs about the requests on the directory, the head table, counters, totals and traces, and about the completion of a check:
the judgement of each in the manual's words, and the statements O32, O34, O35, O42 and O44. -/

namespace Sys2Proof.Machine

open Sys2Proof

/-! ### Fields of words -/

theorem toNat_append_add {n k : Nat} (x : BitVec n) (y : BitVec k) : (x ++ y).toNat = x.toNat * 2 ^ k + y.toNat := by
  rw [BitVec.toNat_append, ← Nat.shiftLeft_add_eq_or_of_lt y.isLt, Nat.shiftLeft_eq]

theorem toNat_wordOfBytes (b3 b2 b1 b0 : Byte) :
    (wordOfBytes b3 b2 b1 b0).toNat = 16777216 * b3.toNat + 65536 * b2.toNat + 256 * b1.toNat + b0.toNat := by
  simp only [wordOfBytes, toNat_append_add]
  omega

/-- The four bytes of a word, by their bits (R183). -/
theorem bits_wordOfBytes (b3 b2 b1 b0 : Byte) :
    bits (wordOfBytes b3 b2 b1 b0) 31 24 = b3.toNat ∧ bits (wordOfBytes b3 b2 b1 b0) 23 16 = b2.toNat ∧
      bits (wordOfBytes b3 b2 b1 b0) 15 8 = b1.toNat ∧ bits (wordOfBytes b3 b2 b1 b0) 7 0 = b0.toNat := by
  have := b3.isLt
  have := b2.isLt
  have := b1.isLt
  have := b0.isLt
  simp only [bits, toNat_wordOfBytes]
  omega

/-- An option word above 1 is neither option (R181). -/
theorem optionOf_beyond {w : Word} (h : 1 < w.toNat) : optionOf w = none := by
  cases ho : optionOf w with
  | none => rfl
  | some b => exact absurd (optionOf_eq_some_iff.mp ho).1 (by omega)

/-- A head number above 7 names no head. -/
theorem headOf_beyond {w : Word} (h : 7 < w.toNat) : headOf w = none := by
  rw [headOf, dif_neg (by omega)]

theorem headOf_number {w : Word} {h : HeadId} (hw : w.toNat = h.val) : headOf w = some h := headOf_eq_some_iff.mpr hw

/-! ### The completion of a check (R62) -/

/-- Settles O32: the words of the segment, from base to last word, decide between VALID and BAD. -/
theorem checkCompleteJudgesItsSegment : Obligations.CheckCompleteJudgesItsSegment := by
  intro time s
  have judged : exec (.checkComplete time) s = .next (completeCheck (s.advance time)) := rfl
  refine ⟨fun h => ?_, fun c h => ?_⟩
  · rw [judged, completeCheck, show (s.advance time).tables.check = none from h]
    rfl
  · rw [judged, completeCheck, show (s.advance time).tables.check = some c from h]
    rfl

/-! ### DIRECTORY SET (R66) -/

section
variable {m : MgmtSlot} {s : State}

theorem directoryRequest_refused
    (h : 127 < m.data.d0.toNat ∨ 1 < m.data.d1.toNat ∨
      (m.data.d1 = 1#32 ∧ (31 < m.data.d2.toNat ∨ 511 < m.data.d3.toNat))) :
    directoryRequest m s = (Answer.refuse .refusedRange, s) := by
  unfold directoryRequest
  split
  · rcases h with h | h | ⟨h1, hr⟩
    · omega
    · rw [optionOf_beyond h]
    · rw [h1]
      rcases hr with hr | hr
      · rw [segmentOf_beyond hr]
        rfl
      · cases segmentOf m.data.d2 with
        | none => rfl
        | some g => exact if_pos hr
  · rfl

theorem directoryRequest_removes {n : Fin 128} (hn : m.data.d0.toNat = n.val) (h : m.data.d1 = 0#32) :
    directoryRequest m s = (Answer.done, setDirectory n none s) := by
  have hlt : m.data.d0.toNat < 128 := hn ▸ n.isLt
  have he : (⟨m.data.d0.toNat, hlt⟩ : Fin 128) = n := Fin.ext hn
  rw [directoryRequest, dif_pos hlt, he, h]
  rfl

theorem directoryRequest_sets {n : Fin 128} {g : Fin 32} (hn : m.data.d0.toNat = n.val) (h : m.data.d1 = 1#32)
    (hg : m.data.d2.toNat = g.val) (hi : m.data.d3.toNat ≤ 511) :
    directoryRequest m s = (Answer.done, setDirectory n (some ⟨g, m.data.d3.toNat⟩) s) := by
  have hlt : m.data.d0.toNat < 128 := hn ▸ n.isLt
  have he : (⟨m.data.d0.toNat, hlt⟩ : Fin 128) = n := Fin.ext hn
  rw [directoryRequest, dif_pos hlt, he, h, segmentOf_number hg]
  exact if_neg (Nat.not_lt.mpr hi)

/-! ### HEAD SET (R68, R69) -/

theorem headSet_beyond (h : 7 < m.data.d0.toNat) : headSet m s = (Answer.refuse .refusedRange, s) := by
  rw [headSet, headOf_beyond h]

theorem headSet_place {h : HeadId} (hh : m.data.d0.toNat = h.val) (hg : m.data.d1 = 1#32) :
    headSet m s = setRecord h (placeOk m.data s) (HeadRecord.setPlace m.data) s := by
  rw [headSet, headOf_number hh]
  exact if_pos hg

theorem headSet_meters {h : HeadId} (hh : m.data.d0.toNat = h.val) (hg : m.data.d1 = 2#32) :
    headSet m s = setRecord h (metersOk m.data) (HeadRecord.setMeters m.data) s := by
  rw [headSet, headOf_number hh, hg]
  rfl

theorem headSet_afterflow {h : HeadId} (hh : m.data.d0.toNat = h.val) (hg : m.data.d1 = 3#32) :
    headSet m s = setRecord h (afterflowOk m.data) (HeadRecord.setAfterflow m.data) s := by
  rw [headSet, headOf_number hh, hg]
  rfl

theorem leftBy_setRecord (h : HeadId) (ok : Bool) (f : HeadRecord → HeadRecord) :
    leftBy m (setRecord h ok f s) =
      if (s.seq h).state ≠ .off then leftBy m (Answer.refuse .refusedState, s)
      else if ok then leftBy m (Answer.done, s.modTable h f)
      else leftBy m (Answer.refuse .refusedRange, s) := by
  simp only [setRecord, leftBy_ite]

/-- R67: group PLACE is in range exactly when each of its fields is. -/
theorem placeOk_iff {head position snift : Word} {offset gain : Half} {gas fast slow add : Byte} :
    placeOk ⟨head, 1#32, position, wordOfHalves offset gain, wordOfBytes gas fast slow add, snift⟩ s = true ↔
      position.toNat < s.settings.nPos ∧ offset.toNat ≤ 1000 ∧ 1 ≤ gain.toNat ∧ gain.toNat ≤ 20000 ∧
        ∀ ms ∈ [gas.toNat, fast.toNat, slow.toNat, add.toNat, snift.toNat], 5 ≤ ms ∧ ms ≤ 250 := by
  obtain ⟨h3, h2, h1, h0⟩ := bits_wordOfBytes gas fast slow add
  simp only [placeOk, strokesOf, upperHalf_wordOfHalves, lowerHalf_wordOfHalves, h3, h2, h1, h0, allValves, strokeOk, inRange,
    PerValve.get, List.all_cons, List.all_nil, List.forall_mem_cons, List.not_mem_nil, false_imp_iff, implies_true, Bool.and_eq_true,
    decide_eq_true_eq, Nat.zero_le, true_and, and_true, and_assoc]

/-- R67: group METERS is in range exactly when each of its fields is. -/
theorem metersOk_iff {head wMain wAdd : Word} {mainSegment mainRecord addSegment addRecord : Half} :
    metersOk ⟨head, 2#32, wMain, wAdd, wordOfHalves mainSegment mainRecord, wordOfHalves addSegment addRecord⟩ = true ↔
      (∀ w ∈ [wMain.toNat, wAdd.toNat], 1000 ≤ w ∧ w ≤ 200000) ∧ mainSegment.toNat ≤ 31 ∧ mainRecord.toNat ≤ 1023 ∧
        addSegment.toNat ≤ 31 ∧ addRecord.toNat ≤ 1023 := by
  simp only [metersOk, curveRefOf, curveRefOk, upperHalf_wordOfHalves, lowerHalf_wordOfHalves, inRange, List.forall_mem_cons,
    List.not_mem_nil, false_imp_iff, implies_true, Bool.and_eq_true, decide_eq_true_eq, Nat.zero_le, true_and, and_true, and_assoc]

theorem afterflowOk_iff {head mainMax addMax : Word} :
    afterflowOk ⟨head, 3#32, mainMax, addMax, 0#32, 0#32⟩ = true ↔ mainMax.toNat ≤ 50000000 ∧ addMax.toNat ≤ 50000000 := by
  simp only [afterflowOk, inRange, Bool.and_eq_true, decide_eq_true_eq, Nat.zero_le, true_and]

theorem setPlace_eq {head position snift : Word} {offset gain : Half} {gas fast slow add : Byte} :
    HeadRecord.setPlace ⟨head, 1#32, position, wordOfHalves offset gain, wordOfBytes gas fast slow add, snift⟩ = fun t =>
      { t with
        position := position.toNat
        offset := offset.toNat
        gain := gain.toNat
        strokes := ⟨gas.toNat, fast.toNat, slow.toNat, add.toNat, snift.toNat⟩ } := by
  obtain ⟨h3, h2, h1, h0⟩ := bits_wordOfBytes gas fast slow add
  funext t
  simp only [HeadRecord.setPlace, strokesOf, upperHalf_wordOfHalves, lowerHalf_wordOfHalves, h3, h2, h1, h0]

theorem setMeters_eq {head wMain wAdd : Word} {mainSegment mainRecord addSegment addRecord : Half} :
    HeadRecord.setMeters ⟨head, 2#32, wMain, wAdd, wordOfHalves mainSegment mainRecord, wordOfHalves addSegment addRecord⟩ =
      fun t =>
      { t with
        weight := ⟨wMain.toNat, wAdd.toNat⟩
        curve := ⟨⟨mainSegment.toNat, mainRecord.toNat⟩, ⟨addSegment.toNat, addRecord.toNat⟩⟩ } := by
  funext t
  simp only [HeadRecord.setMeters, curveRefOf, upperHalf_wordOfHalves, lowerHalf_wordOfHalves]

/-- R69: a learned afterflow above its new maximum becomes that maximum. -/
theorem setAfterflow_eq {head mainMax addMax : Word} :
    HeadRecord.setAfterflow ⟨head, 3#32, mainMax, addMax, 0#32, 0#32⟩ = fun t =>
      { t with
        afterflowMax := ⟨mainMax.toNat, addMax.toNat⟩
        learned :=
          ⟨if mainMax.toNat < t.learned.main then mainMax.toNat else t.learned.main,
            if addMax.toNat < t.learned.additive then addMax.toNat else t.learned.additive⟩ } := by
  funext t
  simp only [HeadRecord.setAfterflow, Nat.min_def]
  congr 2 <;> split_ifs <;> omega

/-! ### COUNTERS READ and TOTALS READ (R162, R164) -/

theorem totalsRequest_beyond (h : 127 < m.data.d0.toNat) : totalsRequest m s = (Answer.refuse .refusedRange, s) := by
  rw [totalsRequest, dif_neg (by omega)]

theorem totalsRequest_option (h : 1 < m.data.d1.toNat) : totalsRequest m s = (Answer.refuse .refusedRange, s) := by
  unfold totalsRequest
  split
  · rw [optionOf_beyond h]
  · rfl

theorem totalsRequest_row {k : Fin 128} (hk : m.data.d0.toNat = k.val) :
    totalsRequest m s =
      match optionOf m.data.d1 with
      | none => (Answer.refuse .refusedRange, s)
      | some false => (Answer.data (totalsWords s.totals[k]), s)
      | some true => (Answer.data (totalsWords s.totals[k]), { s with totals := s.totals.set k.val TotalsRow.zero k.isLt }) := by
  have hlt : m.data.d0.toNat < 128 := hk ▸ k.isLt
  obtain rfl : (⟨m.data.d0.toNat, hlt⟩ : Fin 128) = k := Fin.ext hk
  rw [totalsRequest, dif_pos hlt]
  rfl

/-! ### TRACE STOP and TRACE READ (R170, R171) -/

theorem stop_eq (d : Descriptor) :
    d.stop = { d with state := if d.state = .running then .stopped else if d.state = .armed then .idle else d.state } := by
  obtain ⟨state⟩ := d
  cases state <;> rfl

theorem bufferPlace_eq (b : Vector Half 512) (i : Nat) : bufferPlace b i = b.toList.getD i 0#16 := by
  unfold bufferPlace
  split
  · next h => simp [List.getD, h]
  · next h => simp [List.getD, h]

end

/-! ### The statements -/

/-- Settles O34: R66 through `directoryRequest_removes` and `directoryRequest_sets`. -/
theorem directorySetWritesTheEntry : Obligations.DirectorySetWritesTheEntry := by
  intro q recipe action segment index s ht i m
  have exec_i {r} (hr : directoryRequest m (s.advance q.time) = r) : exec i s = .next (leftBy m r) :=
    exec_open rfl ht rfl hr
  refine ⟨fun h => ?_, fun n hn => ⟨fun h => ?_, fun g h hg hi => ?_⟩⟩
  · exact exec_i (directoryRequest_refused h)
  · exact exec_i (directoryRequest_removes hn h)
  · exact exec_i (directoryRequest_sets hn h hg hi)

/-- Settles O35: each group of R68 by the ranges of its fields, AFTERFLOW with the clamp of R69. -/
theorem headSetWritesItsGroup : Obligations.HeadSetWritesItsGroup := by
  intro q head position wMain wAdd mainMax addMax offset gain gas fast slow add snift mainSegment mainRecord addSegment
    addRecord s ht i m j n k l
  have exec_i {r} (hr : headSet m (s.advance q.time) = r) : exec i s = .next (leftBy m r) := exec_own rfl ht hr
  have exec_j {r} (hr : headSet n (s.advance q.time) = r) : exec j s = .next (leftBy n r) := exec_own rfl ht hr
  have exec_k {r} (hr : headSet l (s.advance q.time) = r) : exec k s = .next (leftBy l r) := exec_own rfl ht hr
  have written (m : MgmtSlot) {h : HeadId} {f g : HeadRecord → HeadRecord} (hfg : f = g) :
      leftBy m (Answer.done, (s.advance q.time).modTable h f) = (s.modTable h g).answered q m Answer.done := by
    rw [hfg]
    rfl
  refine ⟨fun h => ⟨?_, ?_, ?_⟩, fun h hh => ⟨?_, ?_, ?_⟩⟩
  · exact exec_i (headSet_beyond h)
  · exact exec_j (headSet_beyond h)
  · exact exec_k (headSet_beyond h)
  · rw [exec_i (headSet_place hh rfl), leftBy_setRecord]
    exact congrArg _ (if_congr Iff.rfl rfl (if_congr placeOk_iff (written m setPlace_eq) rfl))
  · rw [exec_j (headSet_meters hh rfl), leftBy_setRecord]
    exact congrArg _ (if_congr Iff.rfl rfl (if_congr metersOk_iff (written n setMeters_eq) rfl))
  · rw [exec_k (headSet_afterflow hh rfl), leftBy_setRecord]
    exact congrArg _ (if_congr Iff.rfl rfl (if_congr afterflowOk_iff (written l setAfterflow_eq) rfl))

/-- Settles O42: R162 and R164 by the clear option. -/
theorem countersAndTotalsAreReadAndCleared : Obligations.CountersAndTotalsAreReadAndCleared := by
  intro q recipe clear s ht i m c a j n
  have exec_i {r} (hr : countersRequest m (s.advance q.time) = r) : exec i s = .next (leftBy m r) := exec_own rfl ht hr
  have exec_j {r} (hr : totalsRequest n (s.advance q.time) = r) : exec j s = .next (leftBy n r) := exec_own rfl ht hr
  refine ⟨fun h => ?_, fun h => ?_, fun h => ?_, fun h => ?_, fun k hk => ⟨fun h => ?_, fun h => ?_⟩⟩
  · subst h
    exact exec_i rfl
  · subst h
    exact exec_i rfl
  · exact exec_i (show countersRequest m _ = (Answer.refuse .refusedRange, s.advance q.time) by
      rw [countersRequest, show optionOf m.data.d0 = none from optionOf_beyond h])
  · exact exec_j (h.elim (fun h => totalsRequest_beyond h) fun h => totalsRequest_option h)
  · subst h
    exact exec_j (totalsRequest_row hk)
  · subst h
    exact exec_j (totalsRequest_row hk)

/-- Settles O44: R170 by `stop_eq`, R171 by `bufferPlace_eq`. -/
theorem traceStopAndTraceRead : Obligations.TraceStopAndTraceRead := by
  intro q descriptor offset s i m j n isB d place
  have known (h : descriptor.toNat ≤ 1) : optionOf descriptor = some isB := optionOf_eq_some_iff.mpr ⟨h, rfl⟩
  have exec_i {r} (ht : s.takes q) (hr : traceStopRequest m (s.advance q.time) = r) : exec i s = .next (leftBy m r) :=
    exec_open rfl ht rfl hr
  have exec_j {r} (ht : s.takesOwn q) (hr : traceReadRequest n (s.advance q.time) = r) : exec j s = .next (leftBy n r) :=
    exec_own rfl ht hr
  refine ⟨fun ht h => ?_, fun ht h => ?_, fun ht h => ?_, fun ht h ho => ?_⟩
  · exact exec_i ht (show _ = (Answer.refuse .refusedRange, s.advance q.time) by
      rw [traceStopRequest, show optionOf m.data.d0 = none from optionOf_beyond h])
  · rw [exec_i ht rfl, traceStopRequest, show optionOf m.data.d0 = some isB from known h]
    dsimp only
    rw [stop_eq]
    rfl
  · refine exec_j ht (show _ = (Answer.refuse .refusedRange, s.advance q.time) from ?_)
    rw [traceReadRequest]
    by_cases hd : 1 < descriptor.toNat
    · rw [show optionOf n.data.d0 = none from optionOf_beyond hd]
    · rw [show optionOf n.data.d0 = some isB from known (Nat.le_of_not_lt hd)]
      exact if_pos (h.resolve_left hd)
  · rw [exec_j ht rfl, traceReadRequest, show optionOf n.data.d0 = some isB from known h]
    dsimp only
    rw [if_neg (show ¬511 < n.data.d1.toNat from Nat.not_lt.mpr ho)]
    simp only [bufferWords, bufferPlace_eq]
    rfl

end Sys2Proof.Machine
end

section
/-! Proofs about the requests on heads and node that report or change a few items: HEAD CONTROL but OFF, NODE STATUS, HEAD
STATUS, NODE RESET and TEST, and the statements O38, O40, O41 and O45 to O47. -/

namespace Sys2Proof.Machine

open Sys2Proof

/-! ### Lists of heads and valves -/

theorem mem_allHeads (h : HeadId) : h ∈ allHeads := by
  revert h
  decide

theorem any_allHeads {p : HeadId → Bool} : allHeads.any p = true ↔ ∃ h, p h = true := by
  rw [List.any_eq_true]
  exact ⟨fun ⟨h, _, hp⟩ => ⟨h, hp⟩, fun ⟨h, hp⟩ => ⟨h, mem_allHeads h, hp⟩⟩

section
variable {q : Envelope} {head : Word} {h : HeadId} {s : State}

/-- What a request leaves at its own time is the changed state with the answered slot. -/
theorem leftBy_eq_answered {m : MgmtSlot} {a : Answer} {t : State} (ht : t.now = (s.advance q.time).now) :
    leftBy m (a, t) = t.answered q m a := by
  have hmax : max t.now q.time = t.now := by
    rw [ht]
    exact max_eq_left (le_max_right _ _)
  rw [leftBy, State.answered, hmax]

/-! ### HEAD CONTROL (R110 to R113) -/

/-- The slot of a HEAD CONTROL with the action. -/
def controlSlot (q : Envelope) (head action : Word) : MgmtSlot := plainSlot q 12#5 (words2 head action)

theorem headControl_beyond {action : Word} (hh : 7 < head.toNat) :
    headControl (controlSlot q head action) s = (Answer.refuse .refusedRange, s) := by
  simp only [headControl, show headOf (controlSlot q head action).data.d0 = none from headOf_beyond hh]

/-- The head and the action of the slot choose the rule. -/
theorem headControl_number {action : Word} (hh : head.toNat = h.val) :
    headControl (controlSlot q head action) s =
      match action.toNat with
      | 1 => headOn h s
      | 2 => headOff h s
      | 3 => headClear h s
      | 4 => headForget h s
      | 5 => headStepOn h s
      | 6 => headStepOff h s
      | 7 => headStep h s
      | _ => (Answer.refuse .refusedRange, s) := by
  simp only [headControl, controlSlot, plainSlot, requestSlot, words2, headOf_number hh]
  split <;> simp_all

/-- The state in which a head is free: IDLE while the ring is followed, HELD otherwise (R92). -/
theorem freeState_eq : freeState s = if s.ring.state = .locked ∨ s.ring.state = .holdover then .idle else .held := by
  unfold freeState ringServes
  cases s.ring.state <;> rfl

theorem recordUnfit_iff :
    recordUnfit h s = true ↔ (s.head h).table.weight.main = 0 ∨ (s.head h).table.weight.additive = 0 ∨
      s.settings.nPos ≤ (s.head h).table.position := by
  simp [recordUnfit, or_assoc]

theorem allClosed_iff :
    allClosed h s = true ↔ ∀ v ∈ [ValveId.gas, .fast, .slow, .add, .snift], (s.valve h v).feedback = .closed := by
  simp only [allClosed, allValves, List.all_eq_true, beq_iff_eq]

theorem headClear_eq :
    headClear h s =
      if (s.seq h).state = .fault ∧ ∀ v ∈ [ValveId.gas, .fast, .slow, .add, .snift], (s.valve h v).feedback = .closed then
        (Answer.done, s.modSeq h fun q => { q with state := freeState s, faultPending := false })
      else (Answer.refuse .refusedState, s) := by
  unfold headClear
  by_cases hf : (s.seq h).state = .fault
  · rw [if_neg (not_not_intro hf)]
    exact if_congr (allClosed_iff.trans (and_iff_right hf).symm) rfl rfl
  · rw [if_pos hf, if_neg fun h => hf h.1]

theorem modSeq_modSeq (f g : Sequencer → Sequencer) : (s.modSeq h f).modSeq h g = s.modSeq h (g ∘ f) := by
  simp [State.modSeq, State.modHead]

/-- STEP_OFF and STEP write the sequencer once before the next entry begins. -/
theorem endStepMode_eq :
    endStepMode h s =
      if (s.seq h).state = .stepHold then nextEntry h (s.modSeq h fun x => { x with stepMode := false, state := .running })
      else s.modSeq h fun x => { x with stepMode := false } := by
  unfold endStepMode
  refine if_congr Iff.rfl ?_ rfl
  rw [resumeStep, modSeq_modSeq]
  rfl

/-! ### NODE RESET (R177) -/

theorem cycleInProgress_iff :
    cycleInProgress s = true ↔ ∃ h, (s.seq h).state ∈ [HeadState.resolving, .running, .forcedSnift, .stepHold] := by
  unfold cycleInProgress
  rw [any_allHeads]
  refine exists_congr fun h => ?_
  cases (s.seq h).state <;> decide

/-! ### NODE STATUS and HEAD STATUS (R175, R176) -/

theorem headStateCode_lt (x : HeadState) : headStateCode x < 16 := by
  cases x <;> decide

/-- The eight head states stand in the word from head 0 in bits 31 to 28 on. -/
theorem headStatesWord_nibble (h : HeadId) :
    (headStatesWord s).toNat / 2 ^ (28 - 4 * h.val) % 16 = headStateCode (s.seq h).state := by
  have lt := fun k => headStateCode_lt (s.seq k).state
  have h0 := lt 0
  have h1 := lt 1
  have h2 := lt 2
  have h3 := lt 3
  have h4 := lt 4
  have h5 := lt 5
  have h6 := lt 6
  have h7 := lt 7
  simp only [headStatesWord, word, allHeads, List.foldl, BitVec.toNat_ofNat]
  fin_cases h <;> dsimp <;> omega

theorem currentVolume_eq (c : Channel) :
    currentVolume c = if c.state = .idle then 0 else if c.state = .ended then c.final else c.volume := by
  unfold currentVolume
  split <;> simp [*]

theorem rawWord_eq (c : ScanChannel) : rawWord c = BitVec.ofNat 32 (c.raw.elim 65535 BitVec.toNat) := by
  unfold rawWord
  split <;> simp [*, word]

theorem processed_eq :
    processed s = (s.pitch.sequence.elim 0#16 PitchSequence.serial, s.pitch.sequence.elim 0 PitchSequence.position) := by
  unfold processed
  split <;> simp [*]

theorem toNat_word {n : Nat} (hn : n < 4294967296) : (word n).toNat = n := by
  rw [word, BitVec.toNat_ofNat, Nat.mod_eq_of_lt hn]

theorem toNat_byte {n : Nat} (hn : n < 256) : (byte n).toNat = n := by
  rw [byte, BitVec.toNat_ofNat, Nat.mod_eq_of_lt hn]

theorem bitOf_le (b : Bool) : bitOf b ≤ 1 := by
  cases b <;> decide

theorem cycleFlagsByte_toNat (f : CycleFlags) :
    (cycleFlagsByte f).toNat = bitOf f.deadline + 2 * bitOf f.timeout + 4 * bitOf f.addErr + 8 * bitOf f.learnSkipped +
      32 * bitOf f.ringLoss + 64 * bitOf f.sniftIncomplete + 128 * bitOf f.stepMode := by
  have := bitOf_le f.deadline
  have := bitOf_le f.timeout
  have := bitOf_le f.addErr
  have := bitOf_le f.learnSkipped
  have := bitOf_le f.ringLoss
  have := bitOf_le f.sniftIncomplete
  have := bitOf_le f.stepMode
  rw [cycleFlagsByte, BitVec.toNat_ofNat]
  omega

theorem entryKindCode_eq : entryKindCode h s = (currentEntry h s).elim 0 fun e => phaseKindCode e.kind := by
  unfold entryKindCode
  split <;> simp [*]

theorem phaseKindCode_lt (k : PhaseKind) : phaseKindCode k < 256 := by
  cases k <;> decide

theorem entryKindCode_lt : entryKindCode h s < 256 := by
  rw [entryKindCode_eq]
  cases currentEntry h s with
  | none => decide
  | some e => exact phaseKindCode_lt e.kind

theorem progressCode_lt (p : Progress) : progressCode p < 256 := by
  cases p <;> decide

/-- Word 0 of part CYCLE: head state, plan index, progress and entry kind. -/
theorem cycleStatus_state (hp : (s.seq h).planIndex < 256) :
    (wordOfBytes (byte (headStateCode (s.seq h).state)) (byte (s.seq h).planIndex) (byte (progressCode (s.seq h).progress))
        (byte (entryKindCode h s))).toNat =
      16777216 * headStateCode (s.seq h).state + 65536 * (s.seq h).planIndex + 256 * progressCode (s.seq h).progress +
        (currentEntry h s).elim 0 fun e => phaseKindCode e.kind := by
  have hstate : headStateCode (s.seq h).state < 256 := (headStateCode_lt _).trans (by decide)
  rw [toNat_wordOfBytes, toNat_byte hstate, toNat_byte hp, toNat_byte (progressCode_lt _), toNat_byte entryKindCode_lt,
    entryKindCode_eq]

/-- Word 1 of part CYCLE: the flag byte above five single bits. -/
theorem cycleStatus_flags (x : Sequencer) :
    (word (256 * (cycleFlagsByte x.flags).toNat + 16 * bitOf x.stepMode + 8 * bitOf x.equalised + 4 * bitOf x.sniftBegun +
        2 * bitOf x.faultPending + bitOf x.reserved)).toNat =
      256 * (bitOf x.flags.deadline + 2 * bitOf x.flags.timeout + 4 * bitOf x.flags.addErr + 8 * bitOf x.flags.learnSkipped +
          32 * bitOf x.flags.ringLoss + 64 * bitOf x.flags.sniftIncomplete + 128 * bitOf x.flags.stepMode) +
        16 * bitOf x.stepMode + 8 * bitOf x.equalised + 4 * bitOf x.sniftBegun + 2 * bitOf x.faultPending +
        bitOf x.reserved := by
  have := (cycleFlagsByte x.flags).isLt
  have := bitOf_le x.stepMode
  have := bitOf_le x.equalised
  have := bitOf_le x.sniftBegun
  have := bitOf_le x.faultPending
  have := bitOf_le x.reserved
  rw [toNat_word (by omega), cycleFlagsByte_toNat]

/-- Word 3 of part CYCLE: the serial of the infeed entry under a bit that says that one is held. -/
theorem cycleStatus_entry (e : Option QueueEntry) :
    (word (65536 * bitOf e.isSome + (match e with | some e => e.serial.toNat | none => 0))).toNat =
      e.elim 0 fun e => 65536 + e.serial.toNat := by
  cases e with
  | none => rfl
  | some e => exact toNat_word (show 65536 + e.serial.toNat < 4294967296 by omega)

theorem headStatusRequest_beyond {part : Word} (hh : 7 < head.toNat) :
    headStatusRequest (plainSlot q 19#5 (words2 head part)) s = (Answer.refuse .refusedRange, s) := by
  simp only [headStatusRequest, plainSlot, requestSlot, words2, headOf_beyond hh]

theorem headStatusRequest_number {part : Word} (hh : head.toNat = h.val) :
    headStatusRequest (plainSlot q 19#5 (words2 head part)) s =
      match part.toNat with
      | 1 => (Answer.data (cycleStatusWords h s), s)
      | 2 => (Answer.data (valveStatusWords h s), s)
      | 3 => (Answer.data (meteringStatusWords h s), s)
      | _ => (Answer.refuse .refusedRange, s) := by
  simp only [headStatusRequest, plainSlot, requestSlot, words2, headOf_number hh]
  split <;> simp_all

/-! ### TEST (R179) -/

section
variable {m : MgmtSlot}

theorem testRequest_damage (hm : m.data.d0 = 1#32) :
    testRequest m s =
      if s.pitch.carousel = .running then (Answer.refuse .refusedState, s)
      else (Answer.done, { s with ring := { s.ring with damagePending := true } }) := by
  simp only [testRequest, hm]
  rfl

theorem testRequest_rail (hm : m.data.d0 = 2#32) (hh : m.data.d1.toNat = h.val) :
    testRequest m s =
      if s.pitch.carousel = .running then (Answer.refuse .refusedState, s)
      else (Answer.done, s.modHead h fun x => { x with forced := 2 }) := by
  simp only [testRequest, hm, headOf_number hh]
  rfl

theorem testRequest_beyond (hm : m.data.d0 = 2#32) (hh : 7 < m.data.d1.toNat) :
    testRequest m s = (Answer.refuse .refusedRange, s) := by
  simp only [testRequest, hm, headOf_beyond hh]
  rfl

end

end

/-! ### The statements -/

/-- Settles O38: R112, with the weights and the position of `recordUnfit_iff`. -/
theorem headControlOnStartsTheHead : Obligations.HeadControlOnStartsTheHead := by
  intro q head s ht
  refine ⟨fun hh p hp => ?_, fun h hh => ?_⟩
  · have refused (i : Instr) (action : Word) (hi : requestOf i = some (q, controlSlot q head action)) :
        exec i s = .next (s.answered q (controlSlot q head action) (Answer.refuse .refusedRange)) :=
      exec_own hi ht (headControl_beyond hh)
    simp only [List.mem_cons, List.not_mem_nil, or_false] at hp
    rcases hp with rfl | rfl | rfl | rfl | rfl | rfl | rfl <;> exact refused _ _ rfl
  · have rule : headControl (controlSlot q head 1#32) (s.advance q.time) = headOn h (s.advance q.time) :=
      headControl_number hh
    dsimp only
    rw [exec_own (i := .headControlOn q head) rfl ht rule]
    simp only [headOn, leftBy_ite]
    exact congrArg _ (if_congr Iff.rfl rfl (if_congr recordUnfit_iff rfl (by rw [freeState_eq]; rfl)))

/-- Settles O40: R113 by `headClear_eq`, whose levels are those of the five valves. -/
theorem headControlClearAndForget : Obligations.HeadControlClearAndForget := by
  intro q head h s ht hh m n
  have clear : headControl m (s.advance q.time) = headClear h (s.advance q.time) := headControl_number hh
  have forget : headControl n (s.advance q.time) = headForget h (s.advance q.time) := headControl_number hh
  refine ⟨?_, ?_⟩
  · rw [exec_own (i := .headControlClear q head) rfl ht clear]
    simp only [headClear_eq, leftBy_ite, freeState_eq]
    rfl
  · rw [exec_own (i := .headControlForget q head) rfl ht forget]
    simp only [headForget, leftBy_ite]
    rfl

/-- Settles O41: R110 and R111, STEP_OFF by `endStepMode_eq`. -/
theorem stepModeIsSetAndStepped : Obligations.StepModeIsSetAndStepped := by
  intro q head h s ht hh m
  have on : headControl (m 5#32) (s.advance q.time) = headStepOn h (s.advance q.time) := headControl_number hh
  have off : headControl (m 6#32) (s.advance q.time) = headStepOff h (s.advance q.time) := headControl_number hh
  have step : headControl (m 7#32) (s.advance q.time) = headStep h (s.advance q.time) := headControl_number hh
  refine ⟨?_, ?_, ?_⟩
  · rw [exec_own (i := .headControlStepOn q head) rfl ht on]
    simp only [headStepOn, leftBy_ite]
    rfl
  · rw [exec_own (i := .headControlStepOff q head) rfl ht off]
    simp only [headStepOff, endStepMode_eq, apply_ite (Prod.mk Answer.done), leftBy_ite]
    exact congrArg _ (if_congr Iff.rfl (leftBy_eq_answered (work_nextEntry _ h).now) rfl)
  · rw [exec_own (i := .headControlStep q head) rfl ht step]
    simp only [headStep, leftBy_ite]
    exact congrArg _ (if_congr Iff.rfl (leftBy_eq_answered (work_nextEntry _ h).now) rfl)

/-- NODE STATUS is answered in the three states that judge and in FAILED (R11, R172). -/
theorem exec_nodeStatus {q : Envelope} {s : State} (hn : s.resetScheduled = false) (hs : s.judges ∨ s.ring.state = .failed)
    (ha : s.ownAddress q.dest) :
    exec (.nodeStatus q) s =
      .next (s.answered q (plainSlot q 18#5 words0) (Answer.data (nodeStatusWords (s.advance q.time)))) := by
  have handled : slotHandled (plainSlot q 18#5 words0) (s.advance q.time) = true := slotHandled_of rfl hs (.inr ha)
  have judged : judgeRequest (plainSlot q 18#5 words0) (s.advance q.time) =
      (Answer.data (nodeStatusWords (s.advance q.time)), s.advance q.time) := by
    unfold judgeRequest
    rw [if_neg (fun h => h.2 rfl), if_neg (show ¬(!definedRequestKind (plainSlot q 18#5 words0).kind) = true from Bool.false_ne_true),
      if_neg (fun h => ha.ne_broadcast h.1)]
    rfl
  exact congrArg _ (presentSlot_refused (s := s.advance q.time) hn handled judged)

/-- Settles O45: the six words of R183. -/
theorem nodeStatusReportsTheNode : Obligations.NodeStatusReportsTheNode := by
  intro q s hn hs ha
  obtain ⟨a, haddr, hdest⟩ := id ha
  have address : (byte a.val : Byte) = q.dest.setWidth 8 := by
    rw [byte, ← hdest, BitVec.ofNat_toNat]
  refine ⟨_, exec_nodeStatus hn hs ha, rfl, ?_, rfl, ?_, fun h => ?_, rfl, ?_⟩
  · rw [← address]
    simp only [nodeStatusWords, show (s.advance q.time).ring.address = some a from haddr]
    rfl
  · simp only [nodeStatusWords, processed_eq]
    rfl
  · exact congrArg some (headStatesWord_nibble h)
  · simp only [nodeStatusWords, bitOf, half, mul_ite, Nat.mul_one, Nat.mul_zero]
    rfl

/-- Settles O46: the words of each part by R183. -/
theorem headStatusReportsItsPart : Obligations.HeadStatusReportsItsPart := by
  intro q head s ht m
  refine ⟨fun hh => ?_, fun h hh => ?_⟩
  · have refused (part : Word) : headStatusRequest (m part) (s.advance q.time) = (Answer.refuse .refusedRange, s.advance q.time) :=
      headStatusRequest_beyond hh
    exact ⟨exec_own (i := .headStatusCycle q head) rfl ht (refused 1#32),
      exec_own (i := .headStatusValves q head) rfl ht (refused 2#32),
      exec_own (i := .headStatusMetering q head) rfl ht (refused 3#32)⟩
  · have cycle : headStatusRequest (m 1#32) (s.advance q.time) =
        (Answer.data (cycleStatusWords h (s.advance q.time)), s.advance q.time) := headStatusRequest_number hh
    have valves : headStatusRequest (m 2#32) (s.advance q.time) =
        (Answer.data (valveStatusWords h (s.advance q.time)), s.advance q.time) := headStatusRequest_number hh
    have metering : headStatusRequest (m 3#32) (s.advance q.time) =
        (Answer.data (meteringStatusWords h (s.advance q.time)), s.advance q.time) := headStatusRequest_number hh
    refine ⟨⟨_, _, _, _, exec_own (i := .headStatusCycle q head) rfl ht cycle, fun hp => ?_, ?_, fun k he hk => ?_, fun he => ?_,
      ?_⟩, ?_, ?_⟩
    · exact cycleStatus_state (s := s.advance q.time) hp
    · exact cycleStatus_flags (s.seq h)
    · rw [show (s.advance q.time).seq h = s.seq h from rfl, show (s.seq h).elapsed = some k from he]
      exact toNat_word (show k < 4294967296 by omega)
    · rw [show (s.advance q.time).seq h = s.seq h from rfl, show (s.seq h).elapsed = none from he]
      rfl
    · exact cycleStatus_entry (s.seq h).entry
    · rw [exec_own (i := .headStatusValves q head) rfl ht valves]
      simp only [valveStatusWords, rawWord_eq]
      rfl
    · rw [exec_own (i := .headStatusMetering q head) rfl ht metering]
      simp only [meteringStatusWords, currentVolume_eq]
      rfl

/-- Settles O47: R177 by `cycleInProgress_iff`, R179 by the carousel state. -/
theorem nodeResetAndTestAreJudged : Obligations.NodeResetAndTestAreJudged := by
  intro q head s ht k m n
  refine ⟨?_, ?_, fun hh => ?_, fun h hh => ?_⟩
  · rw [exec_own (i := .nodeReset q) rfl ht (r := nodeResetRequest (s.advance q.time)) rfl, nodeResetRequest, leftBy_ite]
    exact congrArg _ (if_congr cycleInProgress_iff rfl rfl)
  · rw [exec_own (i := .testDamageNext q) rfl ht (show testRequest m (s.advance q.time) = _ from testRequest_damage rfl),
      leftBy_ite]
    rfl
  · exact exec_own (i := .testForceRail q head) rfl ht
      (show testRequest n (s.advance q.time) = _ from testRequest_beyond rfl hh)
  · rw [exec_own (i := .testForceRail q head) rfl ht
      (show testRequest n (s.advance q.time) = _ from testRequest_rail rfl hh), leftBy_ite]
    rfl

end Sys2Proof.Machine
end

section
/-! Proofs about the Outbound Record Queue as other work sees it (R154 to R157, R161, R163): what a record that is entered, an
event that is counted and an entry that is discarded leave unchanged, what they add while there is room, and the statement
O37. -/

namespace Sys2Proof.Machine

open Sys2Proof

/-! ### What the books leave unchanged -/

/-- Only records, counters and totals differ. -/
def Booked (s t : State) : Prop := t = { s with orq := t.orq, counters := t.counters, totals := t.totals }

section
variable {s t u : State}

theorem Booked.refl (s : State) : Booked s s := rfl

theorem Booked.trans (a : Booked s t) (b : Booked t u) : Booked s u := by
  have h := b
  rw [Booked, a] at h
  exact h

theorem Booked.after (b : Booked t u) (a : Booked s t) : Booked s u := a.trans b

theorem Booked.ite {p : Prop} [Decidable p] {a b : State} (ha : p → Booked s a) (hb : ¬p → Booked s b) :
    Booked s (if p then a else b) := by
  split
  · exact ha ‹_›
  · exact hb ‹_›

theorem Booked.foldl {α : Type} {f : State → α → State} (hf : ∀ s a, Booked s (f s a)) (l : List α) (s : State) :
    Booked s (l.foldl f s) := by
  induction l generalizing s with
  | nil => exact Booked.refl s
  | cons a l ih => exact (hf s a).trans (ih _)

/-- A change of other blocks commutes with the books: what stood in them before stands in them after. -/
theorem Booked.heads (h : Booked s t) : t.heads = s.heads := by rw [h]

theorem Booked.settings (h : Booked s t) : t.settings = s.settings := by rw [h]

theorem Booked.pitch (h : Booked s t) : t.pitch = s.pitch := by rw [h]

theorem Booked.queue (h : Booked s t) : t.queue = s.queue := by rw [h]

theorem Booked.now (h : Booked s t) : t.now = s.now := by rw [h]

end

section
variable (s : State)

theorem booked_loseRecord : Booked s (loseRecord s) := by
  unfold loseRecord
  dsimp only
  split_ifs <;> rfl

theorem booked_enterUnreserved (r : Record) : Booked s (enterUnreserved r s) :=
  Booked.ite (fun _ => rfl) fun _ => booked_loseRecord s

theorem booked_countEvent (c : CounterId) : Booked s (countEvent c s) :=
  Booked.ite (fun _ => (booked_enterUnreserved _ _).after (t := setCounter c 0#16 s) rfl) fun _ => rfl

theorem booked_modTotals (n : Nat) (f : TotalsRow → TotalsRow) : Booked s (modTotals n f s) := by
  unfold modTotals
  split <;> rfl

theorem booked_countNotServed (n : Nat) (reason : NotServedReason) : Booked s (countNotServed n reason s) :=
  Booked.ite (fun _ => rfl) fun _ => booked_modTotals s n _

theorem booked_discardRecord (head : Byte) (reason : NotServedReason) (e : QueueEntry) :
    Booked s (discardRecord head reason e s) :=
  Booked.ite (fun _ => (booked_enterUnreserved _ _).after (booked_countNotServed s _ _)) fun _ => rfl

theorem booked_discardRecords (reason : NotServedReason) (es : List QueueEntry) : Booked s (discardRecords reason es s) :=
  Booked.foldl (fun s e => booked_discardRecord s nodeByte reason e) es s

end

/-! ### Records that enter while there is room (R157) -/

/-- The records `rs` join at the newest end, nothing is lost and nothing is counted. -/
def Enters (rs : List Record) (s t : State) : Prop :=
  t.orq = { s.orq with records := s.orq.records ++ rs } ∧ t.counters = s.counters

/-- There is room for `n` unreserved records, and none has been lost. -/
def State.roomFor (n : Nat) (s : State) : Prop :=
  s.orq.lost = false ∧ s.orq.records.length + s.orq.reservations + n ≤ 48

section
variable {s t u : State}

theorem Enters.refl (s : State) : Enters [] s s := ⟨by rw [List.append_nil], rfl⟩

theorem Enters.trans {as bs : List Record} (a : Enters as s t) (b : Enters bs t u) : Enters (as ++ bs) s u := by
  refine ⟨?_, b.2.trans a.2⟩
  rw [b.1, a.1]
  simp only [List.append_assoc]

theorem State.roomFor.mono {n k : Nat} (h : s.roomFor n) (hk : k ≤ n) : s.roomFor k :=
  ⟨h.1, (Nat.add_le_add_left hk _).trans h.2⟩

/-- The room that is left behind records that have entered. -/
theorem Enters.roomFor {rs : List Record} {n : Nat} (e : Enters rs s t) (h : s.roomFor (rs.length + n)) : t.roomFor n := by
  refine ⟨by rw [e.1]; exact h.1, ?_⟩
  have := h.2
  rw [e.1]
  simp only [List.length_append]
  omega

theorem State.roomFor.orqRoom {n : Nat} (h : s.roomFor (n + 1)) : Machine.orqRoom s = true :=
  decide_eq_true ((Nat.add_le_add_left (Nat.le_add_left 1 n) _).trans h.2)

/-- With room, an unreserved record enters as it is. -/
theorem enterUnreserved_eq (h : s.roomFor 1) (r : Record) :
    enterUnreserved r s = { s with orq := { s.orq with records := s.orq.records ++ [r] } } := by
  have hlost := h.1
  rw [enterUnreserved, if_pos h.orqRoom, appendRecord, hlost]
  simp only [Bool.false_eq_true, if_false]
  rw [← hlost]

theorem enters_enterUnreserved (h : s.roomFor 1) (r : Record) : Enters [r] s (enterUnreserved r s) := by
  rw [enterUnreserved_eq h]
  exact ⟨rfl, rfl⟩

theorem modTotals_orq (n : Nat) (f : TotalsRow → TotalsRow) :
    (modTotals n f s).orq = s.orq ∧ (modTotals n f s).counters = s.counters := by
  unfold modTotals
  split <;> exact ⟨rfl, rfl⟩

theorem enters_countNotServed (n : Nat) (reason : NotServedReason) : Enters [] s (countNotServed n reason s) := by
  unfold countNotServed
  split
  · exact Enters.refl s
  · obtain ⟨ho, hc⟩ := modTotals_orq (s := s) n fun t =>
      { t with unservedCount := satAdd Config.maxVolume t.unservedCount 1 }
    exact ⟨by rw [List.append_nil]; exact ho, hc⟩

/-- The records of the CONTAINER entries among `es` when they are discarded (R47, R159). -/
def discardedRecords (head : Byte) (reason : NotServedReason) (es : List QueueEntry) : List Record :=
  (es.filter fun e => decide (e.kind = .container)).map fun e => notServedRecord head e.serial e.recipe reason e.position 0

theorem enters_discardRecord (head : Byte) (reason : NotServedReason) (e : QueueEntry)
    (h : s.roomFor (discardedRecords head reason [e]).length) :
    Enters (discardedRecords head reason [e]) s (discardRecord head reason e s) := by
  unfold discardRecord
  split
  · next hk =>
    have one : discardedRecords head reason [e] = [notServedRecord head e.serial e.recipe reason e.position 0] := by
      simp [discardedRecords, hk]
    rw [one] at h ⊢
    have counted := enters_countNotServed (s := s) e.recipe reason
    exact counted.trans (enters_enterUnreserved (counted.roomFor h) _)
  · next hk =>
    have none : discardedRecords head reason [e] = [] := by simp [discardedRecords, hk]
    rw [none]
    exact Enters.refl s

theorem discardedRecords_cons (head : Byte) (reason : NotServedReason) (e : QueueEntry) (es : List QueueEntry) :
    discardedRecords head reason (e :: es) = discardedRecords head reason [e] ++ discardedRecords head reason es := by
  rw [discardedRecords, discardedRecords, discardedRecords, ← List.map_append, ← List.filter_append]
  rfl

/-- R47: with room, the CONTAINER entries that are discarded together give their records in queue order. -/
theorem enters_discardRecords (reason : NotServedReason) (es : List QueueEntry) (s : State)
    (h : s.roomFor (discardedRecords nodeByte reason es).length) :
    Enters (discardedRecords nodeByte reason es) s (discardRecords reason es s) := by
  induction es generalizing s with
  | nil => exact Enters.refl s
  | cons e es ih =>
    rw [discardedRecords_cons, List.length_append] at h
    rw [discardedRecords_cons]
    have first := enters_discardRecord (s := s) nodeByte reason e (h.mono (Nat.le_add_right _ _))
    exact first.trans (ih _ (first.roomFor h))

/-! ### Totals (R163) -/

/-- A row of totals after `k` more containers that were not served. -/
def TotalsRow.unserved (k : Nat) (t : TotalsRow) : TotalsRow :=
  if k = 0 then t else { t with unservedCount := min Config.maxVolume (t.unservedCount + k) }

theorem TotalsRow.unserved_add (j k : Nat) (t : TotalsRow) : (t.unserved j).unserved k = t.unserved (j + k) := by
  by_cases hj : j = 0
  · simp [unserved, hj]
  by_cases hk : k = 0
  · simp [unserved, hk]
  · simp only [unserved, hj, hk, Nat.add_eq_zero_iff, and_self, if_false]
    congr 1
    omega

theorem modTotals_row (n : Nat) (f : TotalsRow → TotalsRow) (k : Fin 128) :
    (modTotals n f s).totals[k] = if n = k.val then f s.totals[k] else s.totals[k] := by
  unfold modTotals
  split
  · next hn =>
    split
    · next hk => subst hk; simp
    · next hk => simp [Vector.getElem_set_ne, hk]
  · next hn => rw [if_neg (by omega)]

theorem loseRecord_totals : (loseRecord s).totals = s.totals := by
  unfold loseRecord
  dsimp only
  split_ifs <;> rfl

theorem enterUnreserved_totals (r : Record) : (enterUnreserved r s).totals = s.totals := by
  unfold enterUnreserved
  split
  · rfl
  · exact loseRecord_totals

/-- How many of the entries are CONTAINER entries of a recipe. -/
def containersOf (n : Nat) (es : List QueueEntry) : Nat :=
  ((es.filter fun e => decide (e.kind = .container)).map QueueEntry.recipe).count n

theorem discardRecord_totals (head : Byte) {reason : NotServedReason} (hr : reason ≠ .unassignedContainer) (e : QueueEntry)
    (k : Fin 128) :
    (discardRecord head reason e s).totals[k] = (s.totals[k]).unserved (containersOf k.val [e]) := by
  unfold discardRecord
  split
  · next hk =>
    have row : (enterUnreserved (notServedRecord head e.serial e.recipe reason e.position 0)
        (countNotServed e.recipe reason s)).totals[k] = (countNotServed e.recipe reason s).totals[k] :=
      congrArg (fun v => v[k]) (enterUnreserved_totals _)
    rw [row, countNotServed, if_neg hr, countUnserved, modTotals_row]
    by_cases hn : e.recipe = k.val
    · simp [containersOf, TotalsRow.unserved, satAdd, hk, hn]
    · simp [containersOf, TotalsRow.unserved, hk, hn]
  · next hk => simp [containersOf, TotalsRow.unserved, hk]

theorem containersOf_cons (n : Nat) (e : QueueEntry) (es : List QueueEntry) :
    containersOf n (e :: es) = containersOf n [e] + containersOf n es := by
  rw [containersOf, containersOf, containersOf, ← List.count_append, ← List.map_append, ← List.filter_append]
  rfl

/-- R163: each discarded CONTAINER entry counts once in the row of its recipe. -/
theorem discardRecords_totals {reason : NotServedReason} (hr : reason ≠ .unassignedContainer) (es : List QueueEntry) (s : State)
    (k : Fin 128) : (discardRecords reason es s).totals[k] = (s.totals[k]).unserved (containersOf k.val es) := by
  induction es generalizing s with
  | nil => rfl
  | cons e es ih =>
    have rest := ih (discardRecord nodeByte reason e s)
    rw [discardRecord_totals nodeByte hr, TotalsRow.unserved_add, ← containersOf_cons] at rest
    exact rest

theorem TotalsRow.unserved_count (n : Nat) (l : List Nat) (t : TotalsRow) :
    t.unserved (l.count n) =
      { t with unservedCount := if n ∈ l then min 4294967295 (t.unservedCount + l.count n) else t.unservedCount } := by
  unfold unserved
  by_cases hn : n ∈ l
  · rw [if_neg (fun h => (List.count_eq_zero.mp h) hn), if_pos hn]
    rfl
  · rw [if_pos (List.count_eq_zero.mpr hn), if_neg hn]

end

/-! ### The statement -/

/-- Settles O37: the entries are discarded together, so their records and totals are those of `enters_discardRecords` and
`discardRecords_totals`. -/
theorem queueClearRecordsEveryContainer : Obligations.QueueClearRecordsEveryContainer := by
  intro q s ht cs
  let u := s.advance q.time
  let t := clearQueue .queueCleared u
  have booked : Booked { u with queue := ⟨[], true⟩ } t := booked_discardRecords _ .queueCleared s.queue.entries
  have rule : queueClearRequest u = (Answer.data [BitVec.ofNat 32 s.queue.entries.length], t) := rfl
  refine ⟨{ t with now := s.now, mgmtOut := s.mgmtOut }, ?_, ?_, ?_, fun n => ?_, fun hl hroom => ?_⟩
  · rw [exec_open (i := .queueClear q) rfl ht rfl rule]
    have hnow : t.now = max s.now q.time := booked.now
    rw [leftBy, State.answered, ← hnow]
  · exact booked.queue
  · rw [booked]
    rfl
  · exact (discardRecords_totals (by decide) s.queue.entries { u with queue := ⟨[], true⟩ } n).trans
      (TotalsRow.unserved_count _ _ _)
  · have enters := enters_discardRecords .queueCleared s.queue.entries { u with queue := ⟨[], true⟩ }
      ⟨hl, by rw [discardedRecords, List.length_map]; exact hroom⟩
    exact ⟨enters.2, enters.1⟩

end Sys2Proof.Machine
end

section
/-! Proofs about HEAD CONTROL OFF (R112, R134, R136): what closing the valves of a head leaves unchanged, which channel the
scanner takes next, and the statement O39. -/

namespace Sys2Proof.Machine

open Sys2Proof

/-! ### What work on the valves of one head leaves unchanged -/

/-- Only valves of head `h` differ. -/
structure ValveWork (h : HeadId) (s t : State) : Prop where
  node : t = { s with heads := t.heads }
  others : ∀ k, k ≠ h → t.head k = s.head k
  own : t.head h = { s.head h with valves := (t.head h).valves }

namespace ValveWork

variable {h : HeadId} {s t u : State}

theorem refl (h : HeadId) (s : State) : ValveWork h s s := ⟨rfl, fun _ _ => rfl, rfl⟩

theorem trans (a : ValveWork h s t) (b : ValveWork h t u) : ValveWork h s u := by
  refine ⟨?_, fun k hk => (b.others k hk).trans (a.others k hk), ?_⟩
  · have e := b.node
    rw [a.node] at e
    exact e
  · have e := b.own
    rw [a.own] at e
    exact e

theorem after (b : ValveWork h t u) (a : ValveWork h s t) : ValveWork h s u := a.trans b

end ValveWork

section
variable (s : State) (h : HeadId)

theorem valveWork_modValve (v : ValveId) (f : Valve → Valve) : ValveWork h s (s.modValve h v f) := by
  refine ⟨rfl, fun k hk => modHead_head_ne s h k _ hk, ?_⟩
  rw [State.modValve, modHead_head]

theorem valveWork_setOutput (v : ValveId) (o : Bool) : ValveWork h s (setOutput h v o s) := by
  unfold setOutput
  split
  · exact ValveWork.refl h s
  · exact valveWork_modValve s h v _

theorem valveWork_requestClose (v : ValveId) : ValveWork h s (requestClose h v s) :=
  (valveWork_setOutput _ h v false).after (valveWork_modValve s h v _)

theorem valveWork_closeProducts : ValveWork h s (closeProducts h s) :=
  ((valveWork_requestClose _ h .add).after (valveWork_requestClose _ h .slow)).after (valveWork_requestClose s h .fast)

theorem valveWork_closeAll : ValveWork h s (closeAll h s) :=
  ((valveWork_requestClose _ h .snift).after (valveWork_closeProducts _ h)).after (valveWork_requestClose s h .gas)

end

/-! ### The next channel of the scanner (R134) -/

/-- How many places after the pointer a channel stands, in cyclic order. -/
def ScanId.ahead (pointer x : ScanId) : Nat := (x.place + 8 - pointer.place) % 9

/-- From the place after the pointer on, the channels stand in the order of their distance. -/
theorem scanOrder_sorted (pointer : ScanId) :
    (scanOrder.rotateLeft (pointer.place + 1)).Pairwise fun x y => ScanId.ahead pointer x ≤ ScanId.ahead pointer y := by
  cases pointer with
  | bowl => decide
  | head k => revert k; decide

theorem mem_scanOrder (pointer x : ScanId) : x ∈ scanOrder.rotateLeft (pointer.place + 1) := by
  cases pointer with
  | bowl =>
    cases x with
    | bowl => decide
    | head j => revert j; decide
  | head k =>
    cases x with
    | bowl => revert k; decide
    | head j => revert j k; decide

/-- The first element that passes a test comes ahead of every other that passes it. -/
theorem find?_first {α : Type} {r : α → α → Prop} {p : α → Bool} {l : List α} {c x : α} (hl : l.Pairwise r)
    (hr : ∀ x, r x x) (hc : l.find? p = some c) (hx : x ∈ l) (hp : p x = true) : r c x := by
  obtain ⟨-, as, bs, rfl, has⟩ := List.find?_eq_some_iff_append.mp hc
  rcases List.mem_append.mp hx with hx | hx
  · have := has x hx
    simp [hp] at this
  · rcases List.mem_cons.mp hx with rfl | hx
    · exact hr x
    · exact (List.pairwise_cons.mp (List.pairwise_append.mp hl).2.1).1 x hx

/-- R134: the next channel is enabled, and no enabled one comes before it. -/
theorem nextChannel_first (s : State) :
    scanEnabled s (nextChannel s) = true ∧
      ∀ x, scanEnabled s x = true → ScanId.ahead s.scanner.pointer (nextChannel s) ≤ ScanId.ahead s.scanner.pointer x := by
  unfold nextChannel
  cases hc : (scanOrder.rotateLeft (s.scanner.pointer.place + 1)).find? (scanEnabled s) with
  | none => exact absurd (List.find?_eq_none.mp hc .bowl (mem_scanOrder _ _)) (not_not_intro rfl)
  | some c =>
    exact ⟨List.find?_some hc, fun x hx =>
      find?_first (r := fun x y => ScanId.ahead s.scanner.pointer x ≤ ScanId.ahead s.scanner.pointer y) (scanOrder_sorted _)
        (fun _ => le_refl _) hc (mem_scanOrder _ _) hx⟩

/-! ### OFF (R112, R136) -/

/-- What a request leaves at its own time, with time and slot of the state before put back where the answer sets them. -/
theorem leftBy_back {q : Envelope} {m : MgmtSlot} {a : Answer} {s t : State} (h : t.now = max s.now q.time) :
    leftBy m (a, t) = State.answered { t with now := s.now, mgmtOut := s.mgmtOut } q m a := by
  rw [leftBy, State.answered, ← h]

section
variable {s : State} {h : HeadId}

/-- A head that goes OFF, ahead of the scanner: its valves closed, its sequencer reset but for its reservation and its elapsed
count. -/
def shutHead (h : HeadId) (s : State) : State :=
  (closeAll h s).modSeq h fun q => { Sequencer.reset with state := .off, reserved := q.reserved, elapsed := q.elapsed }

/-- Every valve closes, so the interlock has nothing left to close. -/
theorem turnOff_eq : turnOff h s = abandonConversion h (shutHead h s) := by
  have dry : (closeAll h s).dry h := fun v _ => (closeAll_closed s h v).2
  rw [turnOff, clearEqualised_dry _ h dry, modSeq_modSeq]
  rfl

theorem shutHead_seq :
    (shutHead h s).seq h =
      { Sequencer.reset with state := .off, reserved := (s.seq h).reserved, elapsed := (s.seq h).elapsed } := by
  rw [shutHead, modSeq_seq, closeAll_seq]

theorem shutHead_valve (v : ValveId) : ((shutHead h s).valve h v).closed := by
  rw [shutHead, modSeq_valve]
  exact closeAll_closed s h v

theorem shutHead_node : shutHead h s = { s with heads := (shutHead h s).heads } := by
  have e := (valveWork_closeAll s h).node
  unfold shutHead
  rw [e]
  rfl

theorem shutHead_others {k : HeadId} (hk : k ≠ h) : (shutHead h s).head k = s.head k := by
  rw [shutHead, State.modSeq, modHead_head_ne _ h k _ hk]
  exact (valveWork_closeAll s h).others k hk

/-- But for sequencer and valves the head stays as it is. -/
theorem shutHead_own : { (shutHead h s).head h with seq := (s.head h).seq, valves := (s.head h).valves } = s.head h := by
  rw [shutHead, modSeq_head, (valveWork_closeAll s h).own]

theorem abandonConversion_other (hc : s.scanner.conversion.channel ≠ .head h) : abandonConversion h s = s := if_neg hc

theorem abandonConversion_bowl (hc : s.scanner.conversion.channel = .head h) (hr : s.scanner.request = true) :
    (abandonConversion h s).scanner = { s.scanner with conversion := ⟨.bowl, true, some s.now⟩, request := false } := by
  rw [abandonConversion, if_pos hc, startNext, if_pos hr]

theorem abandonConversion_next (hc : s.scanner.conversion.channel = .head h) (hr : s.scanner.request = false) :
    (abandonConversion h s).scanner =
      { s.scanner with conversion := ⟨nextChannel s, false, some s.now⟩, pointer := nextChannel s } := by
  rw [abandonConversion, if_pos hc, startNext, if_neg (by simp [hr])]

/-- Only the scanner differs, and not its bowl channel. -/
theorem abandonConversion_scanner :
    abandonConversion h s = { s with scanner := (abandonConversion h s).scanner } ∧
      (abandonConversion h s).scanner.bowl = s.scanner.bowl := by
  unfold abandonConversion startNext
  split_ifs <;> exact ⟨rfl, rfl⟩

theorem abandonConversion_heads : (abandonConversion h s).heads = s.heads := by rw [abandonConversion_scanner.1]

/-- R134 at a head that has gone OFF: the next channel is the bowl or another head that is not OFF, and none of these stands
closer behind the pointer. -/
theorem nextChannel_shut (hoff : (s.seq h).state = .off) :
    (nextChannel s = .bowl ∨ ∃ k, k ≠ h ∧ nextChannel s = .head k ∧ (s.seq k).state ≠ .off) ∧
      ScanId.ahead s.scanner.pointer (nextChannel s) ≤ ScanId.ahead s.scanner.pointer .bowl ∧
      ∀ k, (s.seq k).state ≠ .off →
        ScanId.ahead s.scanner.pointer (nextChannel s) ≤ ScanId.ahead s.scanner.pointer (.head k) := by
  obtain ⟨enabled, first⟩ := nextChannel_first s
  refine ⟨?_, first .bowl rfl, fun k hk => first (.head k) (decide_eq_true hk)⟩
  cases hc : nextChannel s with
  | bowl => exact .inl rfl
  | head k =>
    rw [hc] at enabled
    have hk : (s.seq k).state ≠ .off := of_decide_eq_true enabled
    exact .inr ⟨k, fun e => hk (e ▸ hoff), rfl, hk⟩

theorem headOff_refused (hx : (s.seq h).state = .off) : headOff h s = (Answer.refuse .refusedState, s) := by
  rw [headOff, hx]

theorem headOff_busy
    (hx : (s.seq h).state = .resolving ∨ (s.seq h).state = .running ∨ (s.seq h).state = .forcedSnift ∨
      (s.seq h).state = .stepHold) : headOff h s = (Answer.refuse .busy, s) := by
  rcases hx with hx | hx | hx | hx <;> rw [headOff, hx]

theorem headOff_done (hx : (s.seq h).state = .idle ∨ (s.seq h).state = .fault ∨ (s.seq h).state = .held) :
    headOff h s = (Answer.done, turnOff h s) := by
  rcases hx with hx | hx | hx <;> rw [headOff, hx]

end

/-! ### The statement -/

/-- Settles O39: `turnOff_eq`, and for the conversion `nextChannel_first`. -/
theorem headControlOffClosesTheHead : Obligations.HeadControlOffClosesTheHead := by
  intro q head h s ht hh i m x
  have rule {r} (hr : headOff h (s.advance q.time) = r) : exec i s = .next (leftBy m r) :=
    exec_own rfl ht (show headControl m (s.advance q.time) = r from (headControl_number hh).trans hr)
  refine ⟨fun hx => ?_, fun hx => ?_, fun hx => ?_⟩
  · exact rule (headOff_refused hx)
  · exact rule (headOff_busy hx)
  obtain ⟨u, hu⟩ : ∃ u, u = shutHead h (s.advance q.time) := ⟨_, rfl⟩
  obtain ⟨t, ht⟩ : ∃ t, t = abandonConversion h u := ⟨_, rfl⟩
  have left : exec i s = .next (leftBy m (Answer.done, t)) := by
    rw [ht, hu, ← turnOff_eq]
    exact rule (headOff_done hx)
  have unode : u = { s.advance q.time with heads := u.heads } := by
    rw [hu]
    exact shutHead_node
  obtain ⟨tnode, bowl⟩ : t = { u with scanner := t.scanner } ∧ t.scanner.bowl = u.scanner.bowl := by
    rw [ht]
    exact abandonConversion_scanner
  have scanner : u.scanner = s.scanner := by rw [unode]; rfl
  have now : u.now = max s.now q.time := by rw [unode]; rfl
  have head (k : HeadId) : t.head k = u.head k := by rw [tnode]; rfl
  have others (k : HeadId) (hk : k ≠ h) : u.head k = s.head k := by
    rw [hu]
    exact shutHead_others hk
  have off : (u.seq h).state = .off := by rw [hu, shutHead_seq]
  refine ⟨{ t with now := s.now, mgmtOut := s.mgmtOut }, ?_, ?_, fun v => ?_, ?_, fun k hk => (head k).trans (others k hk),
    bowl.trans (congrArg _ scanner), fun hc => ?_, fun hc hr => ?_, fun hc hr => ?_, ?_⟩
  · rw [left, leftBy_back (by rw [tnode]; exact now)]
  · have e : t.seq h = (shutHead h (s.advance q.time)).seq h := by rw [State.seq, head, hu]; rfl
    have reset := shutHead_seq (s := s.advance q.time) (h := h)
    rw [← e] at reset
    exact reset
  · have e : t.valve h v = (shutHead h (s.advance q.time)).valve h v := by rw [State.valve, head, hu]; rfl
    have closed := shutHead_valve (s := s.advance q.time) (h := h) v
    rw [← e] at closed
    exact ⟨closed.2, closed.1⟩
  · have e : t.head h = (shutHead h (s.advance q.time)).head h := by rw [head, hu]
    have own := shutHead_own (s := s.advance q.time) (h := h)
    rw [← e] at own
    exact own
  · have e : t = u := ht.trans (abandonConversion_other (by rw [scanner]; exact hc))
    exact (congrArg State.scanner e).trans scanner
  · have e : t.scanner = _ := (congrArg State.scanner ht).trans
      (abandonConversion_bowl (by rw [scanner]; exact hc) (by rw [scanner]; exact hr))
    rw [scanner, now] at e
    exact ⟨congrArg Scanner.conversion e, congrArg Scanner.request e, (congrArg Scanner.pointer e :)⟩
  · have e : t.scanner = _ := (congrArg State.scanner ht).trans
      (abandonConversion_next (by rw [scanner]; exact hc) (by rw [scanner]; exact hr))
    obtain ⟨served, tobowl, tohead⟩ := nextChannel_shut off
    have kept (k : HeadId) (hk : k ≠ h) : u.seq k = s.seq k := congrArg Head.seq (others k hk)
    rw [scanner] at tobowl tohead e
    rw [now] at e
    have channel : t.scanner.conversion.channel = nextChannel u := congrArg (fun x : Scanner => x.conversion.channel) e
    intro c ahead
    have hcn : c = nextChannel u := channel
    rw [hcn]
    refine ⟨congrArg Scanner.conversion e, (congrArg Scanner.request e).trans hr, congrArg Scanner.pointer e, ?_, tobowl,
      fun k hk hoff => tohead k (by rw [kept k hk]; exact hoff)⟩
    exact served.imp_right fun ⟨k, hk, hn, hoff⟩ => ⟨k, hk, hn, by rw [← kept k hk]; exact hoff⟩
  · rw [tnode, unode]
    rfl

end Sys2Proof.Machine
end

section
/-! Proofs about NODE SET (R70, R71, R36, R143, R147, R149): its tests, the candidates that a new debounce time takes, and the
statement O36. -/

namespace Sys2Proof.Machine

open Sys2Proof

/-! ### A level that is taken (R149) -/

/-- R149: what becomes of a valve whose candidate, another level than its feedback, is taken. -/
theorem takeLevel_eq (x : Valve) :
    x.takeLevel =
      if x.feedback = feedbackOf x.candidate.level then (x, false)
      else if x.output = x.candidate.level then
        ({ x with feedback := feedbackOf x.candidate.level, supervision := .idle, expiry := none }, false)
      else if x.supervision = .idle then
        ({ x with feedback := feedbackOf x.candidate.level, supervision := .faulted }, true)
      else ({ x with feedback := feedbackOf x.candidate.level }, false) := by
  have hagrees : agrees (feedbackOf x.candidate.level) x.output = true ↔ x.output = x.candidate.level := by
    cases x.candidate.level <;> cases x.output <;> simp [agrees, feedbackOf]
  unfold Valve.takeLevel
  dsimp only
  exact if_congr Iff.rfl rfl (if_congr hagrees rfl rfl)

/-- A candidate is taken if it has held for `d` ticks at time `now`; the second part says that this is a drift. -/
def Valve.retime (d now : Nat) (x : Valve) : Valve × Bool :=
  if x.candidate.since + d ≤ now then x.takeLevel else (x, false)

/-- The candidate has held and is another level than the feedback. -/
@[reducible] def Valve.retimed (d now : Nat) (x : Valve) : Prop :=
  x.candidate.since + d ≤ now ∧ x.feedback ≠ feedbackOf x.candidate.level

theorem retime_fst (d now : Nat) (x : Valve) :
    (x.retime d now).1 =
      if x.retimed d now then
        if x.output = x.candidate.level then
          { x with feedback := feedbackOf x.candidate.level, supervision := .idle, expiry := none }
        else
          { x with
            feedback := feedbackOf x.candidate.level
            supervision := if x.supervision = .idle then .faulted else x.supervision }
      else x := by
  unfold Valve.retime
  rw [takeLevel_eq]
  unfold Valve.retimed
  split_ifs <;> simp_all

theorem retime_snd (d now : Nat) (x : Valve) :
    (x.retime d now).2 = true ↔ x.retimed d now ∧ x.output ≠ x.candidate.level ∧ x.supervision = .idle := by
  unfold Valve.retime
  rw [takeLevel_eq]
  unfold Valve.retimed
  split_ifs <;> simp_all

/-- A drift is left with its level taken, and its candidate as it was. -/
theorem retime_level {d now : Nat} {x : Valve} (h : (x.retime d now).2 = true) :
    (x.retime d now).1.feedback = feedbackOf (x.retime d now).1.candidate.level ∧
      (x.retime d now).1.candidate = x.candidate := by
  unfold Valve.retime at h ⊢
  rw [takeLevel_eq] at h ⊢
  split_ifs at h ⊢
  all_goals simp_all

/-! ### A drift at a head that serves no container (R106, R151) -/

section
variable {s : State} {h : HeadId} {v : ValveId}

/-- R106: a head that is OFF or IDLE takes no notice of a valve fault. -/
theorem takeValveFault_free (hq : (s.seq h).state = .off ∨ (s.seq h).state = .idle) (k : ValveFault) :
    takeValveFault h v k s = s := by
  unfold takeValveFault
  split
  · rcases hq with hq | hq <;> cases k <;> simp [hq]
  · rfl

theorem announceFault_seq (k : ValveFault) (g : HeadId) : (announceFault h v k s).seq g = s.seq g := by
  unfold announceFault
  rw [State.seq, countEvent_head, raiseAlarm_head]
  rfl

/-- A level that is taken at such a head changes its valve, and announces a drift. -/
theorem takeFeedback_free (hq : (s.seq h).state = .off ∨ (s.seq h).state = .idle) :
    takeFeedback h v s =
      if (s.valve h v).takeLevel.2 then
        announceFault h v .drift (s.modValve h v fun _ => (s.valve h v).takeLevel.1)
      else s.modValve h v fun _ => (s.valve h v).takeLevel.1 := by
  unfold takeFeedback
  refine if_congr Iff.rfl ?_ rfl
  exact takeValveFault_free (by rw [announceFault_seq, modValve_seq]; exact hq) _

/-- The alarm of a drift (R151). -/
def driftRecord (h : HeadId) (v : ValveId) (s : State) : Record :=
  ⟨.alarm, BitVec.ofNat 8 h.val, s.pitch.sequence.elim 0#16 PitchSequence.serial, 255#8, 3#8, 0#8,
    BitVec.ofNat 32 (valveCode v), if (s.valve h v).candidate.level then 1#24 else 0#24⟩

theorem booked_announceFault (k : ValveFault) : Booked s (announceFault h v k s) :=
  (booked_countEvent _ _).after (booked_enterUnreserved s _)

theorem countEvent_eq {c : CounterId} (hc : s.counter c ≠ 65535#16) :
    countEvent c s = setCounter c (s.counter c + 1#16) s := if_neg hc

theorem alarmSerial_eq : alarmSerial s = s.pitch.sequence.elim 0#16 PitchSequence.serial := by
  unfold alarmSerial
  cases s.pitch.sequence <;> rfl

end

/-! ### The candidates that a new feedback debounce takes, valve by valve (R147, log 28) -/

/-- One valve at its new debounce time. -/
def retimeValve (s : State) (p : HeadId × ValveId) : State :=
  if feedbackDue p.1 p.2 s ≤ s.now then takeFeedback p.1 p.2 s else s

/-- The valves of the node in the order in which they are taken. -/
def valvePlaces : List (HeadId × ValveId) := allHeads.flatMap fun h => allValves.map (Prod.mk h)

theorem retimeFeedback_eq (s : State) : retimeFeedback s = valvePlaces.foldl retimeValve s := by
  rw [valvePlaces, List.foldl_flatMap]
  simp only [List.foldl_map]
  rfl

theorem mem_valvePlaces (p : HeadId × ValveId) : p ∈ valvePlaces := by
  obtain ⟨h, v⟩ := p
  revert h
  cases v <;> decide

theorem valvePlaces_nodup : valvePlaces.Nodup := by
  decide

/-- The drift records of the valves among `ps`, in their order. -/
def driftRecords (d now : Nat) (ps : List (HeadId × ValveId)) (s : State) : List Record :=
  (ps.filter fun p => ((s.valve p.1 p.2).retime d now).2).map fun p => driftRecord p.1 p.2 s

/-- State `t` comes from `s` when the valves among `ps` have been retimed, with `d` ticks at time `now`. -/
structure Retimed (d now : Nat) (ps : List (HeadId × ValveId)) (s t : State) : Prop where
  node : t = { s with heads := t.heads, orq := t.orq, counters := t.counters, totals := t.totals }
  own : ∀ h, { t.head h with valves := (s.head h).valves } = s.head h
  valves : ∀ h v, t.valve h v = if (h, v) ∈ ps then ((s.valve h v).retime d now).1 else s.valve h v
  quiet : driftRecords d now ps s = [] → t.orq = s.orq ∧ t.counters = s.counters
  booked : s.roomFor (driftRecords d now ps s).length →
    (s.counter .valveFaults).toNat + (driftRecords d now ps s).length < 65536 →
    t.orq = { s.orq with records := s.orq.records ++ driftRecords d now ps s } ∧
      t.counter .valveFaults = s.counter .valveFaults + BitVec.ofNat 16 (driftRecords d now ps s).length

theorem Retimed.nil (d now : Nat) (s : State) : Retimed d now [] s s :=
  ⟨rfl, fun _ => rfl, fun h v => (if_neg (List.not_mem_nil)).symm, fun _ => ⟨rfl, rfl⟩, fun _ _ => ⟨by simp [driftRecords], by simp [driftRecords]⟩⟩

section
variable {d now : Nat} {ps : List (HeadId × ValveId)} {s t : State} {h : HeadId} {v : ValveId}

theorem driftRecords_snoc :
    driftRecords d now (ps ++ [(h, v)]) s =
      driftRecords d now ps s ++ if ((s.valve h v).retime d now).2 then [driftRecord h v s] else [] := by
  simp only [driftRecords, List.filter_append, List.map_append]
  split <;> simp [*]

theorem modValve_self : (t.modValve h v fun _ => t.valve h v) = t := by
  have same : t.heads.set h.val { t.heads[h] with valves := t.heads[h].valves.set v (t.heads[h].valves.get v) } h.isLt = t.heads := by
    have : t.heads[h].valves.set v (t.heads[h].valves.get v) = t.heads[h].valves := by cases v <;> rfl
    rw [this]
    exact Vector.set_getElem_self _
  exact congrArg (fun x => { t with heads := x }) same

/-- One valve of a head that is OFF or IDLE: its level, and the announcement of a drift. -/
theorem retimeValve_eq (hq : (t.seq h).state = .off ∨ (t.seq h).state = .idle) :
    retimeValve t (h, v) =
      let y := (t.valve h v).retime (msTicks t.settings.feedback) t.now
      if y.2 then announceFault h v .drift (t.modValve h v fun _ => y.1) else t.modValve h v fun _ => y.1 := by
  unfold retimeValve Valve.retime feedbackDue
  dsimp only
  split
  · exact takeFeedback_free hq
  · exact modValve_self.symm

/-- With room and no wrap, a drift gives its record and counts once (R151). -/
theorem announceFault_drift (hroom : s.roomFor 1) (hcount : (s.counter .valveFaults).toNat < 65535)
    (hlevel : (s.valve h v).feedback = feedbackOf (s.valve h v).candidate.level) :
    (announceFault h v .drift s).orq = { s.orq with records := s.orq.records ++ [driftRecord h v s] } ∧
      (announceFault h v .drift s).counter .valveFaults = s.counter .valveFaults + 1#16 := by
  have hrecord : alarmRecord .valveDrift (headByte h) (valveCode v) (bitOf ((s.valve h v).feedback == .opened)) s =
      driftRecord h v s := by
    rw [alarmRecord, driftRecord, alarmSerial_eq, hlevel]
    cases (s.valve h v).candidate.level <;> rfl
  have hraise : raiseAlarm ValveFault.drift.alarm (headByte h) (valveCode v) (bitOf ((s.valve h v).feedback == .opened)) s =
      { s with orq := { s.orq with records := s.orq.records ++ [driftRecord h v s] } } := by
    rw [raiseAlarm, ← hrecord]
    exact enterUnreserved_eq hroom _
  have hne : s.counter .valveFaults ≠ 65535#16 := fun e => by rw [e] at hcount; exact absurd hcount (by decide)
  have hann : announceFault h v .drift s = setCounter .valveFaults (s.counter .valveFaults + 1#16)
      { s with orq := { s.orq with records := s.orq.records ++ [driftRecord h v s] } } := by
    rw [announceFault, hraise]
    exact countEvent_eq hne
  rw [hann]
  exact ⟨rfl, setCounter_counter _ _ _⟩

/-- One more valve of a head that is OFF or IDLE. -/
theorem Retimed.snoc (r : Retimed d now ps s t) (hd : d = msTicks s.settings.feedback) (hnow : now = s.now)
    (hq : (s.seq h).state = .off ∨ (s.seq h).state = .idle) (hp : (h, v) ∉ ps) :
    Retimed d now (ps ++ [(h, v)]) s (retimeValve t (h, v)) := by
  have hvalve : t.valve h v = s.valve h v := by rw [r.valves, if_neg hp]
  have hseq (k : HeadId) : t.seq k = s.seq k := (congrArg Head.seq (r.own k) :)
  have hsettings : t.settings = s.settings := by rw [r.node]
  have hnow' : t.now = s.now := by rw [r.node]
  have hpitch : t.pitch = s.pitch := by rw [r.node]
  obtain ⟨y, hy⟩ : ∃ y, y = (s.valve h v).retime d now := ⟨_, rfl⟩
  obtain ⟨w, hw⟩ : ∃ w, w = t.modValve h v fun _ => y.1 := ⟨_, rfl⟩
  obtain ⟨u, hu⟩ : ∃ u, u = retimeValve t (h, v) := ⟨_, rfl⟩
  have judged : u = if y.2 then announceFault h v .drift w else w := by
    rw [hu, retimeValve_eq (by rw [hseq]; exact hq), hvalve, hsettings, hnow', ← hd, ← hnow, ← hy, hw]
  have booked : Booked w u := by
    rw [judged]
    exact Booked.ite (fun _ => booked_announceFault _) fun _ => Booked.refl w
  have head (k : HeadId) : u.head k = w.head k := by rw [State.head, booked.heads]; rfl
  have hwv : w.valve h v = y.1 := by rw [hw, modValve_valve]
  rw [← hu]
  have hlist : driftRecords d now (ps ++ [(h, v)]) s =
      driftRecords d now ps s ++ if y.2 then [driftRecord h v s] else [] := by
    rw [driftRecords_snoc, ← hy]
  have horq : w.orq = t.orq := by rw [hw]; rfl
  have hcounters : w.counters = t.counters := by rw [hw]; rfl
  have hcounter : w.counter .valveFaults = t.counter .valveFaults := by
    rw [State.counter, hcounters]
    rfl
  have wnode : w = { t with heads := w.heads } := by rw [hw]; rfl
  refine ⟨?_, fun k => ?_, fun k x => ?_, fun hnone => ?_, fun hroom hcount => ?_⟩
  · have e : u = { w with orq := u.orq, counters := u.counters, totals := u.totals } := booked
    rw [wnode, r.node, ← booked.heads] at e
    exact e
  · rw [head, hw]
    by_cases hk : k = h
    · subst hk
      rw [State.modValve, modHead_head]
      exact r.own k
    · rw [State.modValve, modHead_head_ne t h k _ hk]
      exact r.own k
  · have e : u.valve k x = w.valve k x := by rw [State.valve, head]; rfl
    rw [e]
    by_cases hk : k = h ∧ x = v
    · obtain ⟨rfl, rfl⟩ := hk
      rw [hwv, if_pos (List.mem_append_right _ (List.mem_singleton.mpr rfl)), hy]
    · have hne : (k, x) ≠ (h, v) := fun e => hk (Prod.mk.inj e)
      rw [hw, modValve_valve_other t h k v x _ (not_and_or.mp hk), r.valves]
      exact if_congr (by simp [hne]) rfl rfl
  · rw [hlist, List.append_eq_nil_iff] at hnone
    have hy2 : y.2 = false := by
      by_contra hy2
      simp [hy2] at hnone
    rw [judged, hy2]
    exact ⟨horq.trans (r.quiet hnone.1).1, hcounters.trans (r.quiet hnone.1).2⟩
  · rw [hlist, List.length_append] at hroom hcount
    obtain ⟨torq, tcount⟩ := r.booked (hroom.mono (Nat.le_add_right _ _)) (by omega)
    rw [hlist]
    cases hy2 : y.2 with
    | false =>
      rw [judged, hy2]
      simp only [Bool.false_eq_true, if_false, List.append_nil]
      exact ⟨horq.trans torq, hcounter.trans tcount⟩
    | true =>
      rw [hy2] at hroom hcount
      obtain ⟨hlevel, hcand⟩ := retime_level (d := d) (now := now) (x := s.valve h v) (hy ▸ hy2)
      rw [← hy] at hlevel hcand
      have wroom : w.roomFor 1 := by
        refine ⟨by rw [horq, torq]; exact hroom.1, ?_⟩
        have := hroom.2
        rw [horq, torq]
        simp only [List.length_append, if_true, List.length_singleton] at this ⊢
        omega
      have wcount : w.counter .valveFaults = s.counter .valveFaults + BitVec.ofNat 16 (driftRecords d now ps s).length :=
        hcounter.trans tcount
      have wless : (w.counter .valveFaults).toNat < 65535 := by
        rw [wcount, BitVec.toNat_add, BitVec.toNat_ofNat]
        simp only [if_true, List.length_singleton] at hcount
        omega
      have record : driftRecord h v w = driftRecord h v s := by
        rw [driftRecord, driftRecord, hwv, hcand, wnode, ← hpitch]
      obtain ⟨uorq, ucount⟩ := announceFault_drift (h := h) (v := v) wroom wless (by rw [hwv]; exact hlevel)
      rw [judged, hy2, if_pos rfl, if_pos rfl, uorq, ucount, record, horq, torq, wcount]
      refine ⟨by simp only [List.append_assoc], ?_⟩
      rw [List.length_append, List.length_singleton, BitVec.ofNat_add, BitVec.add_assoc]

theorem Retimed.foldl (hd : d = msTicks s.settings.feedback) (hnow : now = s.now)
    (hq : ∀ h, (s.seq h).state = .off ∨ (s.seq h).state = .idle) (qs : List (HeadId × ValveId)) (hn : (ps ++ qs).Nodup)
    (r : Retimed d now ps s t) : Retimed d now (ps ++ qs) s (qs.foldl retimeValve t) := by
  induction qs generalizing ps t with
  | nil => rwa [List.append_nil]
  | cons p qs ih =>
    rw [List.append_cons] at hn ⊢
    have fresh : p ∉ ps := fun hp =>
      (List.nodup_append.mp (List.nodup_append.mp hn).1).2.2 p hp p (List.mem_singleton.mpr rfl) rfl
    exact ih hn (r.snoc hd hnow (hq p.1) fresh)

end

/-- The head of a retimed state. -/
theorem Retimed.head {d now : Nat} {s t : State} (r : Retimed d now valvePlaces s t) (h : HeadId) :
    t.head h =
      { s.head h with
        valves :=
          ⟨((s.valve h .gas).retime d now).1, ((s.valve h .fast).retime d now).1, ((s.valve h .slow).retime d now).1,
            ((s.valve h .add).retime d now).1, ((s.valve h .snift).retime d now).1⟩ } := by
  have valve (v : ValveId) : (t.head h).valves.get v = ((s.valve h v).retime d now).1 :=
    (r.valves h v).trans (if_pos (mem_valvePlaces _))
  rw [← valve .gas, ← valve .fast, ← valve .slow, ← valve .add, ← valve .snift, ← r.own h]
  rfl

/-- The drift records head by head. -/
theorem driftRecords_places (d now : Nat) (s : State) :
    driftRecords d now valvePlaces s =
      allHeads.flatMap fun h => (allValves.filter fun v => ((s.valve h v).retime d now).2).map fun v => driftRecord h v s := by
  simp only [driftRecords, valvePlaces, List.filter_flatMap, List.map_flatMap, List.filter_map, List.map_map]
  rfl

/-- R147: a new feedback debounce at heads that are OFF or IDLE. -/
theorem retimeFeedback_retimed (s : State) (hq : ∀ h, (s.seq h).state = .off ∨ (s.seq h).state = .idle) :
    Retimed (msTicks s.settings.feedback) s.now valvePlaces s (retimeFeedback s) := by
  rw [retimeFeedback_eq]
  exact (Retimed.nil _ _ s).foldl rfl rfl hq valvePlaces (by simpa using valvePlaces_nodup)

/-! ### The candidates that a new container-present debounce takes (R143) -/

/-- A head whose candidate is taken if it has held for `d` ticks at time `now`. -/
def Head.retimePresence (d now : Nat) (x : Head) : Head :=
  { x with
    presence := if x.presenceCandidate.since + d ≤ now then presenceOf x.presenceCandidate.level else x.presence }

section
variable {s t : State} {h : HeadId}

/-- The same change at each head of a list. -/
theorem foldl_modHead (g : Head → Head) (l : List HeadId) (hn : l.Nodup) (s : State) :
    l.foldl (fun s h => s.modHead h g) s = { s with heads := (l.foldl (fun s h => s.modHead h g) s).heads } ∧
      ∀ k, (l.foldl (fun s h => s.modHead h g) s).head k = if k ∈ l then g (s.head k) else s.head k := by
  induction l generalizing s with
  | nil => exact ⟨rfl, fun k => (if_neg List.not_mem_nil).symm⟩
  | cons h l ih =>
    obtain ⟨hh, hl⟩ := List.nodup_cons.mp hn
    obtain ⟨node, head⟩ := ih hl (s.modHead h g)
    refine ⟨?_, fun k => ?_⟩
    · rw [List.foldl_cons]
      exact node
    · rw [List.foldl_cons, head]
      by_cases hk : k = h
      · subst hk
        simp [hh]
      · rw [modHead_head_ne s h k g hk]
        simp [hk]

theorem retimePresence_step :
    (if presenceDue h t ≤ t.now then takePresence h t else t) =
      t.modHead h (Head.retimePresence (msTicks t.settings.presence) t.now) := by
  have kept (hnot : ¬presenceDue h t ≤ t.now) :
      t.heads.set h.val (Head.retimePresence (msTicks t.settings.presence) t.now t.heads[h]) h.isLt = t.heads := by
    have : Head.retimePresence (msTicks t.settings.presence) t.now t.heads[h] = t.heads[h] := by
      rw [Head.retimePresence, if_neg (show ¬t.heads[h].presenceCandidate.since + _ ≤ t.now from hnot)]
    rw [this]
    exact Vector.set_getElem_self _
  have taken (hdue : presenceDue h t ≤ t.now) :
      Head.retimePresence (msTicks t.settings.presence) t.now t.heads[h] =
        { t.heads[h] with presence := presenceOf t.heads[h].presenceCandidate.level } := by
    rw [Head.retimePresence, if_pos (show t.heads[h].presenceCandidate.since + _ ≤ t.now from hdue)]
  split
  · next hdue => rw [takePresence, State.modHead, State.modHead, taken hdue]
  · next hnot => exact (congrArg (fun x => { t with heads := x }) (kept hnot)).symm

theorem foldl_retimePresence (l : List HeadId) (s : State) :
    l.foldl (fun s h => if presenceDue h s ≤ s.now then takePresence h s else s) s =
      l.foldl (fun t h => t.modHead h (Head.retimePresence (msTicks s.settings.presence) s.now)) s := by
  induction l generalizing s with
  | nil => rfl
  | cons h l ih =>
    rw [List.foldl_cons, List.foldl_cons, ih, retimePresence_step]
    rfl

/-- R143: only the levels that are taken differ. -/
theorem retimePresence_heads (s : State) :
    retimePresence s = { s with heads := (retimePresence s).heads } ∧
      ∀ h, (retimePresence s).head h = (s.head h).retimePresence (msTicks s.settings.presence) s.now := by
  have fold : retimePresence s = allHeads.foldl
      (fun t h => t.modHead h (Head.retimePresence (msTicks s.settings.presence) s.now)) s := foldl_retimePresence allHeads s
  obtain ⟨node, head⟩ := foldl_modHead (Head.retimePresence (msTicks s.settings.presence) s.now) allHeads (by decide) s
  rw [← fold] at node head
  exact ⟨node, fun h => (head h).trans (if_pos (mem_allHeads h))⟩

/-! ### NODE SET judged in its order of tests (R70) -/

theorem headBusy_iff : headBusy s = true ↔ ∃ h, (s.seq h).state ≠ .off ∧ (s.seq h).state ≠ .idle := by
  unfold headBusy
  rw [any_allHeads]
  simp

theorem positionBeyond_iff {nPos : Nat} :
    positionBeyond nPos s = true ↔ ∃ h, (s.seq h).state ≠ .off ∧ nPos ≤ (s.head h).table.position := by
  unfold positionBeyond
  rw [any_allHeads]
  simp

theorem settingsOk_iff {x : Settings} :
    settingsOk x = true ↔ 2 ≤ x.nPos ∧ x.nPos ≤ 512 ∧ x.depth ∈ [16, 32, 48, 64] ∧ 2 ≤ x.holdover ∧ x.holdover ≤ 16 ∧
      x.presence ≤ 20 ∧ x.feedback ≤ 20 ∧ x.bowlOffset ≤ 1000 ∧ 1 ≤ x.bowlGain ∧ x.bowlGain ≤ 20000 := by
  simp only [settingsOk, inRange, Bool.and_eq_true, decide_eq_true_eq, List.contains_iff_mem, Nat.zero_le, true_and, and_assoc]

/-- A request that finds the node not busy finds an empty queue and every head OFF or IDLE. -/
theorem quiet_of_not_busy (h : ¬(s.queue.entries ≠ [] ∨ ∃ h, (s.seq h).state ≠ .off ∧ (s.seq h).state ≠ .idle)) :
    s.queue.entries = [] ∧ ∀ h, (s.seq h).state = .off ∨ (s.seq h).state = .idle := by
  rw [not_or, not_not, not_exists] at h
  exact ⟨h.1, fun k => by
    have := h.2 k
    tauto⟩

theorem nodeSetRequest_eq {m : MgmtSlot} :
    nodeSetRequest m s =
      if s.queue.entries ≠ [] ∨ ∃ h, (s.seq h).state ≠ .off ∧ (s.seq h).state ≠ .idle then (Answer.refuse .busy, s)
      else if settingsOk (settingsOf m.data) = true then
        if positionBeyond (settingsOf m.data).nPos s then (Answer.refuse .refusedRange, s)
        else (Answer.done, applySettings (settingsOf m.data) s)
      else (Answer.refuse .refusedRange, s) := by
  have hbusy : (headBusy s || !s.queue.entries.isEmpty) = true ↔
      s.queue.entries ≠ [] ∨ ∃ h, (s.seq h).state ≠ .off ∧ (s.seq h).state ≠ .idle := by
    rw [Bool.or_eq_true, headBusy_iff, or_comm]
    simp
  unfold nodeSetRequest
  refine if_congr hbusy rfl ?_
  cases settingsOk (settingsOf m.data) <;> rfl

theorem nodeSetRequest_busy {m : MgmtSlot}
    (h : s.queue.entries ≠ [] ∨ ∃ h, (s.seq h).state ≠ .off ∧ (s.seq h).state ≠ .idle) :
    nodeSetRequest m s = (Answer.refuse .busy, s) := by
  rw [nodeSetRequest_eq, if_pos h]

theorem nodeSetRequest_range {m : MgmtSlot}
    (h : ¬(s.queue.entries ≠ [] ∨ ∃ h, (s.seq h).state ≠ .off ∧ (s.seq h).state ≠ .idle))
    (hr : ¬settingsOk (settingsOf m.data) = true ∨ positionBeyond (settingsOf m.data).nPos s = true) :
    nodeSetRequest m s = (Answer.refuse .refusedRange, s) := by
  rw [nodeSetRequest_eq, if_neg h]
  by_cases hok : settingsOk (settingsOf m.data) = true
  · rw [if_pos hok, if_pos (hr.resolve_left (not_not_intro hok))]
  · rw [if_neg hok]

theorem nodeSetRequest_done {m : MgmtSlot}
    (h : ¬(s.queue.entries ≠ [] ∨ ∃ h, (s.seq h).state ≠ .off ∧ (s.seq h).state ≠ .idle))
    (hok : settingsOk (settingsOf m.data) = true) (hpos : ¬positionBeyond (settingsOf m.data).nPos s = true) :
    nodeSetRequest m s = (Answer.done, applySettings (settingsOf m.data) s) := by
  rw [nodeSetRequest_eq, if_neg h, if_pos hok, if_neg hpos]

/-! ### What the new settings take with them (R36, R71) -/

/-- The settings written, ahead of the candidates that they take. -/
def State.withSettings (x : Settings) (s : State) : State :=
  { s with
    settings := x
    queue := { s.queue with armed := true }
    pitch := rejudgePosition s.settings.nPos x.nPos s.pitch }

/-- The settings written, and the container-present candidates that a new debounce takes. -/
def State.withPresence (x : Settings) (s : State) : State :=
  if x.presence = s.settings.presence then s.withSettings x else retimePresence (s.withSettings x)

theorem applySettings_eq (x : Settings) :
    applySettings x s =
      if x.feedback = s.settings.feedback then s.withPresence x else retimeFeedback (s.withPresence x) := rfl

theorem withPresence_node (x : Settings) : s.withPresence x = { s.withSettings x with heads := (s.withPresence x).heads } := by
  unfold State.withPresence
  split
  · rfl
  · exact (retimePresence_heads _).1

/-- R143: the presence of a head, taken anew where the debounce has changed. -/
theorem withPresence_head (x : Settings) (h : HeadId) :
    (s.withPresence x).head h =
      { s.head h with
        presence :=
          if x.presence ≠ s.settings.presence ∧ (s.head h).presenceCandidate.since + 10000 * x.presence ≤ s.now then
            (if (s.head h).presenceCandidate.level then .present else .absent)
          else (s.head h).presence } := by
  unfold State.withPresence
  split
  · next he => rw [if_neg fun hne => hne.1 he]; rfl
  · next hne =>
    rw [(retimePresence_heads _).2, Head.retimePresence, msTicks, Nat.mul_comm]
    simp only [ne_eq, hne, not_false_eq_true, true_and]
    rfl

theorem withPresence_seq (x : Settings) (h : HeadId) : (s.withPresence x).seq h = s.seq h := by
  rw [State.seq, withPresence_head]
  rfl

theorem withPresence_valve (x : Settings) (h : HeadId) (v : ValveId) : (s.withPresence x).valve h v = s.valve h v := by
  rw [State.valve, withPresence_head]
  rfl

theorem withPresence_now (x : Settings) : (s.withPresence x).now = s.now := by
  rw [withPresence_node]
  rfl

/-- With both debounce times as before nothing else changes. -/
theorem applySettings_unchanged {x : Settings} (hp : x.presence = s.settings.presence) (hf : x.feedback = s.settings.feedback) :
    applySettings x s = s.withSettings x := by
  rw [applySettings_eq, if_pos hf, State.withPresence, if_pos hp]

/-- R147: a new feedback debounce, at heads that are OFF or IDLE. -/
theorem applySettings_retimed {x : Settings} (hq : ∀ h, (s.seq h).state = .off ∨ (s.seq h).state = .idle)
    (hf : x.feedback ≠ s.settings.feedback) :
    Retimed (msTicks x.feedback) s.now valvePlaces (s.withPresence x) (applySettings x s) := by
  have r := retimeFeedback_retimed (s.withPresence x) fun h => by rw [withPresence_seq]; exact hq h
  rw [withPresence_now, show (s.withPresence x).settings = x by rw [withPresence_node]; rfl] at r
  rw [applySettings_eq, if_neg hf]
  exact r

/-- Whatever candidates are taken, only heads, records, counters and totals follow. -/
theorem applySettings_node (x : Settings) (hq : ∀ h, (s.seq h).state = .off ∨ (s.seq h).state = .idle) :
    applySettings x s =
      { s.withSettings x with
        heads := (applySettings x s).heads
        orq := (applySettings x s).orq
        counters := (applySettings x s).counters
        totals := (applySettings x s).totals } := by
  by_cases hf : x.feedback = s.settings.feedback
  · rw [applySettings_eq, if_pos hf, withPresence_node]
  · have e := (applySettings_retimed hq hf).node
    rw [withPresence_node] at e
    exact e

end

/-! ### The statement -/

/-- Settles O36, by the tests of `nodeSetRequest_eq` and what `applySettings` makes of each block. -/
theorem nodeSetWritesAllSettings : Obligations.NodeSetWritesAllSettings := by
  intro q nPos depth holdover presence feedback bowlOffset bowlGain s ht i m new inRanges busy outside pitch beyond
  obtain ⟨u, hu⟩ : ∃ u, u = s.advance q.time := ⟨_, rfl⟩
  have hnew : settingsOf m.data = new := by
    simp only [m, new, settingsOf, plainSlot, requestSlot]
    rw [show presence ++ feedback = wordOfHalves presence feedback from rfl, upperHalf_wordOfHalves, lowerHalf_wordOfHalves]
  have rule {r} (hr : nodeSetRequest m u = r) : exec i s = .next (leftBy m r) := exec_open rfl ht rfl (hu ▸ hr)
  refine ⟨fun hb => ?_, fun hb hr => ?_, fun hb hr hbeyond => ?_⟩
  · rw [rule (nodeSetRequest_busy (by rw [hu]; exact hb)), hu]
    rfl
  · have hru : ¬settingsOk (settingsOf m.data) = true ∨ positionBeyond (settingsOf m.data).nPos u = true := by
      rw [hnew, settingsOk_iff, positionBeyond_iff, hu]
      exact hr
    rw [rule (nodeSetRequest_range (by rw [hu]; exact hb) hru), hu]
    rfl
  obtain ⟨hempty, hq⟩ := quiet_of_not_busy hb
  obtain ⟨t, htu⟩ : ∃ t, t = applySettings new u := ⟨_, rfl⟩
  have hqu (h : HeadId) : (u.seq h).state = .off ∨ (u.seq h).state = .idle := by
    rw [hu]
    exact hq h
  have node := applySettings_node new hqu
  rw [← htu] at node
  have done : exec i s = .next (State.answered { t with now := s.now, mgmtOut := s.mgmtOut } q m Answer.done) := by
    have hbu : ¬(u.queue.entries ≠ [] ∨ ∃ h, (u.seq h).state ≠ .off ∧ (u.seq h).state ≠ .idle) := by
      rw [hu]
      exact hb
    have hpos : ¬positionBeyond (settingsOf m.data).nPos u = true := by
      rw [hnew, positionBeyond_iff, hu]
      exact hbeyond
    rw [rule (nodeSetRequest_done hbu (hnew ▸ settingsOk_iff.mpr hr) hpos), hnew, ← htu, leftBy_back]
    rw [node, hu]
    rfl
  have rejudged : t.pitch = rejudgePosition s.settings.nPos nPos.toNat s.pitch := by rw [node, hu]; rfl
  refine ⟨⟨_, done, ?_, ?_, ?_, ?_⟩, fun hp hf b hbit => ?_, fun hp hf => ⟨_, done, fun h => ?_⟩, fun hf => ⟨_, done, fun h => ?_,
    fun hnone => ?_, fun hlost hroom hcount => ?_⟩⟩
  · exact (show t.settings = new by rw [node]; rfl)
  · exact (show t.queue = ⟨[], true⟩ by rw [node, hu]; exact congrArg (AssignQueue.mk · true) hempty)
  · show t.pitch = { s.pitch with lastBeyond := t.pitch.lastBeyond }
    rw [rejudged]
    exact rejudgePosition_eq _ _ _
  · show t.pitch.lastBeyond = true ↔ _
    rw [rejudged]
    exact rejudgePosition_lastBeyond _ _ _
  · have hbeq : rejudgePosition s.settings.nPos nPos.toNat s.pitch = pitch b := by
      have hb' : (rejudgePosition s.settings.nPos nPos.toNat s.pitch).lastBeyond = b :=
        Bool.eq_iff_iff.mpr ((rejudgePosition_lastBeyond _ _ _).trans hbit.symm)
      rw [rejudgePosition_eq, hb']
    have same : t = u.withSettings new := by
      rw [htu]
      exact applySettings_unchanged (by rw [hu]; exact hp) (by rw [hu]; exact hf)
    rw [done, same, State.withSettings, hu]
    show _ = Host.Outcome.next (State.answered { s with settings := new, queue := ⟨[], true⟩, pitch := pitch b } q m Answer.done)
    rw [← hbeq, ← hempty]
    rfl
  · have same : t = u.withPresence new := by
      rw [htu, applySettings_eq, if_pos (by rw [hu]; exact hf)]
    show t.head h = _
    rw [same, withPresence_head, hu]
    have hpu : new.presence ≠ (s.advance q.time).settings.presence := hp
    simp only [ne_eq, hpu, not_false_eq_true, true_and]
    rfl
  all_goals
    have r := applySettings_retimed hqu (x := new) (by rw [hu]; exact hf)
    have hnow : u.now = max s.now q.time := by rw [hu]; rfl
    rw [← htu, show msTicks new.feedback = 10000 * new.feedback from Nat.mul_comm _ _, hnow] at r
  · have hvalve (v : ValveId) : (u.withPresence new).valve h v = s.valve h v := by rw [withPresence_valve, hu]; rfl
    show t.head h = _
    rw [r.head, hvalve, hvalve, hvalve, hvalve, hvalve, withPresence_head, hu]
    simp only [retime_fst]
    rfl
  all_goals
    have records : driftRecords (10000 * new.feedback) (max s.now q.time) valvePlaces (u.withPresence new) =
        allHeads.flatMap fun h =>
          (allValves.filter fun v =>
            let x := s.valve h v
            decide ((x.candidate.since + 10000 * new.feedback ≤ max s.now q.time ∧
                x.feedback ≠ if x.candidate.level then Feedback.opened else .closed) ∧
              x.output ≠ x.candidate.level ∧ x.supervision = .idle)).map fun v =>
            (⟨.alarm, BitVec.ofNat 8 h.val, s.pitch.sequence.elim 0#16 PitchSequence.serial, 255#8, 3#8, 0#8,
              BitVec.ofNat 32 (valveCode v), if (s.valve h v).candidate.level then 1#24 else 0#24⟩ : Record) := by
      have hvalve (h : HeadId) (v : ValveId) : (u.withPresence new).valve h v = s.valve h v := by
        rw [withPresence_valve, hu]
        rfl
      have hsequence : (u.withPresence new).pitch.sequence = s.pitch.sequence := by
        rw [withPresence_node, hu]
        show (rejudgePosition _ _ _).sequence = _
        rw [rejudgePosition_eq]
        rfl
      rw [driftRecords_places]
      simp only [hvalve, driftRecord, hsequence]
      refine congrArg (List.flatMap · allHeads) (funext fun h => congrArg (List.map _) (List.filter_congr fun v _ => ?_))
      exact Bool.eq_iff_iff.mpr ((retime_snd _ _ _).trans decide_eq_true_iff.symm)
    have books : (u.withPresence new).orq = s.orq ∧ (u.withPresence new).counters = s.counters := by
      rw [withPresence_node, hu]
      exact ⟨rfl, rfl⟩
  · rw [← records] at hnone
    obtain ⟨horq, hcounters⟩ := r.quiet hnone
    exact ⟨horq.trans books.1, hcounters.trans books.2⟩
  · have hcounter : (u.withPresence new).counter .valveFaults = s.counter .valveFaults := by
      rw [State.counter, books.2]
      rfl
    rw [← records] at hroom hcount
    obtain ⟨horq, hfaults⟩ := r.booked ⟨by rw [books.1]; exact hlost, by rw [books.1]; exact hroom⟩ (by rw [hcounter]; exact hcount)
    rw [books.1, records] at horq
    rw [hcounter, records] at hfaults
    exact ⟨horq, hfaults⟩

end Sys2Proof.Machine
end

section
/-! Proofs about the 158 bytes of a frame (R180, R181): each reader takes back what its writer wrote and nothing else, and the
statement O11. -/

namespace Sys2Proof.Machine

open Sys2Proof

/-! ### Readers and writers -/

/-- A reader that takes the `n` bytes of its writer off the front, and only those. -/
structure Reads {α : Type} (n : Nat) (take : List Byte → Option (α × List Byte)) (write : α → List Byte) : Prop where
  length : ∀ x, (write x).length = n
  complete : ∀ x rest, take (write x ++ rest) = some (x, rest)
  sound : ∀ {bs x rest}, take bs = some (x, rest) → bs = write x ++ rest
  total : ∀ bs : List Byte, n ≤ bs.length → ∃ x rest, take bs = some (x, rest)

/-- With `n` bytes and more at hand, the reader leaves the rest of them. -/
theorem Reads.next {α : Type} {n : Nat} {take : List Byte → Option (α × List Byte)} {write : α → List Byte}
    (r : Reads n take write) (k : Nat) (bs : List Byte) (h : bs.length = n + k) :
    ∃ x rest, take bs = some (x, rest) ∧ rest.length = k := by
  obtain ⟨x, rest, e⟩ := r.total bs (by omega)
  refine ⟨x, rest, e, ?_⟩
  have := congrArg List.length (r.sound e)
  rw [List.length_append, r.length] at this
  omega

/-! ### Bytes, halves, triples and words -/

theorem reads_byte : Reads 1 takeByte fun b => [b] where
  length _ := rfl
  complete _ _ := rfl
  sound {bs _ _} h := by
    cases bs with
    | nil => cases h
    | cons b bs => cases h; rfl
  total bs h := by
    cases bs with
    | nil => cases h
    | cons b bs => exact ⟨b, bs, rfl⟩

theorem reads_half : Reads 2 takeHalf halfBytes where
  length _ := rfl
  complete x rest := by
    have : x.extractLsb' 8 8 ++ x.extractLsb' 0 8 = x := by
      apply BitVec.eq_of_toNat_eq
      simp only [toNat_append_add, BitVec.extractLsb'_toNat, Nat.shiftRight_eq_div_pow]
      omega
    exact congrArg (fun y => some (y, rest)) this
  sound {bs x rest} h := by
    match bs with
    | b1 :: b0 :: bs =>
      cases h
      rw [halfBytes, BitVec.extractLsb'_append_eq_left, BitVec.extractLsb'_append_eq_right]
      rfl
  total bs h := by
    match bs with
    | b1 :: b0 :: bs => exact ⟨_, _, rfl⟩

theorem tripleBytes_append (b2 b1 b0 : Byte) : tripleBytes (b2 ++ b1 ++ b0) = [b2, b1, b0] := by
  simp only [tripleBytes, List.cons.injEq, and_true]
  refine ⟨?_, ?_, ?_⟩ <;> apply BitVec.eq_of_toNat_eq
  all_goals
    simp only [toNat_append_add, BitVec.extractLsb'_toNat, Nat.shiftRight_eq_div_pow]
    omega

theorem wordBytes_append (b3 b2 b1 b0 : Byte) : wordBytes (b3 ++ b2 ++ b1 ++ b0) = [b3, b2, b1, b0] := by
  simp only [wordBytes, List.cons.injEq, and_true]
  refine ⟨?_, ?_, ?_, ?_⟩ <;> apply BitVec.eq_of_toNat_eq
  all_goals
    simp only [toNat_append_add, BitVec.extractLsb'_toNat, Nat.shiftRight_eq_div_pow]
    omega

theorem reads_triple : Reads 3 takeTriple tripleBytes where
  length _ := rfl
  complete x rest := by
    have : x.extractLsb' 16 8 ++ x.extractLsb' 8 8 ++ x.extractLsb' 0 8 = x := by
      apply BitVec.eq_of_toNat_eq
      simp only [toNat_append_add, BitVec.extractLsb'_toNat, Nat.shiftRight_eq_div_pow]
      omega
    exact congrArg (fun y => some (y, rest)) this
  sound {bs x rest} h := by
    match bs with
    | b2 :: b1 :: b0 :: bs =>
      cases h
      rw [tripleBytes_append]
      rfl
  total bs h := by
    match bs with
    | b2 :: b1 :: b0 :: bs => exact ⟨_, _, rfl⟩

theorem reads_word : Reads 4 takeWord wordBytes where
  length _ := rfl
  complete x rest := by
    have : x.extractLsb' 24 8 ++ x.extractLsb' 16 8 ++ x.extractLsb' 8 8 ++ x.extractLsb' 0 8 = x := by
      apply BitVec.eq_of_toNat_eq
      simp only [toNat_append_add, BitVec.extractLsb'_toNat, Nat.shiftRight_eq_div_pow]
      omega
    exact congrArg (fun y => some (y, rest)) this
  sound {bs x rest} h := by
    match bs with
    | b3 :: b2 :: b1 :: b0 :: bs =>
      cases h
      rw [wordBytes_append]
      rfl
  total bs h := by
    match bs with
    | b3 :: b2 :: b1 :: b0 :: bs => exact ⟨_, _, rfl⟩

theorem takeByte_cons (b : Byte) (bs : List Byte) : takeByte (b :: bs) = some (b, bs) := rfl

theorem takeByte_sound {bs rest : List Byte} {b : Byte} (h : takeByte bs = some (b, rest)) : bs = b :: rest := reads_byte.sound h

/-! ### Slots -/

theorem reads_assign : Reads 8 takeAssign assignBytes where
  length _ := rfl
  complete x rest := by
    simp only [takeAssign, assignBytes, List.append_assoc, List.cons_append, List.nil_append, takeByte_cons,
      reads_half.complete, Option.bind_eq_bind, Option.bind_some, Option.pure_def]
  sound {bs x rest} h := by
    simp only [takeAssign, Option.bind_eq_bind, Option.bind_eq_some_iff, Prod.exists, Option.pure_def, Option.some.injEq,
      Prod.mk.injEq] at h
    obtain ⟨kind, b1, e1, node, b2, e2, serial, b3, e3, position, b4, e4, recipe, b5, e5, flags, b6, e6, rfl, rfl⟩ := h
    rw [takeByte_sound e1, takeByte_sound e2, reads_half.sound e3, reads_half.sound e4, takeByte_sound e5, takeByte_sound e6]
    simp only [assignBytes, List.append_assoc, List.cons_append, List.nil_append]
  total bs h := by
    obtain ⟨k, hk⟩ := Nat.exists_eq_add_of_le h
    obtain ⟨kind, b1, e1, h1⟩ := reads_byte.next (7 + k) bs (by omega)
    obtain ⟨node, b2, e2, h2⟩ := reads_byte.next (6 + k) b1 (by omega)
    obtain ⟨serial, b3, e3, h3⟩ := reads_half.next (4 + k) b2 (by omega)
    obtain ⟨position, b4, e4, h4⟩ := reads_half.next (2 + k) b3 (by omega)
    obtain ⟨recipe, b5, e5, h5⟩ := reads_byte.next (1 + k) b4 (by omega)
    obtain ⟨flags, b6, e6, h6⟩ := reads_byte.next k b5 (by omega)
    exact ⟨⟨kind, node, serial, position, recipe, flags⟩, b6, by
      simp only [takeAssign, e1, e2, e3, e4, e5, e6, Option.bind_eq_bind, Option.bind_some, Option.pure_def]⟩

theorem reads_data : Reads 24 takeData dataBytes where
  length _ := rfl
  complete x rest := by
    simp only [takeData, dataBytes, List.append_assoc, reads_word.complete, Option.bind_eq_bind, Option.bind_some,
      Option.pure_def]
  sound {bs x rest} h := by
    simp only [takeData, Option.bind_eq_bind, Option.bind_eq_some_iff, Prod.exists, Option.pure_def, Option.some.injEq,
      Prod.mk.injEq] at h
    obtain ⟨d0, b1, e1, d1, b2, e2, d2, b3, e3, d3, b4, e4, d4, b5, e5, d5, b6, e6, rfl, rfl⟩ := h
    rw [reads_word.sound e1, reads_word.sound e2, reads_word.sound e3, reads_word.sound e4, reads_word.sound e5,
      reads_word.sound e6]
    simp only [dataBytes, List.append_assoc]
  total bs h := by
    obtain ⟨k, hk⟩ := Nat.exists_eq_add_of_le h
    obtain ⟨d0, b1, e1, h1⟩ := reads_word.next (20 + k) bs (by omega)
    obtain ⟨d1, b2, e2, h2⟩ := reads_word.next (16 + k) b1 (by omega)
    obtain ⟨d2, b3, e3, h3⟩ := reads_word.next (12 + k) b2 (by omega)
    obtain ⟨d3, b4, e4, h4⟩ := reads_word.next (8 + k) b3 (by omega)
    obtain ⟨d4, b5, e5, h5⟩ := reads_word.next (4 + k) b4 (by omega)
    obtain ⟨d5, b6, e6, h6⟩ := reads_word.next k b5 (by omega)
    exact ⟨⟨d0, d1, d2, d3, d4, d5⟩, b6, by
      simp only [takeData, e1, e2, e3, e4, e5, e6, Option.bind_eq_bind, Option.bind_some, Option.pure_def]⟩

theorem joinBits_2_6 (x : BitVec 2) (y : BitVec 6) :
    (x ++ y : Byte).extractLsb' 6 2 = x ∧ (x ++ y : Byte).extractLsb' 0 6 = y :=
  ⟨BitVec.extractLsb'_append_eq_left, BitVec.extractLsb'_append_eq_right⟩

theorem splitBits_2_6 (b : Byte) : (b.extractLsb' 6 2 ++ b.extractLsb' 0 6 : Byte) = b := by
  apply BitVec.eq_of_toNat_eq
  simp only [toNat_append_add, BitVec.extractLsb'_toNat, Nat.shiftRight_eq_div_pow]
  omega

theorem joinBits_3_5 (x : BitVec 3) (y : BitVec 5) :
    (x ++ y : Byte).extractLsb' 5 3 = x ∧ (x ++ y : Byte).extractLsb' 0 5 = y :=
  ⟨BitVec.extractLsb'_append_eq_left, BitVec.extractLsb'_append_eq_right⟩

theorem splitBits_3_5 (b : Byte) : (b.extractLsb' 5 3 ++ b.extractLsb' 0 5 : Byte) = b := by
  apply BitVec.eq_of_toNat_eq
  simp only [toNat_append_add, BitVec.extractLsb'_toNat, Nat.shiftRight_eq_div_pow]
  omega

theorem takeMgmt_cons (c0 c1 tag result ack refuse : Byte) (bs : List Byte) :
    takeMgmt (c0 :: c1 :: tag :: result :: ack :: refuse :: bs) =
      (takeHalf bs).bind fun p => (takeData p.2).bind fun d =>
        some (⟨c0.extractLsb' 6 2, c0.extractLsb' 0 6, c1.extractLsb' 0 5, c1.extractLsb' 5 3, tag, result, ack, refuse, p.1,
          d.1⟩, d.2) := rfl

theorem reads_mgmt : Reads 32 takeMgmt mgmtBytes where
  length _ := rfl
  complete x rest := by
    rw [mgmtBytes, List.append_assoc, List.append_assoc]
    refine (takeMgmt_cons (x.state ++ x.dest) (x.count ++ x.kind) x.tag x.result x.ack x.refuse
      (halfBytes x.param ++ (dataBytes x.data ++ rest))).trans ?_
    rw [reads_half.complete, Option.bind_some, reads_data.complete, Option.bind_some, (joinBits_2_6 _ _).1, (joinBits_2_6 _ _).2,
      (joinBits_3_5 _ _).1, (joinBits_3_5 _ _).2]
  sound {bs x rest} h := by
    simp only [takeMgmt, Option.bind_eq_bind, Option.bind_eq_some_iff, Prod.exists, Option.pure_def, Option.some.injEq,
      Prod.mk.injEq] at h
    obtain ⟨c0, b1, e1, c1, b2, e2, tag, b3, e3, result, b4, e4, ack, b5, e5, refuse, b6, e6, param, b7, e7, data, b8, e8,
      rfl, rfl⟩ := h
    rw [takeByte_sound e1, takeByte_sound e2, takeByte_sound e3, takeByte_sound e4, takeByte_sound e5, takeByte_sound e6,
      reads_half.sound e7, reads_data.sound e8]
    simp only [mgmtBytes, List.append_assoc, List.cons_append, List.nil_append, splitBits_2_6, splitBits_3_5]
  total bs h := by
    obtain ⟨k, hk⟩ := Nat.exists_eq_add_of_le h
    obtain ⟨c0, b1, e1, h1⟩ := reads_byte.next (31 + k) bs (by omega)
    obtain ⟨c1, b2, e2, h2⟩ := reads_byte.next (30 + k) b1 (by omega)
    obtain ⟨tag, b3, e3, h3⟩ := reads_byte.next (29 + k) b2 (by omega)
    obtain ⟨result, b4, e4, h4⟩ := reads_byte.next (28 + k) b3 (by omega)
    obtain ⟨ack, b5, e5, h5⟩ := reads_byte.next (27 + k) b4 (by omega)
    obtain ⟨refuse, b6, e6, h6⟩ := reads_byte.next (26 + k) b5 (by omega)
    obtain ⟨param, b7, e7, h7⟩ := reads_half.next (24 + k) b6 (by omega)
    obtain ⟨data, b8, e8, h8⟩ := reads_data.next k b7 (by omega)
    exact ⟨_, b8, by
      simp only [takeMgmt, e1, e2, e3, e4, e5, e6, e7, e8, Option.bind_eq_bind, Option.bind_some, Option.pure_def]; rfl⟩

theorem reads_result : Reads 15 takeResult resultBytes where
  length _ := rfl
  complete x rest := by
    simp only [takeResult, resultBytes, List.append_assoc, List.cons_append, List.nil_append, takeByte_cons,
      reads_half.complete, reads_word.complete, reads_triple.complete, Option.bind_eq_bind, Option.bind_some, Option.pure_def]
  sound {bs x rest} h := by
    simp only [takeResult, Option.bind_eq_bind, Option.bind_eq_some_iff, Prod.exists, Option.pure_def, Option.some.injEq,
      Prod.mk.injEq] at h
    obtain ⟨kind, b1, e1, node, b2, e2, head, b3, e3, serial, b4, e4, recipe, b5, e5, code, b6, e6, flags, b7, e7, valueA, b8,
      e8, valueB, b9, e9, rfl, rfl⟩ := h
    rw [takeByte_sound e1, takeByte_sound e2, takeByte_sound e3, reads_half.sound e4, takeByte_sound e5, takeByte_sound e6,
      takeByte_sound e7, reads_word.sound e8, reads_triple.sound e9]
    simp only [resultBytes, List.append_assoc, List.cons_append, List.nil_append]
  total bs h := by
    obtain ⟨k, hk⟩ := Nat.exists_eq_add_of_le h
    obtain ⟨kind, b1, e1, h1⟩ := reads_byte.next (14 + k) bs (by omega)
    obtain ⟨node, b2, e2, h2⟩ := reads_byte.next (13 + k) b1 (by omega)
    obtain ⟨head, b3, e3, h3⟩ := reads_byte.next (12 + k) b2 (by omega)
    obtain ⟨serial, b4, e4, h4⟩ := reads_half.next (10 + k) b3 (by omega)
    obtain ⟨recipe, b5, e5, h5⟩ := reads_byte.next (9 + k) b4 (by omega)
    obtain ⟨code, b6, e6, h6⟩ := reads_byte.next (8 + k) b5 (by omega)
    obtain ⟨flags, b7, e7, h7⟩ := reads_byte.next (7 + k) b6 (by omega)
    obtain ⟨valueA, b8, e8, h8⟩ := reads_word.next (3 + k) b7 (by omega)
    obtain ⟨valueB, b9, e9, h9⟩ := reads_triple.next k b8 (by omega)
    exact ⟨⟨kind, node, head, serial, recipe, code, flags, valueA, valueB⟩, b9, by
      simp only [takeResult, e1, e2, e3, e4, e5, e6, e7, e8, e9, Option.bind_eq_bind, Option.bind_some, Option.pure_def]⟩

/-! ### Frames -/

theorem length_frameBytes (f : Frame) : (frameBytes f).length = 158 := by
  simp only [frameBytes, frameContent, headerBytes, List.length_append, List.length_cons, List.length_nil, reads_half.length,
    reads_word.length, reads_assign.length, reads_mgmt.length, reads_result.length]

/-- The readers of a frame, one after the other. -/
theorem frameOfBytes_chain {bs b1 b2 b3 b4 b5 b6 b7 b8 b9 b10 b11 b12 b13 b14 b15 b16 b17 b18 b19 : List Byte} {f : Frame}
    (e1 : takeByte bs = some (f.kind, b1)) (e2 : takeByte b1 = some (f.hop, b2)) (e3 : takeHalf b2 = some (f.serial, b3))
    (e4 : takeHalf b3 = some (f.position, b4)) (e5 : takeByte b4 = some (f.carousel, b5))
    (e6 : takeByte b5 = some (f.damage, b6)) (e7 : takeWord b6 = some (f.attention, b7))
    (e8 : takeWord b7 = some (f.spare, b8)) (e9 : takeAssign b8 = some (f.a0, b9)) (e10 : takeAssign b9 = some (f.a1, b10))
    (e11 : takeAssign b10 = some (f.a2, b11)) (e12 : takeAssign b11 = some (f.a3, b12))
    (e13 : takeAssign b12 = some (f.a4, b13)) (e14 : takeAssign b13 = some (f.a5, b14))
    (e15 : takeMgmt b14 = some (f.mgmt, b15)) (e16 : takeResult b15 = some (f.r0, b16))
    (e17 : takeResult b16 = some (f.r1, b17)) (e18 : takeResult b17 = some (f.r2, b18))
    (e19 : takeResult b18 = some (f.r3, b19)) (e20 : takeHalf b19 = some (f.check, [])) : frameOfBytes bs = some f := by
  have step {α β : Type} {o : Option α} {x : α} {y : β} {g : α → Option β} (e : o = some x) (h : g x = some y) :
      (o >>= g) = some y := Option.bind_eq_some_iff.mpr ⟨x, e, h⟩
  exact step e1 <| step e2 <| step e3 <| step e4 <| step e5 <| step e6 <| step e7 <| step e8 <| step e9 <| step e10 <|
    step e11 <| step e12 <| step e13 <| step e14 <| step e15 <| step e16 <| step e17 <| step e18 <| step e19 <| step e20 rfl

theorem frameOfBytes_frameBytes (f : Frame) : frameOfBytes (frameBytes f) = some f := by
  have header (bs : List Byte) : headerBytes f ++ bs =
      f.kind :: f.hop :: (halfBytes f.serial ++ (halfBytes f.position ++ (f.carousel :: f.damage ::
        (wordBytes f.attention ++ (wordBytes f.spare ++ bs))))) := by
    simp only [headerBytes, List.append_assoc, List.cons_append, List.nil_append]
  have slots : frameBytes f = headerBytes f ++ (assignBytes f.a0 ++ (assignBytes f.a1 ++ (assignBytes f.a2 ++
      (assignBytes f.a3 ++ (assignBytes f.a4 ++ (assignBytes f.a5 ++ (mgmtBytes f.mgmt ++ (resultBytes f.r0 ++
        (resultBytes f.r1 ++ (resultBytes f.r2 ++ (resultBytes f.r3 ++ (halfBytes f.check ++ [])))))))))))) := by
    rw [List.append_nil, frameBytes, frameContent]
    simp only [List.append_assoc]
  rw [slots, header]
  exact frameOfBytes_chain rfl rfl (reads_half.complete _ _) (reads_half.complete _ _) rfl rfl (reads_word.complete _ _)
    (reads_word.complete _ _) (reads_assign.complete _ _) (reads_assign.complete _ _) (reads_assign.complete _ _)
    (reads_assign.complete _ _) (reads_assign.complete _ _) (reads_assign.complete _ _) (reads_mgmt.complete _ _)
    (reads_result.complete _ _) (reads_result.complete _ _) (reads_result.complete _ _) (reads_result.complete _ _)
    (reads_half.complete _ _)

theorem frameOfBytes_sound {bs : List Byte} {f : Frame} (h : frameOfBytes bs = some f) : bs = frameBytes f := by
  obtain ⟨⟨kind, b1⟩, e1, h⟩ := Option.bind_eq_some_iff.mp h
  obtain ⟨⟨hop, b2⟩, e2, h⟩ := Option.bind_eq_some_iff.mp h
  obtain ⟨⟨serial, b3⟩, e3, h⟩ := Option.bind_eq_some_iff.mp h
  obtain ⟨⟨position, b4⟩, e4, h⟩ := Option.bind_eq_some_iff.mp h
  obtain ⟨⟨carousel, b5⟩, e5, h⟩ := Option.bind_eq_some_iff.mp h
  obtain ⟨⟨damage, b6⟩, e6, h⟩ := Option.bind_eq_some_iff.mp h
  obtain ⟨⟨attention, b7⟩, e7, h⟩ := Option.bind_eq_some_iff.mp h
  obtain ⟨⟨spare, b8⟩, e8, h⟩ := Option.bind_eq_some_iff.mp h
  obtain ⟨⟨a0, b9⟩, e9, h⟩ := Option.bind_eq_some_iff.mp h
  obtain ⟨⟨a1, b10⟩, e10, h⟩ := Option.bind_eq_some_iff.mp h
  obtain ⟨⟨a2, b11⟩, e11, h⟩ := Option.bind_eq_some_iff.mp h
  obtain ⟨⟨a3, b12⟩, e12, h⟩ := Option.bind_eq_some_iff.mp h
  obtain ⟨⟨a4, b13⟩, e13, h⟩ := Option.bind_eq_some_iff.mp h
  obtain ⟨⟨a5, b14⟩, e14, h⟩ := Option.bind_eq_some_iff.mp h
  obtain ⟨⟨mgmt, b15⟩, e15, h⟩ := Option.bind_eq_some_iff.mp h
  obtain ⟨⟨r0, b16⟩, e16, h⟩ := Option.bind_eq_some_iff.mp h
  obtain ⟨⟨r1, b17⟩, e17, h⟩ := Option.bind_eq_some_iff.mp h
  obtain ⟨⟨r2, b18⟩, e18, h⟩ := Option.bind_eq_some_iff.mp h
  obtain ⟨⟨r3, b19⟩, e19, h⟩ := Option.bind_eq_some_iff.mp h
  obtain ⟨⟨check, b20⟩, e20, h⟩ := Option.bind_eq_some_iff.mp h
  cases b20 with
  | cons b bs => cases h
  | nil =>
    cases h
    rw [takeByte_sound e1, takeByte_sound e2, reads_half.sound e3, reads_half.sound e4, takeByte_sound e5, takeByte_sound e6,
      reads_word.sound e7, reads_word.sound e8, reads_assign.sound e9, reads_assign.sound e10, reads_assign.sound e11,
      reads_assign.sound e12, reads_assign.sound e13, reads_assign.sound e14, reads_mgmt.sound e15, reads_result.sound e16,
      reads_result.sound e17, reads_result.sound e18, reads_result.sound e19, reads_half.sound e20]
    simp only [frameBytes, frameContent, headerBytes, List.append_assoc, List.cons_append, List.nil_append, List.append_nil]

theorem frameOfBytes_total {bs : List Byte} (h : bs.length = 158) : ∃ f, frameOfBytes bs = some f := by
  obtain ⟨kind, b1, e1, h1⟩ := reads_byte.next 157 bs h
  obtain ⟨hop, b2, e2, h2⟩ := reads_byte.next 156 b1 h1
  obtain ⟨serial, b3, e3, h3⟩ := reads_half.next 154 b2 h2
  obtain ⟨position, b4, e4, h4⟩ := reads_half.next 152 b3 h3
  obtain ⟨carousel, b5, e5, h5⟩ := reads_byte.next 151 b4 h4
  obtain ⟨damage, b6, e6, h6⟩ := reads_byte.next 150 b5 h5
  obtain ⟨attention, b7, e7, h7⟩ := reads_word.next 146 b6 h6
  obtain ⟨spare, b8, e8, h8⟩ := reads_word.next 142 b7 h7
  obtain ⟨a0, b9, e9, h9⟩ := reads_assign.next 134 b8 h8
  obtain ⟨a1, b10, e10, h10⟩ := reads_assign.next 126 b9 h9
  obtain ⟨a2, b11, e11, h11⟩ := reads_assign.next 118 b10 h10
  obtain ⟨a3, b12, e12, h12⟩ := reads_assign.next 110 b11 h11
  obtain ⟨a4, b13, e13, h13⟩ := reads_assign.next 102 b12 h12
  obtain ⟨a5, b14, e14, h14⟩ := reads_assign.next 94 b13 h13
  obtain ⟨mgmt, b15, e15, h15⟩ := reads_mgmt.next 62 b14 h14
  obtain ⟨r0, b16, e16, h16⟩ := reads_result.next 47 b15 h15
  obtain ⟨r1, b17, e17, h17⟩ := reads_result.next 32 b16 h16
  obtain ⟨r2, b18, e18, h18⟩ := reads_result.next 17 b17 h17
  obtain ⟨r3, b19, e19, h19⟩ := reads_result.next 2 b18 h18
  obtain ⟨check, b20, e20, h20⟩ := reads_half.next 0 b19 h19
  obtain rfl := List.length_eq_zero_iff.mp h20
  exact ⟨⟨kind, hop, serial, position, carousel, damage, attention, spare, a0, a1, a2, a3, a4, a5, mgmt, r0, r1, r2, r3, check⟩,
    frameOfBytes_chain e1 e2 e3 e4 e5 e6 e7 e8 e9 e10 e11 e12 e13 e14 e15 e16 e17 e18 e19 e20⟩

/-- Settles O11: the readers take back every field, and they take 158 bytes exactly. -/
theorem framesAndBytesReadBack : Obligations.FramesAndBytesReadBack := by
  refine ⟨fun f => ⟨length_frameBytes f, frameOfBytes_frameBytes f⟩, fun bs => ⟨fun h => ?_, fun h => ?_⟩⟩
  · obtain ⟨f, hf⟩ := frameOfBytes_total h
    exact ⟨f, hf, (frameOfBytes_sound hf).symm⟩
  · cases hf : frameOfBytes bs with
    | none => rfl
    | some f => exact absurd (frameOfBytes_sound hf ▸ length_frameBytes f) h

end Sys2Proof.Machine
end

section
/-! Proofs about the resets (R1, R10, R133, R177, R178) and the container-present inputs (R143): what a reset leaves at each
head, and the statements O8, O9, O10 and O60. -/

namespace Sys2Proof.Machine

open Sys2Proof

/-! ### Items of one head after a reset -/

section
variable {s : State} {h : HeadId}

theorem map_heads_head (f : Head → Head) (heads : Vector Head 8) (hs : s.heads = heads.map f) : s.head h = f heads[h] := by
  rw [State.head, hs]
  simp

theorem reset_chan (t : Ticks) (pin : Bool) (pins : PerValve Bool) (m : Meter) :
    (Head.reset t pin pins).chan.get m = Channel.reset := by
  cases m <;> rfl

theorem reset_valve (t : Ticks) (x : Head) (pin : Bool) (v : ValveId) :
    (Head.reset t pin x.pins).valves.get v = Valve.reset t (x.valves.get v).pin := by
  cases v <;> rfl

theorem softReset_chan (t : Ticks) (x : Head) (m : Meter) : (x.softReset t).chan.get m = Channel.reset :=
  reset_chan t x.presentPin x.pins m

theorem softReset_valve (t : Ticks) (x : Head) (v : ValveId) :
    (x.softReset t).valves.get v = Valve.reset t (x.valves.get v).pin :=
  reset_valve t x x.presentPin v

end

/-- Settles O8: each block by the definition of its power-on value, each head through `map_heads_head`. -/
theorem powerOnResetSetsEveryBlock : Obligations.PowerOnResetSetsEveryBlock := by
  intro time cause s
  have head (h : HeadId) : (powerOn cause (s.advance time)).head h =
      Head.reset (max s.now time) (s.head h).presentPin (s.head h).pins :=
    map_heads_head (fun x => Head.reset (max s.now time) x.presentPin x.pins) s.heads rfl
  refine ⟨powerOn cause (s.advance time), rfl, rfl, rfl, rfl, rfl, rfl, rfl, rfl, rfl, fun _ => rfl,
    fun g => Vector.getElem_replicate _, rfl, rfl, rfl, fun n => Vector.getElem_replicate _, rfl, rfl, fun h => ?_, rfl,
    fun c => Vector.getElem_replicate _, fun n => Vector.getElem_replicate _, fun b => ?_, rfl, rfl, rfl, rfl, rfl,
    fun hc => ?_, fun hc => ?_, rfl, rfl⟩
  · simp only [State.seq, State.chan, State.valve, head, reset_chan, reset_valve]
    exact ⟨rfl, rfl, rfl, rfl, rfl, rfl, rfl, rfl, rfl, rfl, rfl, rfl, rfl, rfl, rfl, rfl, rfl, rfl, rfl, rfl, rfl,
      fun _ => rfl, fun _ => rfl⟩
  · cases b <;> rfl
  · subst hc
    exact ⟨rfl, rfl, rfl⟩
  · subst hc
    exact ⟨rfl, rfl, rfl⟩

/-- Settles O9: the release by `releaseReset`, the end of the self-test by `endSelfTest`, which comes outside LOCKED and
HOLDOVER and so is no ring loss. -/
theorem releaseAndSelfTestStartTheNode : Obligations.ReleaseAndSelfTestStartTheNode := by
  intro time s
  refine ⟨fun h => ?_, fun h => ?_, fun hself hring => ⟨?_, ?_⟩⟩
  · exact congrArg _ (if_pos h)
  · exact congrArg _ (if_neg (by rw [show (s.advance time).resetHeld = false from h]; decide))
  · obtain ⟨u, hu⟩ : ∃ u, u = { s.advance time with selfTest := false }.modTables fun t => { t with words := [] } := ⟨_, rfl⟩
    have run : endSelfTest true (s.advance time) = enterJoining false u := hu ▸ if_pos hself
    have calm : ringServes u = false := by
      have ring : u.ring.state = .bypass := by
        rw [hu]
        exact hring
      rw [ringServes, ring]
      rfl
    have joined : exec (.selfTestEnd time true) s = .next (enterJoining false u) := congrArg _ run
    rw [joined, enterJoining, calm, hu]
    rfl
  · exact congrArg _ (if_pos hself)

/-- Settles O10: each block by `softReset`, each head through `map_heads_head`. -/
theorem softResetSetsEveryBlock : Obligations.SoftResetSetsEveryBlock := by
  intro time s
  refine ⟨fun h => congrArg _ (if_neg (by rw [show (s.advance time).resetScheduled = false from h]; decide)), fun h => ?_⟩
  have head (k : HeadId) : (softReset (s.advance time)).head k = (s.head k).softReset (max s.now time) :=
    map_heads_head (Head.softReset (max s.now time)) s.heads rfl
  refine ⟨softReset (s.advance time), congrArg _ (if_pos h), rfl, rfl, rfl, rfl, rfl, rfl, rfl, rfl, rfl, rfl, rfl, rfl, rfl, rfl,
    rfl, fun g => ?_, rfl, rfl, rfl, fun k => ?_, rfl, rfl, fun c => Vector.getElem_replicate _, fun b => ?_⟩
  · exact Vector.getElem_map _ _
  · simp only [State.seq, State.chan, State.valve, head, softReset_chan, softReset_valve]
    exact ⟨rfl, rfl, rfl, rfl, rfl, rfl, rfl, rfl, rfl, rfl, rfl, rfl, rfl, rfl, rfl, rfl, rfl, fun _ => rfl, rfl, rfl, rfl, rfl,
      rfl, rfl, fun _ => ⟨rfl, rfl, rfl, rfl, rfl, rfl, rfl⟩⟩
  · cases b <;> rfl

/-! ### The container-present inputs (R143) -/

section
variable {s : State} {h : HeadId} {active : Bool}

theorem modHead_modHead (f g : Head → Head) : (s.modHead h f).modHead h g = s.modHead h (g ∘ f) := by
  simp [State.modHead]

theorem modHead_congr {f g : Head → Head} (e : f (s.head h) = g (s.head h)) : s.modHead h f = s.modHead h g :=
  congrArg (fun x => { s with heads := s.heads.set h.val x h.isLt }) e

/-- A change of the input: the pin, the candidate, and with a debounce time of 0 the level too. -/
theorem changePresence_eq :
    changePresence h active s = s.modHead h fun y =>
      { y with
        presentPin := active
        presenceCandidate :=
          if (s.head h).presenceCandidate.level = active then (s.head h).presenceCandidate else ⟨active, s.now⟩
        presence :=
          if (s.head h).presenceCandidate.level ≠ active ∧ s.settings.presence = 0 then presenceOf active
          else (s.head h).presence } := by
  unfold changePresence takePresence
  by_cases hl : (s.head h).presenceCandidate.level = active
  · rw [if_pos hl]
    exact modHead_congr (by simp [hl])
  · rw [if_neg hl]
    by_cases h0 : s.settings.presence = 0
    · dsimp only
      rw [if_pos h0, modHead_modHead, modHead_modHead]
      exact modHead_congr (by simp [hl, h0])
    · dsimp only
      rw [if_neg h0, modHead_modHead]
      exact modHead_congr (by simp [hl, h0])

/-- A candidate that is not yet taken is taken when it has held. -/
theorem presenceExpires_eq :
    presenceExpires h s =
      if (s.head h).presence = presenceOf (s.head h).presenceCandidate.level then s
      else
        (s.modHead h fun y => { y with presence := presenceOf (s.head h).presenceCandidate.level }).advance
          ((s.head h).presenceCandidate.since + 10000 * s.settings.presence) := by
  unfold presenceExpires presenceWaits presenceDue takePresence msTicks
  by_cases hl : (s.head h).presence = presenceOf (s.head h).presenceCandidate.level
  · simp [hl]
  · rw [if_pos (decide_eq_true hl), if_neg hl, Nat.mul_comm]
    rfl

end

/-- Settles O60, by `changePresence_eq` and `presenceExpires_eq`. -/
theorem containerLevelIsDebounced : Obligations.ContainerLevelIsDebounced := by
  intro time h active s x change expiry level
  refine ⟨fun hr => ⟨if_pos hr, if_pos hr⟩, fun hr => ⟨?_, ?_⟩⟩
  · have changed : exec change s = .next (changePresence h active (s.advance time)) :=
      if_neg (by rw [show s.resetHeld = false from hr]; decide)
    rw [changed, changePresence_eq]
    rfl
  · have expired : exec expiry s = .next (presenceExpires h s) := if_neg (by rw [hr]; decide)
    rw [expired, presenceExpires_eq]
    rfl

end Sys2Proof.Machine
end

section
/-! Proofs about pulses (R117 to R123): the correction of a curve, what requests on valves leave of a head, the four steps of a
pulse in the manual's numbers, and the statements O55 and O56. -/

namespace Sys2Proof.Machine

open Sys2Proof

/-! ### Curves (R119) -/

/-- At or below the first point, the first correction. -/
theorem curveAt_first {ps : List CurvePoint} {p : CurvePoint} {rate : Nat} (hp : p ∈ ps.head?) (hr : rate ≤ p.rate) :
    curveAt rate ps = p.corr := by
  match ps with
  | [] => cases hp
  | [_] => cases hp; rfl
  | _ :: _ :: _ => cases hp; exact if_pos hr

/-- Beyond a point that is not the last, the correction is that of the points from the next one on. -/
theorem curveAt_tail {p r : CurvePoint} {rest : List CurvePoint} {rate : Nat} (hp : p.rate < r.rate) (hr : r.rate ≤ rate) :
    curveAt rate (p :: r :: rest) = curveAt rate (r :: rest) := by
  rw [curveAt, if_neg (by omega), if_neg (by omega)]

theorem ratesRise_cons {p r : CurvePoint} {rest : List CurvePoint} (h : ratesRise (p :: r :: rest) = true) :
    p.rate < r.rate ∧ ratesRise (r :: rest) = true := by
  simpa [ratesRise] using h

/-- The rates of a curve rise, so its first is below or at each. -/
theorem rate_first_le {ps : List CurvePoint} {p r : CurvePoint} (h : ratesRise (p :: ps) = true) (hr : r ∈ p :: ps) :
    p.rate ≤ r.rate := by
  induction ps generalizing p with
  | nil => rw [List.mem_singleton.mp hr]
  | cons x ps ih =>
    obtain ⟨hlt, hrise⟩ := ratesRise_cons h
    rcases List.mem_cons.mp hr with rfl | hr
    · exact le_refl _
    · exact hlt.le.trans (ih hrise hr)

/-- At or above the last point, the last correction. -/
theorem curveAt_last {ps : List CurvePoint} {p : CurvePoint} {rate : Nat} (h : ratesRise ps = true) (hp : p ∈ ps.getLast?)
    (hr : p.rate ≤ rate) : curveAt rate ps = p.corr := by
  induction ps with
  | nil => cases hp
  | cons x ps ih =>
    cases ps with
    | nil => cases hp; rfl
    | cons y ps =>
      obtain ⟨hlt, hrise⟩ := ratesRise_cons h
      have hlast : p ∈ (y :: ps).getLast? := by rwa [List.getLast?_cons_cons] at hp
      have hy : y.rate ≤ rate := (rate_first_le hrise (List.mem_of_mem_getLast? hlast)).trans hr
      rw [curveAt_tail hlt hy]
      exact ih hrise hlast

/-- Between two neighbours, their interpolation. -/
theorem curveAt_between {ps : List CurvePoint} {k : Nat} {p r : CurvePoint} {rate : Nat} (h : ratesRise ps = true)
    (hp : ps[k]? = some p) (hr : ps[k + 1]? = some r) (hlo : p.rate ≤ rate) (hhi : rate < r.rate) :
    curveAt rate ps = p.corr + ((r.corr - p.corr) * ((rate : Int) - (p.rate : Int))).tdiv ((r.rate : Int) - (p.rate : Int)) := by
  induction k generalizing ps with
  | zero =>
    match ps with
    | [] => cases hp
    | [_] => cases hr
    | x :: y :: ps =>
      cases hp
      cases hr
      rw [curveAt]
      by_cases he : rate ≤ p.rate
      · rw [if_pos he, show rate = p.rate by omega]
        simp
      · rw [if_neg he, if_pos hhi]
  | succ k ih =>
    match ps with
    | [] => cases hp
    | [_] => cases hp
    | x :: y :: ps =>
      obtain ⟨hlt, hrise⟩ := ratesRise_cons h
      have hy : y.rate ≤ rate := (rate_first_le hrise (List.mem_of_getElem? hp)).trans hlo
      rw [curveAt_tail hlt hy]
      exact ih hrise hp hr

/-- Settles O56, by the place of the rate among the points. -/
theorem curveIsInterpolated : Obligations.CurveIsInterpolated := fun _ _ h =>
  ⟨fun _ hp hr => curveAt_first hp hr, fun _ hp hr => curveAt_last h hp hr,
    fun _ _ _ hp hr hlo hhi => curveAt_between h hp hr hlo hhi⟩

/-! ### What requests on the valves of one head leave unchanged -/

/-- Only valves of head `h`, records, counters and totals differ. -/
structure Plumbing (h : HeadId) (s t : State) : Prop where
  node : t = { s with heads := t.heads, orq := t.orq, counters := t.counters, totals := t.totals }
  others : ∀ k, k ≠ h → t.head k = s.head k
  own : t.head h = { s.head h with valves := (t.head h).valves }

namespace Plumbing

variable {h : HeadId} {s t u : State}

theorem refl (h : HeadId) (s : State) : Plumbing h s s := ⟨rfl, fun _ _ => rfl, rfl⟩

theorem trans (a : Plumbing h s t) (b : Plumbing h t u) : Plumbing h s u := by
  refine ⟨?_, fun k hk => (b.others k hk).trans (a.others k hk), ?_⟩
  · have e := b.node
    rw [a.node] at e
    exact e
  · have e := b.own
    rw [a.own] at e
    exact e

theorem after (b : Plumbing h t u) (a : Plumbing h s t) : Plumbing h s u := a.trans b

theorem ite {p : Prop} [Decidable p] {a b : State} (ha : p → Plumbing h s a) (hb : ¬p → Plumbing h s b) :
    Plumbing h s (if p then a else b) := by
  split
  · exact ha ‹_›
  · exact hb ‹_›

theorem ofBooked (b : Booked s t) : Plumbing h s t := by
  have head (k : HeadId) : t.head k = s.head k := by rw [State.head, b.heads]; rfl
  refine ⟨?_, fun k _ => head k, by rw [head]⟩
  rw [b.heads]
  exact b

theorem ofValves (w : ValveWork h s t) : Plumbing h s t := by
  refine ⟨?_, w.others, w.own⟩
  rw [w.node]

theorem seq (w : Plumbing h s t) (k : HeadId) : t.seq k = s.seq k := by
  by_cases hk : k = h
  · subst hk
    rw [State.seq, w.own]
    rfl
  · exact congrArg Head.seq (w.others k hk)

theorem chan (w : Plumbing h s t) (k : HeadId) (m : Meter) : t.chan k m = s.chan k m := by
  by_cases hk : k = h
  · subst hk
    rw [State.chan, w.own]
    rfl
  · exact congrArg (fun x : Head => x.chan.get m) (w.others k hk)

theorem now (w : Plumbing h s t) : t.now = s.now := by rw [w.node]

theorem cycle (w : Plumbing h s t) : (t.head h).cycle = (s.head h).cycle := by rw [w.own]

theorem valve_other (w : Plumbing h s t) {k : HeadId} (hk : k ≠ h) (v : ValveId) : t.valve k v = s.valve k v :=
  congrArg (fun x : Head => x.valves.get v) (w.others k hk)

end Plumbing

section
variable (s : State) (h : HeadId)

theorem plumbing_raiseAlarm (c : AlarmCode) (head : Byte) (a b : Nat) : Plumbing h s (raiseAlarm c head a b s) :=
  .ofBooked (booked_enterUnreserved s _)

theorem plumbing_setOutput (v : ValveId) (o : Bool) : Plumbing h s (setOutput h v o s) := .ofValves (valveWork_setOutput s h v o)

theorem plumbing_modValve (v : ValveId) (f : Valve → Valve) : Plumbing h s (s.modValve h v f) :=
  .ofValves (valveWork_modValve s h v f)

theorem plumbing_requestClose (v : ValveId) : Plumbing h s (requestClose h v s) := .ofValves (valveWork_requestClose s h v)

theorem plumbing_closeProducts : Plumbing h s (closeProducts h s) := .ofValves (valveWork_closeProducts s h)

theorem plumbing_closeAll : Plumbing h s (closeAll h s) := .ofValves (valveWork_closeAll s h)

theorem plumbing_interlockCloseOne (b : Nat) (v : ValveId) : Plumbing h s (interlockCloseOne h b v s) :=
  .ite (fun _ => (plumbing_raiseAlarm _ h _ _ _ _).after (plumbing_setOutput s h v false)) fun _ => .refl h s

theorem plumbing_interlockClose (b : Nat) : Plumbing h s (interlockClose h b s) :=
  ((plumbing_interlockCloseOne _ h b .add).after (plumbing_interlockCloseOne _ h b .slow)).after
    (plumbing_interlockCloseOne s h b .fast)

theorem plumbing_openProduct (v : ValveId) : Plumbing h s (openProduct h v s) :=
  .ite (fun _ => plumbing_raiseAlarm s h _ _ _ _) fun _ =>
    .ite (fun _ => plumbing_raiseAlarm s h _ _ _ _) fun _ => plumbing_setOutput s h v true

theorem plumbing_requestOpen (v : ValveId) : Plumbing h s (requestOpen h v s) := by
  refine .ite (fun _ => .refl h s) fun _ => .after ?_ (plumbing_modValve s h v fun x => { x with request := true })
  cases v
  · exact plumbing_setOutput _ h .gas true
  · exact plumbing_openProduct _ h .fast
  · exact plumbing_openProduct _ h .slow
  · exact plumbing_openProduct _ h .add
  · exact (plumbing_setOutput _ h .snift true).after (plumbing_interlockClose _ h 1)

end

/-! ### The requests that stand behind an opening (R145) -/

section
variable (s : State) (h : HeadId)

theorem setOutput_request_any (v w : ValveId) (o : Bool) : ((setOutput h v o s).valve h w).request = (s.valve h w).request := by
  by_cases hw : w = v
  · subst hw
    exact setOutput_request s h w o
  · rw [setOutput_valve_other s h h v w o (.inr hw)]

theorem openProduct_request (v w : ValveId) : ((openProduct h v s).valve h w).request = (s.valve h w).request := by
  unfold openProduct
  split
  · rw [raiseAlarm_valve]
  · split
    · rw [raiseAlarm_valve]
    · exact setOutput_request_any s h v w true

theorem interlockCloseOne_request (b : Nat) (v w : ValveId) :
    ((interlockCloseOne h b v s).valve h w).request = (s.valve h w).request := by
  unfold interlockCloseOne
  split
  · rw [raiseAlarm_valve]
    exact setOutput_request_any s h v w false
  · rfl

theorem interlockClose_request (b : Nat) (w : ValveId) :
    ((interlockClose h b s).valve h w).request = (s.valve h w).request := by
  unfold interlockClose
  rw [interlockCloseOne_request, interlockCloseOne_request, interlockCloseOne_request]

/-- R145: a request to open stands from then on. -/
theorem requestOpen_request (v : ValveId) : ((requestOpen h v s).valve h v).request = true := by
  unfold requestOpen
  split
  · assumption
  · cases v
    · rw [setOutput_request_any, modValve_valve]
    · rw [openProduct_request, modValve_valve]
    · rw [openProduct_request, modValve_valve]
    · rw [openProduct_request, modValve_valve]
    · rw [setOutput_request_any, interlockClose_request, modValve_valve]

end

/-! ### The four steps of a pulse (R117 to R120) -/

/-- The rate that a pulse leaves at a channel, by the timestamps and the smoothing `k` (R117, R118). -/
def Channel.pulseRate (stamp : Word) (w k : Nat) (c : Channel) : Nat :=
  match c.prevStamp with
  | none => c.rate
  | some p =>
    let d := (stamp - p).toNat
    let r := if d = 0 then 65535 else if d ≤ 16777215 then min 65535 (100 * w / d) else 0
    if c.pulses ≤ 1 then r else ((c.rate : Int) + ((r : Int) - (c.rate : Int)) / (2 : Int) ^ k).toNat

/-- The volume of a pulse in millionths of its unit, with what was left before (R120). -/
def Channel.pulseVolume (w : Nat) (corr factor : Int) (c : Channel) : Nat :=
  ((w : Int) * (1000000 + max (-50000) (min 50000 (corr + factor))) + (c.rem : Int)).toNat

theorem rateOf_eq (w d : Nat) : rateOf w d = if d = 0 then 65535 else if d ≤ 16777215 then min 65535 (100 * w / d) else 0 := by
  unfold rateOf Config.maxRate Config.maxInterval
  rw [min_comm]

theorem volumeStep_eq (w : Nat) (corr factor : Int) (c : Channel) :
    let n := c.pulseVolume w corr factor
    let full := 4294967295 < c.volume + n / 1000000 ∨ 4294967295 ≤ c.volume
    volumeStep w (totalCorrection corr factor) c.volume c.rem =
      (if full then 4294967295 else c.volume + n / 1000000, if full then c.rem else n % 1000000) := by
  intro n full
  have hfull : (c.volume + n / 1000000 ≤ Config.maxVolume ∧ c.volume < Config.maxVolume) ↔ ¬full := by
    simp only [full, Config.maxVolume, not_or, Nat.not_lt, Nat.not_le]
  rw [volumeStep]
  by_cases hf : full
  · rw [if_pos hf, if_pos hf]
    exact if_neg (mt hfull.mp (not_not_intro hf))
  · rw [if_neg hf, if_neg hf]
    exact if_pos (hfull.mpr hf)

/-- A pulse in the manual's numbers. -/
theorem pulse_eq (stamp : Word) (w k : Nat) (curve : List CurvePoint) (factor : Int) (c : Channel) :
    let rate := c.pulseRate stamp w k
    let n := c.pulseVolume w (curveAt rate curve) factor
    let full := 4294967295 < c.volume + n / 1000000 ∨ 4294967295 ≤ c.volume
    c.pulse stamp w k curve factor =
      { c with
        pulses := min 4294967295 (c.pulses + 1)
        prevStamp := some stamp
        rate := rate
        volume := if full then 4294967295 else c.volume + n / 1000000
        rem := if full then c.rem else n % 1000000 } := by
  intro rate n full
  have hrate : (c.pulse stamp w k curve factor).rate = rate := by
    cases hp : c.prevStamp <;> simp only [rate, Channel.pulseRate, Channel.pulse, rateOf_eq, interval, smoothed, hp]
  have hstep : c.pulse stamp w k curve factor =
      { c with
        pulses := satAdd Config.maxVolume c.pulses 1
        prevStamp := some stamp
        rate := (c.pulse stamp w k curve factor).rate
        volume := (volumeStep w (totalCorrection (curveAt (c.pulse stamp w k curve factor).rate curve) factor) c.volume c.rem).1
        rem := (volumeStep w (totalCorrection (curveAt (c.pulse stamp w k curve factor).rate curve) factor) c.volume c.rem).2 } := rfl
  rw [hstep, hrate, volumeStep_eq]
  rfl

/-! ### A pulse by the channel's state (R121 to R123) -/

section
variable {s : State} {h : HeadId} {m : Meter}

theorem pulseSteps_chan :
    (pulseSteps h m s).chan h m =
      (s.chan h m).pulse s.stamp ((s.head h).table.weight.get m) (cycleField h Recipe.smoothing s) (meterCurve h m s)
        (meterFactor h m s) := by
  rw [pulseSteps, modChan_chan]

theorem takePulse_stray (hc : (s.chan h m).state = .idle ∨ (s.chan h m).state = .ended) : takePulse h m s = strayPulse h s := by
  unfold takePulse
  rcases hc with hc | hc <;> rw [hc]

theorem takePulse_settling (hc : (s.chan h m).state = .settling) :
    takePulse h m s = (pulseSteps h m s).modChan h m fun c => { c with lastPulse := some s.now } := by
  unfold takePulse
  rw [hc]

theorem pulseSteps_state : ((pulseSteps h m s).chan h m).state = (s.chan h m).state := by
  rw [pulseSteps_chan]
  rfl

/-- R122: the pulse reaches the cutoff. -/
theorem takePulse_cutoff (hc : (s.chan h m).state = .dosing) (hcut : cutoffHolds h m (pulseSteps h m s) = true) :
    takePulse h m s = cutoffReached h m ((pulseSteps h m s).modChan h m (Channel.close .cutoff s.now)) := by
  have closed : cutoffTest h m (pulseSteps h m s) = (pulseSteps h m s).modChan h m (Channel.close .cutoff s.now) := if_pos hcut
  unfold takePulse
  rw [hc]
  dsimp only
  rw [closed, if_pos]
  rw [modChan_chan]
  rfl

/-- R123: the dose goes on, and the main channel is judged against its bands. -/
theorem takePulse_doses (hc : (s.chan h m).state = .dosing) (hcut : cutoffHolds h m (pulseSteps h m s) = false) :
    takePulse h m s = if m = .main then fastBand h (pulseSteps h m s) else pulseSteps h m s := by
  have going : cutoffTest h m (pulseSteps h m s) = pulseSteps h m s := if_neg (by rw [hcut]; decide)
  unfold takePulse
  rw [hc]
  dsimp only
  rw [going, if_neg (by rw [pulseSteps_state, hc]; decide)]
  cases m <;> rfl

/-- At the cutoff the valves of the dose are closed and the entry settles. -/
theorem cutoffReached_seq :
    ((cutoffReached h m s).seq h).progress = .settling ∧ ((cutoffReached h m s).seq h).timer = none := by
  unfold cutoffReached
  cases m <;> rw [modSeq_seq] <;> exact ⟨rfl, rfl⟩

theorem cutoffReached_chan : (cutoffReached h m s).chan h m = s.chan h m := by
  unfold cutoffReached
  cases m
  · rw [modSeq_chan, requestClose_chan, requestClose_chan]
  · rw [modSeq_chan, requestClose_chan]

theorem cutoffReached_closed {x : ValveId} (hmain : m = .main → x = .fast ∨ x = .slow) (hadd : m = .additive → x = .add) :
    ((cutoffReached h m s).valve h x).closed := by
  unfold cutoffReached
  cases m
  · rcases hmain rfl with rfl | rfl <;> rw [modSeq_valve]
    · exact requestClose_keeps _ h h .slow .fast (requestClose_closed _ h .fast)
    · exact requestClose_closed _ h .slow
  · rw [hadd rfl, modSeq_valve]
    exact requestClose_closed _ h .add

/-- R97, R123: FAST is requested open within the bands, and closed outside them. -/
theorem fastBand_fast {y : CycleRecord} (hy : (s.head h).cycle = some y) :
    if y.recipe.startBand ≤ (s.chan h .main).volume ∧ (s.chan h .main).volume < y.recipe.vMain - y.recipe.slowBand then
      ((fastBand h s).valve h .fast).request = true
    else ((fastBand h s).valve h .fast).request = false ∧ ((fastBand h s).valve h .fast).output = false := by
  have field (f : Recipe → Nat) : cycleField h f s = f y.recipe := by rw [cycleField, hy]
  unfold fastBand
  dsimp only
  rw [field, field, field]
  split
  · exact requestOpen_request s h .fast
  · exact requestClose_closed s h .fast

theorem fastBand_chan (k : Meter) : (fastBand h s).chan h k = s.chan h k := by
  unfold fastBand
  dsimp only
  split
  · exact (plumbing_requestOpen s h .fast).chan h k
  · exact requestClose_chan s h h .fast k

theorem fastBand_now : (fastBand h s).now = s.now := (work_fastBand s h).now

theorem takePulse_now : (takePulse h m s).now = s.now := by
  cases hc : (s.chan h m).state with
  | idle => rw [takePulse_stray (.inl hc)]; rfl
  | ended => rw [takePulse_stray (.inr hc)]; rfl
  | settling => rw [takePulse_settling hc]; rfl
  | dosing =>
    cases hcut : cutoffHolds h m (pulseSteps h m s) with
    | true =>
      rw [takePulse_cutoff hc hcut, (work_cutoffReached _ h m).now]
      rfl
    | false =>
      rw [takePulse_doses hc hcut]
      split
      · exact fastBand_now
      · rfl

/-- The correction curve and the factor of a meter in the head's cycle record. -/
def CycleRecord.meterCurve (y : CycleRecord) : Meter → List CurvePoint
  | .main => y.mainCurve
  | .additive => y.addCurve.getD []

def CycleRecord.meterFactor (y : CycleRecord) : Meter → Int
  | .main => y.recipe.factor
  | .additive => 0

/-- The channel after the steps of a pulse, with the numbers of the head's cycle record. -/
theorem pulseSteps_chan_eq {y : CycleRecord} (hy : (s.head h).cycle = some y) :
    let c := s.chan h m
    let w := (s.head h).table.weight.get m
    let rate := c.pulseRate s.stamp w y.recipe.smoothing
    let n := c.pulseVolume w (curveAt rate (y.meterCurve m)) (y.meterFactor m)
    let full := 4294967295 < c.volume + n / 1000000 ∨ 4294967295 ≤ c.volume
    (pulseSteps h m s).chan h m =
      { c with
        pulses := min 4294967295 (c.pulses + 1)
        prevStamp := some s.stamp
        rate := rate
        volume := if full then 4294967295 else c.volume + n / 1000000
        rem := if full then c.rem else n % 1000000 } := by
  have hcurve : Machine.meterCurve h m s = y.meterCurve m := by
    rw [Machine.meterCurve, hy]
    cases m <;> rfl
  have hfactor : Machine.meterFactor h m s = y.meterFactor m := by
    cases m with
    | main => simp only [Machine.meterFactor, hy]; rfl
    | additive => rfl
  have hk : cycleField h Recipe.smoothing s = y.recipe.smoothing := by rw [cycleField, hy]
  intro c w rate n full
  rw [pulseSteps_chan, hcurve, hfactor, hk]
  exact pulse_eq _ _ _ _ _ _

theorem cutoffHolds_iff :
    cutoffHolds h m (pulseSteps h m s) = true ↔
      (s.chan h m).target ≤ ((pulseSteps h m s).chan h m).volume + (s.head h).table.learned.get m := by
  have htarget : ((pulseSteps h m s).chan h m).target = (s.chan h m).target := by rw [pulseSteps_chan]; rfl
  have htable : ((pulseSteps h m s).head h).table = (s.head h).table := by rw [pulseSteps, State.modChan, modHead_head]
  rw [cutoffHolds, decide_eq_true_iff, htarget, htable]

end

/-- Settles O55: by the channel's state, the steps of a pulse by `pulse_eq`. -/
theorem pulseAddsItsVolume : Obligations.PulseAddsItsVolume := by
  intro time h m s c i now stamp
  have taken (hr : s.resetHeld = false) : exec i s = .next (takePulse h m (s.advance time)) := if_neg (by rw [hr]; decide)
  refine ⟨fun hr => if_pos hr, fun hr hc => ?_, fun y hr hc hy => ?_⟩
  · rw [taken hr, takePulse_stray (s := s.advance time) hc]
    rfl
  obtain ⟨p, hp⟩ : ∃ p, p = (pulseSteps h m (s.advance time)).chan h m := ⟨_, rfl⟩
  have steps := hp.trans (pulseSteps_chan_eq (s := s.advance time) hy)
  refine ⟨takePulse h m (s.advance time), taken hr, takePulse_now, ?_⟩
  rcases hc with hc | hc
  · have dosing : ((s.advance time).chan h m).state = .dosing := hc
    have volume := congrArg Channel.volume steps
    have holds := cutoffHolds_iff (s := s.advance time) (h := h) (m := m)
    rw [← hp] at holds
    have fields (q : Channel) (e : q = p ∨ q = p.close .cutoff now) : q.volume = p.volume ∧ q.rem = p.rem ∧ q.rate = p.rate ∧
        q.prevStamp = p.prevStamp ∧ q.pulses = p.pulses := by
      rcases e with rfl | rfl <;> exact ⟨rfl, rfl, rfl, rfl, rfl⟩
    have settled : c.state ≠ .settling := by
      rw [show c.state = .dosing from hc]
      decide
    cases hcut : cutoffHolds h m (pulseSteps h m (s.advance time)) with
    | true =>
      have left := takePulse_cutoff dosing hcut
      have chan : (takePulse h m (s.advance time)).chan h m = p.close .cutoff now := by
        rw [left, cutoffReached_chan, modChan_chan, hp]
        rfl
      obtain ⟨hvolume, hrem, hrate, hstamp, hpulses⟩ := fields _ (.inr chan)
      refine ⟨hvolume.trans volume, hrem.trans (congrArg Channel.rem steps), hrate.trans (congrArg Channel.rate steps),
        hstamp.trans (congrArg Channel.prevStamp steps), hpulses.trans (congrArg Channel.pulses steps),
        fun hs => absurd hs settled, fun _ _ => ?_, fun _ hlt => ?_⟩
      · rw [chan]
        refine ⟨rfl, rfl, congrArg some volume, rfl, ?_, ?_, fun x hmain hadd => ?_⟩ <;> rw [left]
        · exact cutoffReached_seq.1
        · exact cutoffReached_seq.2
        · exact cutoffReached_closed hmain hadd
      · have := holds.mp hcut
        rw [volume] at this
        exact absurd this (Nat.not_le.mpr hlt)
    | false =>
      have left := takePulse_doses dosing hcut
      have chan : (takePulse h m (s.advance time)).chan h m = p := by
        rw [left]
        split
        · rw [fastBand_chan, hp]
        · exact hp.symm
      obtain ⟨hvolume, hrem, hrate, hstamp, hpulses⟩ := fields _ (.inl chan)
      refine ⟨hvolume.trans volume, hrem.trans (congrArg Channel.rem steps), hrate.trans (congrArg Channel.rate steps),
        hstamp.trans (congrArg Channel.prevStamp steps), hpulses.trans (congrArg Channel.pulses steps),
        fun hs => absurd hs settled, fun _ hle => ?_, fun _ _ => ⟨?_, fun hm => ?_⟩⟩
      · have : ¬_ := mt holds.mpr (by rw [hcut]; decide)
        rw [volume] at this
        exact absurd hle this
      · rw [chan]
        exact (congrArg Channel.state steps).trans hc
      · subst hm
        have cycle : ((pulseSteps h .main (s.advance time)).head h).cycle = some y := by
          rw [pulseSteps, State.modChan, modHead_head]
          exact hy
        have band := fastBand_fast cycle
        rw [← hp, volume] at band
        rw [left, if_pos rfl]
        exact band
  · have left : (takePulse h m (s.advance time)).chan h m = { p with lastPulse := some now } := by
      rw [takePulse_settling (s := s.advance time) hc, modChan_chan, hp]
      rfl
    rw [left]
    refine ⟨?_, ?_, ?_, ?_, ?_, fun hs => ⟨?_, rfl⟩, fun hd => ?_, fun hd => ?_⟩
    · exact congrArg Channel.volume steps
    · exact congrArg Channel.rem steps
    · exact congrArg Channel.rate steps
    · exact congrArg Channel.prevStamp steps
    · exact congrArg Channel.pulses steps
    · exact (congrArg Channel.state steps).trans hc
    · exact absurd (hd.symm.trans hc) nofun
    · exact absurd (hd.symm.trans hc) nofun

end Sys2Proof.Machine
end

section
/-! Proofs about valve faults and the end of a cycle (R106, R107, R147 to R151): what the end of a cycle makes of its head, how
a fault is announced with and without room, and the statements O58 and O59. -/

namespace Sys2Proof.Machine

open Sys2Proof

/-! ### The end of a cycle (R107) -/

section
variable {s : State} {h : HeadId}

/-- Steps 1 to 5 of R107: SNIFT closed, the channels frozen, and the flags judged. -/
def cycleJudged (how : CycleEnd) (h : HeadId) (s : State) : State :=
  let a := judgeFlags h (freezeBoth h ((requestClose h .snift s).modSeq h fun q => { q with timer := none }))
  if how = .sniftFailed then sniftIncomplete h a else a

/-- Steps 1 to 6 of R107. -/
def cycleRecorded (how : CycleEnd) (h : HeadId) (s : State) : State :=
  recordFill (how == .stuckOpen) h (cycleJudged how h s)

/-- The sequencer that a cycle leaves when it ends, free in the ring's state `free` or in FAULT. -/
def Sequencer.ended (how : CycleEnd) (free : HeadState) (q : Sequencer) : Sequencer :=
  let fault := q.faultPending = true ∨ how = .released ∨ how = .stuckOpen
  { q with
    state := if fault then .fault else free
    planIndex := 0
    progress := .none
    timer := none
    equalised := false
    sniftBegun := false
    stepMode := if fault then false else q.stepMode
    entry := none }

theorem cycleJudged_valve (how : CycleEnd) (v : ValveId) :
    (cycleJudged how h s).valve h v = (requestClose h .snift s).valve h v := by
  have flagged (a : State) : (judgeFlags h a).valve h v = a.valve h v := modSeq_valve _ _ _ _ _
  unfold cycleJudged
  dsimp only
  split
  · rw [sniftIncomplete, modSeq_valve, raiseAlarm_valve, State.modFlags, modSeq_valve, flagged, freezeBoth_valve, modSeq_valve]
  · rw [flagged, freezeBoth_valve, modSeq_valve]

theorem cycleRecorded_valve (how : CycleEnd) (v : ValveId) :
    (cycleRecorded how h s).valve h v = (requestClose h .snift s).valve h v := by
  rw [cycleRecorded, recordFill_valve, cycleJudged_valve]

theorem cycleRecorded_work (how : CycleEnd) : HeadWork h s (cycleRecorded how h s) := by
  refine (work_recordFill _ _ h).after ?_
  refine HeadWork.after (HeadWork.ite (fun _ => work_sniftIncomplete _ h) fun _ => HeadWork.refl h _) ?_
  exact (work_judgeFlags _ h).after ((work_freezeBoth _ h).after
    ((work_modSeq _ h (fun q => { q with timer := none }) fun _ => rfl).after (work_requestClose s h .snift)))

theorem modSeq_congr {f g : Sequencer → Sequencer} (e : f (s.seq h) = g (s.seq h)) : s.modSeq h f = s.modSeq h g :=
  modHead_congr (congrArg (fun q => { s.head h with seq := q }) e)

/-- Step 7 of R107 and the state that follows, behind the record. -/
theorem endCycle_form (how : CycleEnd) :
    endCycle how h s =
      if ((clearCycleItems h (cycleRecorded how h s)).seq h).faultPending = true ∨ how = .released ∨ how = .stuckOpen then
        enterFault h (clearCycleItems h (cycleRecorded how h s))
      else
        (clearCycleItems h (cycleRecorded how h s)).modSeq h fun q =>
          { q with state := freeState (clearCycleItems h (cycleRecorded how h s)) } := rfl

/-- With the product outputs closed the end of a cycle writes its sequencer once, behind its record. -/
theorem endCycle_eq (how : CycleEnd) (hd : s.dry h) :
    endCycle how h s = (cycleRecorded how h s).modSeq h (Sequencer.ended how (freeState s)) := by
  obtain ⟨b, hb⟩ : ∃ b, b = cycleRecorded how h s := ⟨_, rfl⟩
  have dry : b.dry h := fun v hv => by
    rw [hb, cycleRecorded_valve, requestClose_valve_other s h h .snift v (.inr (by rcases hv with rfl | rfl | rfl <;> decide))]
    exact hd v hv
  have ring : b.ring = s.ring := by rw [hb]; exact (cycleRecorded_work how).ring
  have clear : clearCycleItems h b =
      b.modSeq h fun q =>
        { q with entry := none, planIndex := 0, progress := .none, timer := none, sniftBegun := false, equalised := false } := by
    rw [clearCycleItems, clearEqualised_dry _ h fun v hv => by rw [modSeq_valve]; exact dry v hv, modSeq_modSeq]
    rfl
  have unfolded := endCycle_form (s := s) (h := h) how
  rw [← hb] at unfolded
  have free : freeState (clearCycleItems h b) = freeState s := by
    rw [freeState_eq, freeState_eq, clear, modSeq_ring, ring]
  rw [unfolded, free, clear, modSeq_seq, ← hb]
  by_cases hf : (b.seq h).faultPending = true ∨ how = .released ∨ how = .stuckOpen
  · rw [if_pos hf, enterFault, modSeq_modSeq]
    exact modSeq_congr (by simp only [Function.comp, Sequencer.ended, if_pos hf])
  · rw [if_neg hf, modSeq_modSeq]
    exact modSeq_congr (by simp only [Function.comp, Sequencer.ended, if_neg hf])

end

/-! ### Counting behind an alarm (R157, R161) -/

section
variable {s : State} {c : CounterId}

/-- The place of a COUNTER_WRAP alarm leaves every other counter. -/
theorem loseRecord_counter (hc : c ≠ .recordsLost) : (loseRecord s).counter c = s.counter c := by
  unfold loseRecord
  dsimp only
  split
  · split
    · exact setCounter_counter_ne s .recordsLost c _ hc
    · exact (setCounter_counter_ne _ .recordsLost c _ hc).trans (setCounter_counter_ne s .recordsLost c _ hc)
  · exact setCounter_counter_ne s .recordsLost c _ hc

theorem raiseAlarm_counter (code : AlarmCode) (head : Byte) (a b : Nat) (hc : c ≠ .recordsLost) :
    (raiseAlarm code head a b s).counter c = s.counter c := by
  unfold raiseAlarm enterUnreserved
  split
  · rfl
  · exact loseRecord_counter hc

/-- An event that is counted makes its counter one higher, also when it wraps. -/
theorem countEvent_counter (hc : c ≠ .recordsLost) : (countEvent c s).counter c = s.counter c + 1#16 := by
  unfold countEvent
  split
  · rw [raiseAlarm_counter _ _ _ _ hc, setCounter_counter, ‹s.counter c = _›]
    rfl
  · exact setCounter_counter s c _

end

/-! ### Feedback (R147, R149, R151) -/

section
variable {s : State} {h : HeadId} {v : ValveId}

theorem announceFault_counter (k : ValveFault) :
    (announceFault h v k s).counter .valveFaults = s.counter .valveFaults + 1#16 := by
  unfold announceFault
  rw [countEvent_counter (by decide), raiseAlarm_counter _ _ _ _ (by decide)]

theorem announceFault_valve (k : ValveFault) (g : HeadId) (w : ValveId) : (announceFault h v k s).valve g w = s.valve g w :=
  valve_of_heads (booked_announceFault k).heads g w

theorem isProduct_iff : isProduct v = true ↔ v ∈ [ValveId.fast, .slow, .add] := by
  cases v <;> decide

/-- R106: a fault of GAS or SNIFT, or at a head whose cycle is not active, changes nothing more. -/
theorem takeValveFault_aside (k : ValveFault)
    (hv : v = .gas ∨ v = .snift ∨ (s.seq h).state ∉ [HeadState.running, .forcedSnift, .stepHold]) :
    takeValveFault h v k s = s := by
  unfold takeValveFault
  split
  · have hq : (s.seq h).state ∉ [HeadState.running, .forcedSnift, .stepHold] := by
      rcases hv with rfl | rfl | hq
      · contradiction
      · contradiction
      · exact hq
    split <;> simp_all
  · rfl

/-- A fault that no cycle takes is announced alone. -/
theorem valveFault_aside (k : ValveFault)
    (hv : v = .gas ∨ v = .snift ∨ (s.seq h).state ∉ [HeadState.running, .forcedSnift, .stepHold]) :
    valveFault h v k s = announceFault h v k s :=
  takeValveFault_aside k (by rwa [announceFault_seq])

theorem valveFault_counter (k : ValveFault) :
    (valveFault h v k s).counter .valveFaults = s.counter .valveFaults + 1#16 := by
  unfold valveFault
  rw [(work_takeValveFault _ h v k).counters _ (by decide) (by decide), announceFault_counter]

theorem valveFault_now (k : ValveFault) : (valveFault h v k s).now = s.now :=
  (work_takeValveFault _ h v k).now.trans (booked_announceFault k).now

/-- A candidate that has held for its time, of another level than the feedback. -/
theorem feedbackExpires_eq (hf : (s.valve h v).feedback ≠ feedbackOf (s.valve h v).candidate.level) :
    feedbackExpires h v s =
      takeFeedback h v (s.advance ((s.valve h v).candidate.since + 10000 * s.settings.feedback)) := by
  unfold feedbackExpires feedbackWaits feedbackDue msTicks
  rw [if_pos (decide_eq_true hf), Nat.mul_comm]
  rfl

theorem feedbackExpires_taken (hf : (s.valve h v).feedback = feedbackOf (s.valve h v).candidate.level) :
    feedbackExpires h v s = s := by
  unfold feedbackExpires feedbackWaits
  rw [if_neg]
  simpa using hf

/-- A level that is no drift changes its valve alone. -/
theorem takeFeedback_quiet (hd : (s.valve h v).takeLevel.2 = false) :
    takeFeedback h v s = s.modValve h v fun _ => (s.valve h v).takeLevel.1 := by
  unfold takeFeedback
  dsimp only
  rw [hd]
  rfl

/-- A drift changes its valve and is reported. -/
theorem takeFeedback_drift (hd : (s.valve h v).takeLevel.2 = true) :
    takeFeedback h v s = valveFault h v .drift (s.modValve h v fun _ => (s.valve h v).takeLevel.1) := by
  unfold takeFeedback
  dsimp only
  rw [hd]
  rfl

theorem modValve_congr {f g : Valve → Valve} (e : f (s.valve h v) = g (s.valve h v)) : s.modValve h v f = s.modValve h v g :=
  modHead_congr (congrArg (fun x => { s.head h with valves := (s.head h).valves.set v x }) e)

theorem modValve_modValve (f g : Valve → Valve) : (s.modValve h v f).modValve h v g = s.modValve h v (g ∘ f) := by
  rw [State.modValve, State.modValve, modHead_modHead, State.modValve]
  refine modHead_congr ?_
  cases v <;> rfl

/-- What a drift of a product valve makes of an active cycle (R106). -/
theorem valveFault_drift (hv : v ∈ [ValveId.fast, .slow, .add]) (hq : (s.seq h).state ∈ [HeadState.running, .forcedSnift, .stepHold]) :
    let t := valveFault h v .drift s
    (t.seq h).state = .forcedSnift ∧ (t.seq h).faultPending = true ∧
      ((s.seq h).state = .forcedSnift → t.seq h = { s.seq h with faultPending := true }) ∧
      ((s.seq h).state ≠ .forcedSnift → ∀ m, (t.chan h m).state = .idle ∨ (t.chan h m).state = .ended) := by
  have hp := isProduct_iff.mpr hv
  have seq := announceFault_seq (s := s) (h := h) (v := v) .drift h
  unfold valveFault
  obtain ⟨a, ha⟩ : ∃ a, a = announceFault h v .drift s := ⟨_, rfl⟩
  rw [← ha] at seq ⊢
  by_cases hf : (s.seq h).state = .forcedSnift
  · have taken : takeValveFault h v .drift a = setFaultPending h a := by
      unfold takeValveFault
      rw [if_pos hp, seq, hf]
    have pending : (setFaultPending h a).seq h = { s.seq h with faultPending := true } := by
      rw [setFaultPending, modSeq_seq, seq]
    rw [taken]
    dsimp only
    rw [pending]
    exact ⟨hf, rfl, fun _ => rfl, fun hn => absurd hf hn⟩
  · have hs : (a.seq h).state = .running ∨ (a.seq h).state = .stepHold := by
      rw [seq]
      simpa [hf] using hq
    obtain ⟨_, state, pending, done⟩ := abort_withFault a h (by rw [seq]; exact hf)
    rw [takeValveFault_drift a h v hp hs]
    exact ⟨state, pending, fun hn => absurd hn hf, fun _ => done⟩

end

/-- Settles O58: a level that is taken by `takeLevel_eq`, a drift by `valveFault_aside` and `valveFault_drift`. -/
theorem feedbackIsDebouncedAndJudged : Obligations.FeedbackIsDebouncedAndJudged := by
  intro time h v active s x change level due
  have changed (hr : s.resetHeld = false) : exec change s = .next (changeFeedback h v active (s.advance time)) :=
    if_neg (by rw [hr]; decide)
  have expired (u : State) (hr : u.resetHeld = false) : exec (.feedbackDebounceExpiry h v) u = .next (feedbackExpires h v u) :=
    if_neg (by rw [hr]; decide)
  have taken (hf : x.feedback ≠ level) : feedbackExpires h v s = takeFeedback h v (s.advance due) := feedbackExpires_eq hf
  have judged (hf : x.feedback ≠ level) := (takeLevel_eq x).trans (if_neg hf)
  refine ⟨fun hr => ⟨if_pos hr, if_pos hr⟩, fun hr hl => ?_, fun hr hl h0 => ?_, fun hr hl h0 => ?_, fun hr hf => ?_,
    fun hr hf ho => ?_, fun hr hf ho hs => ?_, fun hr hf ho hs hv => ?_, fun hr hf ho hs hv hq => ?_⟩
  · rw [changed hr]
    exact congrArg Host.Outcome.next (if_pos hl)
  · rw [changed hr]
    refine congrArg Host.Outcome.next ((if_neg hl).trans ((if_neg (by exact Nat.ne_of_gt h0)).trans ?_))
    rw [modValve_modValve]
    rfl
  · obtain ⟨w, hw⟩ : ∃ w, w = (s.modValve h v fun y => { y with pin := active, candidate := ⟨active, max s.now time⟩ }).advance time :=
      ⟨_, rfl⟩
    have wheld : w.resetHeld = false := by rw [hw]; exact hr
    have wvalve : (w.valve h v).candidate = ⟨active, max s.now time⟩ := by
      rw [hw, advance_valve, modValve_valve]
    have now : w.advance ((w.valve h v).candidate.since + 10000 * w.settings.feedback) = w := by
      rw [wvalve, show w.settings.feedback = 0 by rw [hw]; exact h0, hw]
      exact congrArg (fun n => { s.modValve h v fun y => { y with pin := active, candidate := ⟨active, max s.now time⟩ } with now := n })
        (max_eq_left (le_refl (max s.now time)))
    have change_eq : changeFeedback h v active (s.advance time) = takeFeedback h v w := by
      refine (if_neg hl).trans ((if_pos h0).trans (congrArg (takeFeedback h v) ?_))
      rw [modValve_modValve, hw]
      rfl
    rw [← hw, changed hr, expired w wheld, change_eq]
    refine congrArg Host.Outcome.next ?_
    by_cases hf : (w.valve h v).feedback = feedbackOf (w.valve h v).candidate.level
    · have level_eq := (takeLevel_eq (w.valve h v)).trans (if_pos hf)
      rw [feedbackExpires_taken hf, takeFeedback_quiet (by rw [level_eq]), level_eq, modValve_self]
    · rw [feedbackExpires_eq hf, now]
  · rw [expired s hr, feedbackExpires_taken hf]
  · have level_eq := (judged hf).trans (if_pos ho)
    rw [expired s hr, taken hf, takeFeedback_quiet (by exact congrArg Prod.snd level_eq)]
    refine congrArg Host.Outcome.next ?_
    exact (congrArg (State.advance due) (modValve_congr (s := s) (h := h) (v := v) (f := fun _ => x.takeLevel.1)
      (g := fun y => { y with feedback := level, supervision := .idle, expiry := none }) (congrArg Prod.fst level_eq)) :)
  · have level_eq := (judged hf).trans ((if_neg ho).trans (if_neg hs))
    rw [expired s hr, taken hf, takeFeedback_quiet (by exact congrArg Prod.snd level_eq)]
    refine congrArg Host.Outcome.next ?_
    exact (congrArg (State.advance due) (modValve_congr (s := s) (h := h) (v := v) (f := fun _ => x.takeLevel.1)
      (g := fun y => { y with feedback := level }) (congrArg Prod.fst level_eq)) :)
  all_goals
    have level_eq := (judged hf).trans ((if_neg ho).trans (if_pos hs))
    obtain ⟨w, hw⟩ : ∃ w, w = (s.advance due).modValve h v fun _ => ((s.advance due).valve h v).takeLevel.1 := ⟨_, rfl⟩
    have drift : feedbackExpires h v s = valveFault h v .drift w := by
      rw [taken hf, takeFeedback_drift (by exact congrArg Prod.snd level_eq), hw]
    have wseq : w.seq h = s.seq h := by rw [hw, modValve_seq, advance_seq]
    have wnow : w.now = max s.now due := by rw [hw]; rfl
    have wcount : w.counter .valveFaults = s.counter .valveFaults := by rw [hw]; rfl
    have now : (valveFault h v .drift w).now = max s.now due := (valveFault_now _).trans wnow
    have count : (valveFault h v .drift w).counter .valveFaults = s.counter .valveFaults + 1#16 := by
      rw [valveFault_counter, wcount]
    refine ⟨_, (expired s hr).trans (congrArg _ drift), now, ?_⟩
  · have aside := valveFault_aside (s := w) (h := h) (v := v) .drift (by rwa [wseq])
    refine ⟨?_, ?_, count⟩
    · rw [aside, announceFault_valve, hw, modValve_valve]
      exact congrArg Prod.fst level_eq
    · rw [aside, announceFault_seq, wseq]
  · have aborted := valveFault_drift (s := w) (h := h) hv (by rwa [wseq])
    rw [wseq] at aborted
    exact ⟨count, aborted⟩

/-! ### The announcement of a fault, with and without room (R151, R157, R161) -/

section
variable {s : State} {c : CounterId}

theorem orqRoom_iff : orqRoom s = true ↔ s.orq.records.length + s.orq.reservations < 48 := decide_eq_true_iff

theorem raiseAlarm_room (hr : s.orq.records.length + s.orq.reservations < 48) (code : AlarmCode) (head : Byte) (a b : Nat) :
    raiseAlarm code head a b s = appendRecord (alarmRecord code head a b s) s := if_pos (orqRoom_iff.mpr hr)

theorem raiseAlarm_full (hr : 48 ≤ s.orq.records.length + s.orq.reservations) (code : AlarmCode) (head : Byte) (a b : Nat) :
    raiseAlarm code head a b s = loseRecord s := if_neg fun h => absurd (orqRoom_iff.mp h) (Nat.not_lt.mpr hr)

/-- RECORDS_LOST after one more lost record, where no place is free for its own COUNTER_WRAP. -/
def lostAgain (n : Half) : Half := if n = 65535#16 then 1#16 else n + 1#16

theorem lostAgain_twice (n : Half) :
    lostAgain (lostAgain n) = if n = 65535#16 then 2#16 else if n = 65534#16 then 1#16 else n + 2#16 := by
  unfold lostAgain
  by_cases h1 : n = 65535#16
  · rw [if_pos h1, if_pos h1, if_neg (by decide)]
    rfl
  · rw [if_neg h1, if_neg h1]
    by_cases h2 : n = 65534#16
    · rw [if_pos h2, h2, if_pos (by decide)]
    · rw [if_neg h2, if_neg (by bv_omega), BitVec.add_assoc]
      rfl

/-- Orq and RECORDS_LOST of a state that has lost one more record. -/
theorem raiseAlarm_lost (hr : 48 ≤ s.orq.records.length + s.orq.reservations) (code : AlarmCode) (head : Byte) (a b : Nat) :
    (raiseAlarm code head a b s).orq = { s.orq with lost := true } ∧
      (raiseAlarm code head a b s).counter .recordsLost = lostAgain (s.counter .recordsLost) := by
  rw [raiseAlarm_full hr]
  obtain ⟨orq, lost, _⟩ := loseRecord_full s (Bool.eq_false_iff.mpr fun h => absurd (orqRoom_iff.mp h) (Nat.not_lt.mpr hr))
  exact ⟨orq, lost⟩

/-- An event that does not wrap its counter leaves the records. -/
theorem countEvent_plain (hc : c ≠ .recordsLost) (hn : s.counter c ≠ 65535#16) :
    (countEvent c s).orq = s.orq ∧ (countEvent c s).counter .recordsLost = s.counter .recordsLost := by
  rw [countEvent_eq hn]
  exact ⟨rfl, setCounter_counter_ne _ _ _ _ hc.symm⟩

/-- An event that wraps its counter raises COUNTER_WRAP. -/
theorem countEvent_wraps (hn : s.counter c = 65535#16) :
    countEvent c s = raiseAlarm .counterWrap nodeByte c.id 0 (setCounter c 0#16 s) := if_pos hn

/-- COUNTER_WRAP of VALVE_FAULTS (R161). -/
def faultsWrapRecord (s : State) : Record :=
  ⟨.alarm, 255#8, s.pitch.sequence.elim 0#16 PitchSequence.serial, 255#8, 12#8, 0#8, 5#32, 0#24⟩

theorem alarmRecord_wrap : alarmRecord .counterWrap nodeByte CounterId.valveFaults.id 0 s = faultsWrapRecord s := by
  rw [alarmRecord, alarmSerial_eq]
  rfl

/-- The count of a valve fault behind a queue with a free place and no lost flag. -/
theorem countFault_wrap_room (hn : s.counter .valveFaults = 65535#16) (hl : s.orq.lost = false)
    (hr : s.orq.records.length + s.orq.reservations < 48) :
    (countEvent .valveFaults s).orq = ⟨s.orq.records ++ [faultsWrapRecord s], s.orq.reservations, false⟩ ∧
      (countEvent .valveFaults s).counter .recordsLost = s.counter .recordsLost := by
  have wrap : alarmRecord .counterWrap nodeByte CounterId.valveFaults.id 0 (setCounter .valveFaults 0#16 s) = faultsWrapRecord s :=
    alarmRecord_wrap
  have enters : countEvent .valveFaults s = appendRecord (faultsWrapRecord s) (setCounter .valveFaults 0#16 s) := by
    rw [countEvent_wraps hn, raiseAlarm_room (s := setCounter .valveFaults 0#16 s) hr, wrap]
  rw [enters]
  refine ⟨?_, setCounter_counter_ne s .valveFaults .recordsLost _ (by decide)⟩
  show (⟨s.orq.records ++ [if s.orq.lost then _ else _], s.orq.reservations, false⟩ : Orq) = _
  rw [hl]
  rfl

/-- The count of a valve fault behind a full queue. -/
theorem countFault_wrap_full (hn : s.counter .valveFaults = 65535#16) (hr : 48 ≤ s.orq.records.length + s.orq.reservations) :
    (countEvent .valveFaults s).orq = { s.orq with lost := true } ∧
      (countEvent .valveFaults s).counter .recordsLost = lostAgain (s.counter .recordsLost) := by
  rw [countEvent_wraps hn]
  obtain ⟨orq, lost⟩ := raiseAlarm_lost (s := setCounter .valveFaults 0#16 s) hr .counterWrap nodeByte CounterId.valveFaults.id 0
  rw [setCounter_counter_ne s .valveFaults .recordsLost _ (by decide)] at lost
  exact ⟨orq, lost⟩

end

section
variable {s : State} {h : HeadId} {v : ValveId}

/-- The alarm of an expired stroke, by the direction of its output `open` (R150). -/
def strokeRecord (h : HeadId) (v : ValveId) (opens : Bool) (s : State) : Record :=
  ⟨.alarm, BitVec.ofNat 8 h.val, s.pitch.sequence.elim 0#16 PitchSequence.serial, 255#8, if opens then 2#8 else 1#8,
    if s.orq.lost then 16#8 else 0#8, BitVec.ofNat 32 (valveCode v), BitVec.ofNat 24 ((s.head h).table.strokes.get v)⟩

/-- The fault of an expired stroke. -/
def strokeFault (opens : Bool) : ValveFault := if opens then .noOpen else .stuckOpen

theorem announceFault_stroke (opens : Bool) :
    announceFault h v (strokeFault opens) s = countEvent .valveFaults
      (raiseAlarm (strokeFault opens).alarm (headByte h) (valveCode v) ((s.head h).table.strokes.get v) s) := by
  cases opens <;> rfl

theorem strokeAlarm_room (opens : Bool) (hr : s.orq.records.length + s.orq.reservations < 48) :
    (raiseAlarm (strokeFault opens).alarm (headByte h) (valveCode v) ((s.head h).table.strokes.get v) s).orq =
      ⟨s.orq.records ++ [strokeRecord h v opens s], s.orq.reservations, false⟩ := by
  rw [raiseAlarm_room hr]
  have marked (r : Record) (hf : r.flags = 0#8) :
      (if s.orq.lost then r.markLost else r) = { r with flags := if s.orq.lost then 16#8 else 0#8 } := by
    cases s.orq.lost
    · exact congrArg (fun f => { r with flags := f }) hf
    · exact congrArg (fun f => { r with flags := f ||| 16#8 }) hf
  show (⟨s.orq.records ++ [if s.orq.lost then _ else _], s.orq.reservations, false⟩ : Orq) = _
  rw [marked _ rfl, alarmRecord, alarmSerial_eq]
  cases opens <;> rfl

/-- R157, R161: what the announcement of an expired stroke makes of the Outbound Record Queue. -/
theorem announceFault_orq (opens : Bool) :
    let t := announceFault h v (strokeFault opens) s
    let places := s.orq.records.length + s.orq.reservations
    let wraps := s.counter .valveFaults = 65535#16
    let lost := s.counter .recordsLost
    (places < 48 → ¬wraps →
      t.orq = ⟨s.orq.records ++ [strokeRecord h v opens s], s.orq.reservations, false⟩ ∧ t.counter .recordsLost = lost) ∧
    (places < 47 → wraps →
      t.orq = ⟨s.orq.records ++ [strokeRecord h v opens s, faultsWrapRecord s], s.orq.reservations, false⟩ ∧
        t.counter .recordsLost = lost) ∧
    (places = 47 → wraps →
      t.orq = ⟨s.orq.records ++ [strokeRecord h v opens s], s.orq.reservations, true⟩ ∧
        t.counter .recordsLost = lostAgain lost) ∧
    (48 ≤ places →
      t.orq = { s.orq with lost := true } ∧ (¬wraps → t.counter .recordsLost = lostAgain lost) ∧
        (wraps → t.counter .recordsLost = lostAgain (lostAgain lost))) := by
  intro t places wraps lost
  obtain ⟨a, ha⟩ : ∃ a, a = raiseAlarm (strokeFault opens).alarm (headByte h) (valveCode v) ((s.head h).table.strokes.get v) s :=
    ⟨_, rfl⟩
  have ht : t = countEvent .valveFaults a := by rw [ha]; exact announceFault_stroke opens
  have count : a.counter .valveFaults = s.counter .valveFaults := by rw [ha, raiseAlarm_counter _ _ _ _ (by decide)]
  have enters (hr : places < 48) : a.orq = ⟨s.orq.records ++ [strokeRecord h v opens s], s.orq.reservations, false⟩ ∧
      a.counter .recordsLost = lost ∧ faultsWrapRecord a = faultsWrapRecord s := by
    refine ⟨by rw [ha, strokeAlarm_room opens hr], ?_, ?_⟩ <;> rw [ha, raiseAlarm_room hr] <;> rfl
  have longer : (s.orq.records ++ [strokeRecord h v opens s]).length + s.orq.reservations = places + 1 := by
    rw [List.length_append, List.length_singleton]
    exact Nat.add_right_comm _ _ _
  rw [ht]
  refine ⟨fun hr hw => ?_, fun hr hw => ?_, fun hr hw => ?_, fun hr => ?_⟩
  · obtain ⟨orq, kept, _⟩ := enters hr
    obtain ⟨horq, hlost⟩ := countEvent_plain (s := a) (c := .valveFaults) (by decide) (by rw [count]; exact hw)
    exact ⟨horq.trans orq, hlost.trans kept⟩
  · obtain ⟨orq, kept, wrap⟩ := enters (by omega)
    obtain ⟨horq, hlost⟩ := countFault_wrap_room (s := a) (by rw [count]; exact hw) (by rw [orq])
      (by rw [orq, longer]; omega)
    rw [orq, wrap] at horq
    exact ⟨by rw [horq, List.append_assoc]; rfl, hlost.trans kept⟩
  · obtain ⟨orq, kept, _⟩ := enters (by omega)
    obtain ⟨horq, hlost⟩ := countFault_wrap_full (s := a) (by rw [count]; exact hw) (by rw [orq, longer]; omega)
    rw [orq] at horq
    exact ⟨horq, hlost.trans (congrArg lostAgain kept)⟩
  · obtain ⟨orq, kept⟩ : a.orq = { s.orq with lost := true } ∧ a.counter .recordsLost = lostAgain lost := by
      rw [ha]
      exact raiseAlarm_lost hr _ _ _ _
    have full : 48 ≤ a.orq.records.length + a.orq.reservations := by rw [orq]; exact hr
    by_cases hw : wraps
    · obtain ⟨horq, hlost⟩ := countFault_wrap_full (s := a) (by rw [count]; exact hw) full
      rw [orq] at horq
      exact ⟨horq, fun hn => absurd hw hn, fun _ => hlost.trans (congrArg lostAgain kept)⟩
    · obtain ⟨horq, hlost⟩ := countEvent_plain (s := a) (c := .valveFaults) (by decide) (by rw [count]; exact hw)
      exact ⟨horq.trans orq, fun _ => hlost.trans kept, fun hn => absurd hn hw⟩

/-! ### What a stroke fault makes of the cycle (R106) -/

theorem takeValveFault_stuckOpen (hp : isProduct v = true)
    (hq : (s.seq h).state ∈ [HeadState.running, .forcedSnift, .stepHold]) :
    takeValveFault h v .stuckOpen s = stuckOpenEnd h s := by
  unfold takeValveFault
  rw [if_pos hp]
  simp only [List.mem_cons, List.not_mem_nil, or_false] at hq
  rcases hq with hq | hq | hq <;> rw [hq]

theorem takeValveFault_noOpen (hp : isProduct v = true) (hq : (s.seq h).state = .running) :
    takeValveFault h v .noOpen s = abortCycle h (setFaultPending h s) := by
  unfold takeValveFault
  rw [if_pos hp, hq]

/-- R106: a product valve that sticks open in an active cycle ends it in FAULT with every valve closed. -/
theorem valveFault_stuckOpen (hv : v ∈ [ValveId.fast, .slow, .add])
    (hq : (s.seq h).state ∈ [HeadState.running, .forcedSnift, .stepHold]) :
    let t := valveFault h v .stuckOpen s
    (t.seq h).state = .fault ∧ (t.seq h).entry = none ∧ (t.seq h).equalised = false ∧ ∀ y, (t.valve h y).closed := by
  have hp := isProduct_iff.mpr hv
  have hseq := announceFault_seq (s := s) (h := h) (v := v) .stuckOpen h
  obtain ⟨a, ha⟩ : ∃ a, a = announceFault h v .stuckOpen s := ⟨_, rfl⟩
  rw [← ha] at hseq
  obtain ⟨b, hb⟩ : ∃ b, b = closeProducts h (requestClose h .snift (requestClose h .gas a)) := ⟨_, rfl⟩
  have closed (y : ValveId) : (b.valve h y).closed := by
    rw [hb]
    cases y
    · rw [Valve.closed, closeProducts_valve_other _ h h .gas (by simp)]
      exact requestClose_keeps _ h h .snift .gas (requestClose_closed a h .gas)
    · exact closeProducts_closed _ h .fast (by simp)
    · exact closeProducts_closed _ h .slow (by simp)
    · exact closeProducts_closed _ h .add (by simp)
    · rw [Valve.closed, closeProducts_valve_other _ h h .snift (by simp)]
      exact requestClose_closed _ h .snift
  obtain ⟨d, hd⟩ : ∃ d, d = freezeBoth h ((clearEqualised h b).modSeq h fun q => { q with timer := none }) := ⟨_, rfl⟩
  have dclosed (y : ValveId) : (d.valve h y).closed := by
    rw [hd, freezeBoth_valve, modSeq_valve, clearEqualised_dry b h fun y _ => (closed y).2, modSeq_valve]
    exact closed y
  have taken : valveFault h v .stuckOpen s = endCycle .stuckOpen h d := by
    rw [valveFault, ← ha, takeValveFault_stuckOpen hp (by rw [hseq]; exact hq), hd, hb]
    rfl
  rw [taken, endCycle_eq .stuckOpen fun y _ => (dclosed y).2]
  dsimp only
  refine ⟨?_, ?_, ?_, fun y => ?_⟩
  · rw [modSeq_seq]
    exact if_pos (.inr (.inr rfl))
  · rw [modSeq_seq]
    rfl
  · rw [modSeq_seq]
    rfl
  · rw [modSeq_valve, cycleRecorded_valve]
    exact requestClose_keeps _ h h .snift y (dclosed y)

/-- R101: a forced snift closes all but SNIFT and clears the equalised flag. -/
theorem forceSnift_closes :
    ((forceSnift h s).seq h).equalised = false ∧ ∀ y, y ≠ .snift → ((forceSnift h s).valve h y).closed := by
  cases hp : (headPlan h s)[sniftIndex h s]? with
  | some e =>
    obtain ⟨_, _, closed, _, _, _, _, seq⟩ := forceSnift_snifting s h ⟨e, hp⟩
    exact ⟨by rw [seq], closed⟩
  | none =>
    rw [forceSnift_none s h hp]
    refine ⟨by rw [requestClose_seq, modSeq_seq], fun y hy => ?_⟩
    by_cases hg : y = .gas
    · rw [hg]
      exact requestClose_closed _ h .gas
    · refine requestClose_keeps _ h h .gas y ?_
      rw [modSeq_valve]
      exact closeProducts_closed _ h y (by cases y <;> simp_all)

/-- R106: a product valve that does not open forces the snift of a RUNNING cycle with fault pending. -/
theorem valveFault_noOpen (hv : v ∈ [ValveId.fast, .slow, .add]) (hq : (s.seq h).state = .running) :
    let t := valveFault h v .noOpen s
    (t.seq h).state = .forcedSnift ∧ (t.seq h).faultPending = true ∧
      ((s.seq h).sniftBegun = false → (t.seq h).equalised = false ∧ ∀ y, y ≠ .snift → (t.valve h y).closed) := by
  have hseq := announceFault_seq (s := s) (h := h) (v := v) .noOpen h
  obtain ⟨a, ha⟩ : ∃ a, a = announceFault h v .noOpen s := ⟨_, rfl⟩
  rw [← ha] at hseq
  have taken : valveFault h v .noOpen s = abortCycle h (setFaultPending h a) := by
    rw [valveFault, ← ha, takeValveFault_noOpen (isProduct_iff.mpr hv) (by rw [hseq]; exact hq)]
  obtain ⟨_, state, pending, _⟩ := abort_withFault a h (by rw [hseq, hq]; decide)
  rw [taken]
  refine ⟨state, pending, fun hb => ?_⟩
  obtain ⟨d, hd⟩ : ∃ d, d = freezeBoth h (setFaultPending h a) := ⟨_, rfl⟩
  have before : (setFaultPending h a).seq h = { s.seq h with faultPending := true } := by
    rw [setFaultPending, modSeq_seq, hseq]
  have forced : abortCycle h (setFaultPending h a) = forceSnift h d := by
    rw [abortCycle, if_neg (by rw [before]; exact (by rw [hq]; decide : (s.seq h).state ≠ .forcedSnift)), takeToSnift, if_neg, hd]
    rw [sniftUnderWay, freezeBoth_seq, before]
    simp [hb]
  rw [forced]
  exact forceSnift_closes

theorem strokeExpires_idle (hn : (s.valve h v).supervision ≠ .stroking ∨ (s.valve h v).expiry = none) : strokeExpires h v s = s := by
  unfold strokeExpires
  split
  · simp_all
  · rfl

theorem strokeExpires_due {due : Ticks} (hs : (s.valve h v).supervision = .stroking) (he : (s.valve h v).expiry = some due) :
    strokeExpires h v s = valveFault h v (strokeFault (s.valve h v).output)
      ((s.advance due).modValve h v fun x => { x with supervision := .faulted, expiry := none }) := by
  unfold strokeExpires strokeFault
  rw [hs, he]

end

/-- Settles O59: the queue by `announceFault_orq`, the cycle by `valveFault_stuckOpen` and `valveFault_noOpen`. -/
theorem strokeExpiryReportsTheFault : Obligations.StrokeExpiryReportsTheFault := by
  intro h v s x q i
  refine ⟨fun hn => congrArg Host.Outcome.next (strokeExpires_idle hn), fun due hs he => ?_⟩
  obtain ⟨w, hw⟩ : ∃ w, w = (s.advance due).modValve h v fun x => { x with supervision := .faulted, expiry := none } := ⟨_, rfl⟩
  have expired : strokeExpires h v s = valveFault h v (strokeFault x.output) w := by
    rw [hw]
    exact strokeExpires_due hs he
  have wseq : w.seq h = q := by rw [hw, modValve_seq, advance_seq]
  have wnow : w.now = max s.now due := by rw [hw]; rfl
  have wcount (c : CounterId) : w.counter c = s.counter c := by rw [hw]; rfl
  have worq : w.orq = s.orq := by rw [hw]; rfl
  have wpitch : w.pitch = s.pitch := by rw [hw]; rfl
  have wtable : (w.head h).table = (s.head h).table := by rw [hw, State.modValve, modHead_head]; rfl
  have wvalve : w.valve h v = { x with supervision := .faulted, expiry := none } := by rw [hw, modValve_valve, advance_valve]
  refine ⟨_, congrArg Host.Outcome.next expired, (valveFault_now _).trans wnow, ?_, fun hv => ?_, fun hv ho hq => ?_,
    fun hv ho hq => ?_⟩
  · rw [valveFault_counter, wcount]
  · have books := announceFault_orq (s := w) (h := h) (v := v) x.output
    simp only [worq, wcount, strokeRecord, faultsWrapRecord, wpitch, wtable, lostAgain_twice] at books
    rw [valveFault_aside _ (by rwa [wseq]), announceFault_valve, announceFault_seq]
    exact ⟨wvalve, wseq, books⟩
  · rw [ho]
    exact valveFault_stuckOpen hv (by rwa [wseq])
  · rw [ho]
    obtain ⟨state, pending, closes⟩ := valveFault_noOpen (s := w) (h := h) hv (by rwa [wseq])
    refine ⟨state, pending, fun hb => ?_⟩
    obtain ⟨equalised, closed⟩ := closes (by rwa [wseq])
    exact ⟨equalised, fun y hy => closed y (by rintro rfl; simp at hy)⟩

end Sys2Proof.Machine
end

section
/-! Proofs about the beginning of a plan entry (R93 to R99, R103, R116, R145, R146, R148, R169): what each kind of entry does to
valves, sequencer, channel, records and traces, and the statement O51. -/

namespace Sys2Proof.Machine

open Sys2Proof

/-! ### Driving an output (R145, R148) -/

/-- What a command of output `o` leaves of valve `v` with items `x`, at head `h`. -/
def State.driven (s : State) (h : HeadId) (v : ValveId) (o : Bool) (x : Valve) : Valve :=
  if x.output = o then x
  else if x.feedback = (if o then .opened else .closed) then { x with output := o, supervision := .idle, expiry := none }
  else { x with output := o, supervision := .stroking, expiry := some (s.now + 10000 * (s.head h).table.strokes.get v) }

/-- What an opening that is carried out leaves of valve `v`. -/
def State.opened (s : State) (h : HeadId) (v : ValveId) : Valve :=
  if (s.valve h v).request then s.valve h v else s.driven h v true { s.valve h v with request := true }

/-- The interlock lets a product valve open (R146). -/
@[reducible] def State.mayDose (s : State) (h : HeadId) : Prop :=
  (s.seq h).equalised = true ∧ (s.valve h .snift).output = false

/-- What an opening of product valve `v` leaves of it (R146). -/
def State.dosed (s : State) (h : HeadId) (v : ValveId) : Valve :=
  if s.mayDose h then s.opened h v else { s.valve h v with request := true }

/-- ALARM INTERLOCK of valve `v`, with value B `b` (R146). -/
def interlockRecord (h : HeadId) (b : BitVec 24) (s : State) (v : ValveId) : Record :=
  ⟨.alarm, BitVec.ofNat 8 h.val, s.pitch.sequence.elim 0#16 PitchSequence.serial, 255#8, 4#8, 0#8,
    BitVec.ofNat 32 (valveCode v), b⟩

/-- FAST, SLOW and ADD, in the order of the interlock (log 35). -/
def products : List ValveId := [.fast, .slow, .add]

section
variable {s t u : State} {h : HeadId} {v w : ValveId} {o : Bool}

theorem agrees_iff {f : Feedback} : agrees f o = true ↔ f = (if o then .opened else .closed) := by
  cases f <;> cases o <;> decide

theorem setOutput_valve : (setOutput h v o s).valve h v = s.driven h v o (s.valve h v) := by
  unfold setOutput State.driven
  by_cases ho : (s.valve h v).output = o
  · rw [if_pos ho, if_pos ho]
  · rw [if_neg ho, if_neg ho, modValve_valve, Valve.change, Nat.mul_comm]
    exact if_congr agrees_iff rfl rfl

theorem driven_output (x : Valve) : (s.driven h v o x).output = o := by
  unfold State.driven
  by_cases ho : x.output = o
  · rw [if_pos ho, ho]
  · rw [if_neg ho]
    split_ifs <;> rfl

/-- Driving reads the time and the head's stroke times alone. -/
theorem driven_congr (hn : t.now = s.now) (ht : (t.head h).table = (s.head h).table) : t.driven h = s.driven h := by
  funext v o x
  rw [State.driven, hn, ht, State.driven]

theorem Plumbing.table (p : Plumbing h s t) : (t.head h).table = (s.head h).table := by rw [p.own]

theorem Plumbing.trace (p : Plumbing h s t) : t.trace = s.trace := (congrArg State.trace p.node :)

theorem Plumbing.pitch (p : Plumbing h s t) : t.pitch = s.pitch := by rw [p.node]

theorem Plumbing.driven (p : Plumbing h s t) : t.driven h = s.driven h := driven_congr p.now p.table

theorem setOutput_orq : (setOutput h v o s).orq = s.orq := (silent_setOutput s h v o).orq

/-! ### Openings that need no leave (R145) -/

theorem requestOpen_gas_valve : (requestOpen h .gas s).valve h .gas = s.opened h .gas := by
  unfold requestOpen State.opened
  split
  · rfl
  · rw [setOutput_valve, modValve_valve, (plumbing_modValve s h .gas fun x => { x with request := true }).driven]

theorem requestOpen_gas_other (hv : v ≠ .gas) : (requestOpen h .gas s).valve h v = s.valve h v := by
  unfold requestOpen
  split
  · rfl
  · rw [setOutput_valve_other _ h h .gas v true (.inr hv), modValve_valve_other s h h .gas v _ (.inr hv)]

theorem requestOpen_gas_orq : (requestOpen h .gas s).orq = s.orq := by
  unfold requestOpen
  split
  · rfl
  · exact setOutput_orq

/-! ### What the interlock closes (R146, log 35) -/

theorem interlockCloseOne_valve (b : Nat) : (interlockCloseOne h b v s).valve h v = s.driven h v false (s.valve h v) := by
  unfold interlockCloseOne
  split
  · rw [raiseAlarm_valve, setOutput_valve]
  · rename_i hc
    exact (if_pos (Bool.eq_false_iff.mpr hc)).symm

theorem interlockClose_product (b : Nat) (hv : v ∈ products) :
    (interlockClose h b s).valve h v = s.driven h v false (s.valve h v) := by
  have p1 := plumbing_interlockCloseOne s h b .fast
  have p2 := plumbing_interlockCloseOne (interlockCloseOne h b .fast s) h b .slow
  unfold interlockClose
  simp only [products, List.mem_cons, List.not_mem_nil, or_false] at hv
  rcases hv with rfl | rfl | rfl
  · rw [interlockCloseOne_valve_other _ h b _ _ (by decide), interlockCloseOne_valve_other _ h b _ _ (by decide), interlockCloseOne_valve]
  · rw [interlockCloseOne_valve_other _ h b _ _ (by decide), interlockCloseOne_valve, p1.driven, interlockCloseOne_valve_other _ h b _ _ (by decide)]
  · rw [interlockCloseOne_valve, (p2.after p1).driven, interlockCloseOne_valve_other _ h b _ _ (by decide),
      interlockCloseOne_valve_other _ h b _ _ (by decide)]

theorem interlockClose_other (b : Nat) (hv : v ∉ products) : (interlockClose h b s).valve h v = s.valve h v := by
  simp only [products, List.mem_cons, List.not_mem_nil, or_false, not_or] at hv
  obtain ⟨h1, h2, h3⟩ := hv
  unfold interlockClose
  rw [interlockCloseOne_valve_other _ h b _ _ h3, interlockCloseOne_valve_other _ h b _ _ h2, interlockCloseOne_valve_other _ h b _ _ h1]

theorem alarmRecord_interlock (b : Nat) :
    alarmRecord .interlock (headByte h) (valveCode v) b s = interlockRecord h (BitVec.ofNat 24 b) s v := by
  rw [alarmRecord, alarmSerial_eq]
  rfl

theorem interlockRecord_congr {b : BitVec 24} (hp : t.pitch = s.pitch) : interlockRecord h b t = interlockRecord h b s := by
  funext v
  rw [interlockRecord, hp, interlockRecord]

theorem enters_interlock (b : Nat) (hr : s.roomFor 1) :
    Enters [interlockRecord h (BitVec.ofNat 24 b) s v] s (raiseAlarm .interlock (headByte h) (valveCode v) b s) := by
  rw [← alarmRecord_interlock]
  exact enters_enterUnreserved hr _

/-- There is room for `n` records, or none is to enter. -/
def State.admits (n : Nat) (s : State) : Prop := n = 0 ∨ s.roomFor n

/-- The alarm of one product output, if it is open. -/
def interlockAlarms (h : HeadId) (b : BitVec 24) (s : State) (vs : List ValveId) : List Record :=
  (vs.filter fun v => (s.valve h v).output).map (interlockRecord h b s)

theorem enters_interlockCloseOne (b : Nat) (hr : s.admits (interlockAlarms h (BitVec.ofNat 24 b) s [v]).length) :
    Enters (interlockAlarms h (BitVec.ofNat 24 b) s [v]) s (interlockCloseOne h b v s) := by
  unfold interlockCloseOne
  cases hv : (s.valve h v).output with
  | false =>
    have none : interlockAlarms h (BitVec.ofNat 24 b) s [v] = [] := by simp [interlockAlarms, hv]
    rw [none]
    exact Enters.refl s
  | true =>
    have one : interlockAlarms h (BitVec.ofNat 24 b) s [v] = [interlockRecord h (BitVec.ofNat 24 b) s v] := by
      simp [interlockAlarms, hv]
    rw [one] at hr ⊢
    have room : (setOutput h v false s).roomFor 1 := by
      rw [State.roomFor, setOutput_orq]
      exact hr.resolve_left (Nat.one_ne_zero ·)
    have entered := enters_interlock (h := h) (v := v) b room
    rw [interlockRecord_congr (plumbing_setOutput s h v false).pitch] at entered
    obtain ⟨records, counters⟩ := entered
    rw [setOutput_orq] at records
    exact ⟨records, counters.trans (silent_setOutput s h v false).counters⟩

theorem Enters.admits {rs : List Record} {n k : Nat} (e : Enters rs s t) (hr : s.admits (rs.length + n)) (hk : k ≤ n) :
    t.admits k := by
  rcases hr with h0 | hr
  · exact .inl (by omega)
  · exact .inr ((e.roomFor hr).mono hk)

/-- The interlock's alarms, in its order, with room for them. -/
theorem enters_interlockClose (b : Nat) (hr : s.admits (interlockAlarms h (BitVec.ofNat 24 b) s products).length) :
    Enters (interlockAlarms h (BitVec.ofNat 24 b) s products) s (interlockClose h b s) := by
  have parts : interlockAlarms h (BitVec.ofNat 24 b) s products =
      interlockAlarms h (BitVec.ofNat 24 b) s [.fast] ++ (interlockAlarms h (BitVec.ofNat 24 b) s [.slow] ++
        interlockAlarms h (BitVec.ofNat 24 b) s [.add]) := by
    simp only [interlockAlarms, ← List.map_append, ← List.filter_append]
    rfl
  have same {t : State} (p : Plumbing h s t) {v : ValveId} (hv : t.valve h v = s.valve h v) :
      interlockAlarms h (BitVec.ofNat 24 b) t [v] = interlockAlarms h (BitVec.ofNat 24 b) s [v] := by
    simp only [interlockAlarms, List.filter_cons, List.filter_nil, hv]
    rw [interlockRecord_congr p.pitch]
  rw [parts, List.length_append, List.length_append] at hr
  rw [parts]
  have p1 := plumbing_interlockCloseOne s h b .fast
  have p2 := (plumbing_interlockCloseOne (interlockCloseOne h b .fast s) h b .slow).after p1
  have e1 : Enters _ s (interlockCloseOne h b .fast s) := enters_interlockCloseOne b (hr.imp (by omega) fun r => r.mono (by omega))
  have slow := same p1 (interlockCloseOne_valve_other s h b .fast .slow (by decide))
  have e2 := enters_interlockCloseOne (s := interlockCloseOne h b .fast s) (h := h) (v := .slow) b
    (by rw [slow]; exact e1.admits hr (by omega))
  rw [slow] at e2
  have add := same p2 (v := .add) (by rw [interlockCloseOne_valve_other _ h b _ _ (by decide), interlockCloseOne_valve_other _ h b _ _ (by decide)])
  have e12 := e1.trans e2
  have e3 := enters_interlockCloseOne (s := interlockCloseOne h b .slow (interlockCloseOne h b .fast s)) (h := h) (v := .add) b
    (by rw [add]; exact e12.admits (n := (interlockAlarms h (BitVec.ofNat 24 b) s [.add]).length)
          (hr.imp (by rw [List.length_append]; omega) fun r => r.mono (by rw [List.length_append]; omega)) (le_refl _))
  rw [add] at e3
  exact e1.trans (e2.trans e3)

/-! ### A step that the interlock may answer (R146) -/

/-- The product valves, the records and what driving reads stand. -/
structure Untouched (h : HeadId) (s t : State) : Prop where
  valve : ∀ v ∈ products, t.valve h v = s.valve h v
  orq : t.orq = s.orq
  now : t.now = s.now
  table : (t.head h).table = (s.head h).table
  pitch : t.pitch = s.pitch

/-- The interlock has closed every open product output, with alarms of value B `b`. -/
structure Interlocked (h : HeadId) (b : BitVec 24) (s t : State) : Prop where
  valve : ∀ v ∈ products, t.valve h v = s.driven h v false (s.valve h v)
  orq : s.admits (interlockAlarms h b s products).length →
    t.orq = { s.orq with records := s.orq.records ++ interlockAlarms h b s products }
  now : t.now = s.now
  table : (t.head h).table = (s.head h).table
  pitch : t.pitch = s.pitch

theorem Untouched.refl (h : HeadId) (s : State) : Untouched h s s := ⟨fun _ _ => rfl, rfl, rfl, rfl, rfl⟩

theorem Untouched.trans (a : Untouched h s t) (b : Untouched h t u) : Untouched h s u :=
  ⟨fun v hv => (b.valve v hv).trans (a.valve v hv), b.orq.trans a.orq, b.now.trans a.now, b.table.trans a.table,
    b.pitch.trans a.pitch⟩

theorem Untouched.driven (a : Untouched h s t) : t.driven h = s.driven h := driven_congr a.now a.table

theorem Untouched.alarms (a : Untouched h s t) (b : BitVec 24) : interlockAlarms h b t products = interlockAlarms h b s products := by
  have same : products.filter (fun v => (t.valve h v).output) = products.filter fun v => (s.valve h v).output :=
    List.filter_congr fun v hv => by rw [a.valve v hv]
  rw [interlockAlarms, same, interlockRecord_congr a.pitch, interlockAlarms]

theorem Untouched.interlocked {b : BitVec 24} (a : Untouched h s t) (i : Interlocked h b t u) : Interlocked h b s u := by
  refine ⟨fun v hv => ?_, fun hr => ?_, i.now.trans a.now, i.table.trans a.table, i.pitch.trans a.pitch⟩
  · rw [i.valve v hv, a.driven, a.valve v hv]
  · have entered := i.orq
    rw [a.alarms, State.admits, State.roomFor, a.orq] at entered
    exact entered hr

theorem Interlocked.untouched {b : BitVec 24} (i : Interlocked h b s t) (a : Untouched h t u) : Interlocked h b s u :=
  ⟨fun v hv => (a.valve v hv).trans (i.valve v hv), fun hr => a.orq.trans (i.orq hr), a.now.trans i.now,
    a.table.trans i.table, a.pitch.trans i.pitch⟩

theorem Interlocked.dry {b : BitVec 24} (i : Interlocked h b s t) : t.dry h := fun v hv => by
  rw [i.valve v (by rcases hv with rfl | rfl | rfl <;> decide)]
  exact driven_output _

theorem interlocked_close (b : Nat) : Interlocked h (BitVec.ofNat 24 b) s (interlockClose h b s) := by
  have p := plumbing_interlockClose s h b
  exact ⟨fun v hv => interlockClose_product b hv, fun hr => (enters_interlockClose b hr).1, p.now, p.table, p.pitch⟩

theorem untouched_modSeq (f : Sequencer → Sequencer) : Untouched h s (s.modSeq h f) :=
  ⟨fun v _ => modSeq_valve s h h v f, rfl, rfl, by rw [State.modSeq, modHead_head], rfl⟩

/-- The other valves of a head may change. -/
theorem Plumbing.untouched (p : Plumbing h s t) (hv : ∀ v ∈ products, t.valve h v = s.valve h v) (ho : t.orq = s.orq) :
    Untouched h s t := ⟨hv, ho, p.now, p.table, p.pitch⟩

theorem untouched_gas_open : Untouched h s (requestOpen h .gas s) :=
  (plumbing_requestOpen s h .gas).untouched (fun _ hv => requestOpen_gas_other (by rintro rfl; exact absurd hv (by decide)))
    requestOpen_gas_orq

theorem untouched_close (hv : v ∉ products) : Untouched h s (requestClose h v s) :=
  (plumbing_requestClose s h v).untouched
    (fun w hw => requestClose_valve_other s h h v w (.inr (by rintro rfl; exact hv hw))) (silent_requestClose s h v).orq

theorem requestOpen_of_request (hr : (s.valve h v).request = true) : requestOpen h v s = s := if_pos hr

/-- A SNIFT opening closes the product outputs. -/
theorem interlocked_snift_open (hr : (s.valve h .snift).request = false) : Interlocked h 1#24 s (requestOpen h .snift s) := by
  obtain ⟨a, ha⟩ : ∃ a, a = s.modValve h .snift fun x => { x with request := true } := ⟨_, rfl⟩
  have opens : requestOpen h .snift s = setOutput h .snift true (interlockClose h 1 a) := by
    rw [ha]
    exact if_neg (by rw [hr]; decide)
  have before : Untouched h s a := by
    rw [ha]
    exact (plumbing_modValve s h .snift _).untouched
      (fun v hv => modValve_valve_other s h h .snift v _ (.inr (by rintro rfl; exact absurd hv (by decide)))) rfl
  have behind : Untouched h (interlockClose h 1 a) (setOutput h .snift true (interlockClose h 1 a)) :=
    (plumbing_setOutput _ h .snift true).untouched
      (fun v hv => setOutput_valve_other _ h h .snift v true (.inr (by rintro rfl; exact absurd hv (by decide)))) setOutput_orq
  rw [opens]
  exact before.interlocked ((interlocked_close 1).untouched behind)

/-- R145: the SNIFT valve that a SNIFT opening leaves. -/
theorem requestOpen_snift_valve : (requestOpen h .snift s).valve h .snift = s.opened h .snift := by
  unfold State.opened
  split
  · rw [requestOpen_of_request ‹_›]
  · rename_i hr
    obtain ⟨a, ha⟩ : ∃ a, a = s.modValve h .snift fun x => { x with request := true } := ⟨_, rfl⟩
    have opens : requestOpen h .snift s = setOutput h .snift true (interlockClose h 1 a) := by
      rw [ha]
      exact if_neg hr
    have p : Plumbing h s a := by rw [ha]; exact plumbing_modValve s h .snift _
    rw [opens, setOutput_valve, interlockClose_other 1 (by decide), ((plumbing_interlockClose a h 1).after p).driven, ha,
      modValve_valve]

theorem requestOpen_snift_gas : (requestOpen h .snift s).valve h .gas = s.valve h .gas := by
  unfold requestOpen
  split
  · rfl
  · dsimp only
    rw [setOutput_valve_other _ h h .snift .gas true (.inr (by decide)), interlockClose_other 1 (by decide),
      modValve_valve_other s h h .snift .gas _ (.inr (by decide))]

/-! ### The equalised flag becomes clear (R146) -/

theorem clearEqualised_seq : (clearEqualised h s).seq h = { s.seq h with equalised := false } := by
  unfold clearEqualised
  split
  · rw [(plumbing_interlockClose _ h 0).seq, modSeq_seq]
  · rename_i he
    have : (s.seq h).equalised = false := Bool.eq_false_iff.mpr he
    rw [← this]

theorem clearEqualised_other (hv : v ∉ products) : (clearEqualised h s).valve h v = s.valve h v := by
  unfold clearEqualised
  split
  · rw [interlockClose_other 0 hv, modSeq_valve]
  · rfl

theorem interlocked_clearEqualised (he : (s.seq h).equalised = true) : Interlocked h 0#24 s (clearEqualised h s) := by
  unfold clearEqualised
  rw [if_pos he]
  exact (untouched_modSeq _).interlocked (interlocked_close 0)

theorem clearEqualised_clear (he : (s.seq h).equalised = false) : clearEqualised h s = s := if_neg (by rw [he]; decide)

theorem untouched_clearEqualised (hd : s.dry h) : Untouched h s (clearEqualised h s) := by
  rw [clearEqualised_dry s h hd]
  exact untouched_modSeq _

/-! ### A product opening (R146) -/

theorem openProduct_valve : (openProduct h v s).valve h v = if s.mayDose h then s.driven h v true (s.valve h v) else s.valve h v := by
  unfold openProduct State.mayDose
  cases he : (s.seq h).equalised with
  | false => simp [raiseAlarm_valve]
  | true =>
    cases ho : (s.valve h .snift).output with
    | false => simp [setOutput_valve]
    | true => simp [raiseAlarm_valve]

theorem openProduct_other (hw : w ≠ v) : (openProduct h v s).valve h w = s.valve h w := by
  unfold openProduct
  split
  · rw [raiseAlarm_valve]
  · split
    · rw [raiseAlarm_valve]
    · exact setOutput_valve_other s h h v w true (.inr hw)

theorem requestOpen_product (hv : v ∈ products) :
    requestOpen h v s =
      if (s.valve h v).request then s else openProduct h v (s.modValve h v fun x => { x with request := true }) := by
  unfold requestOpen
  simp only [products, List.mem_cons, List.not_mem_nil, or_false] at hv
  rcases hv with rfl | rfl | rfl <;> rfl

theorem mayDose_congr (hq : (t.seq h).equalised = (s.seq h).equalised) (hv : t.valve h .snift = s.valve h .snift) :
    t.mayDose h ↔ s.mayDose h := by
  rw [State.mayDose, hq, hv]

theorem requestOpen_product_valve (hv : v ∈ products) : (requestOpen h v s).valve h v = s.dosed h v := by
  have hn : ValveId.snift ≠ v := by rintro rfl; exact absurd hv (by decide)
  rw [requestOpen_product hv, State.dosed, State.opened]
  cases hr : (s.valve h v).request with
  | true =>
    simp only [if_true]
    have : s.valve h v = { s.valve h v with request := true } := by rw [← hr]
    split
    · rfl
    · exact this
  | false =>
    simp only [Bool.false_eq_true, if_false]
    have p := plumbing_modValve s h v fun x => { x with request := true }
    rw [openProduct_valve, modValve_valve, p.driven]
    exact if_congr (mayDose_congr (by rw [p.seq]) (modValve_valve_other s h h v .snift _ (.inr hn))) rfl rfl

theorem requestOpen_product_other (hv : v ∈ products) (hw : w ≠ v) : (requestOpen h v s).valve h w = s.valve h w := by
  rw [requestOpen_product hv]
  split
  · rfl
  · rw [openProduct_other hw, modValve_valve_other s h h v w _ (.inr hw)]

/-- Value B of the alarm of an opening that the interlock suppresses. -/
def unequalised (q : Sequencer) : BitVec 24 := if q.equalised then 1#24 else 0#24

/-- The alarms of openings of `vs` that the interlock suppresses. -/
def suppressedAlarms (h : HeadId) (s : State) (vs : List ValveId) : List Record :=
  (if s.mayDose h then [] else vs.filter fun v => !(s.valve h v).request).map
    (interlockRecord h (unequalised (s.seq h)) s)

theorem openProduct_enters (hr : s.mayDose h ∨ s.roomFor 1) :
    (openProduct h v s).orq =
      { s.orq with
        records := s.orq.records ++ if s.mayDose h then [] else [interlockRecord h (unequalised (s.seq h)) s v] } := by
  have alarm (b : Nat) (hb : unequalised (s.seq h) = BitVec.ofNat 24 b) (hm : ¬s.mayDose h) :
      (raiseAlarm .interlock (headByte h) (valveCode v) b s).orq =
        { s.orq with
          records := s.orq.records ++ if s.mayDose h then [] else [interlockRecord h (unequalised (s.seq h)) s v] } := by
    rw [if_neg hm, hb]
    exact (enters_interlock b (hr.resolve_left hm)).1
  unfold openProduct
  by_cases he : (s.seq h).equalised = true
  · rw [if_neg (by simp [he])]
    by_cases ho : (s.valve h .snift).output = true
    · rw [if_pos ho]
      exact alarm 1 (if_pos he) fun hm => absurd (hm.2.symm.trans ho) (by decide)
    · rw [if_neg ho, if_pos ⟨he, Bool.eq_false_iff.mpr ho⟩, List.append_nil]
      exact setOutput_orq
  · rw [if_pos (by simp [he])]
    exact alarm 0 (if_neg he) fun hm => he hm.1

theorem requestOpen_product_orq (hv : v ∈ products) (hr : s.admits (suppressedAlarms h s [v]).length) :
    (requestOpen h v s).orq = { s.orq with records := s.orq.records ++ suppressedAlarms h s [v] } := by
  have hn : ValveId.snift ≠ v := by rintro rfl; exact absurd hv (by decide)
  rw [requestOpen_product hv]
  cases hq : (s.valve h v).request with
  | true =>
    have none : suppressedAlarms h s [v] = [] := by simp [suppressedAlarms, hq]
    rw [none, List.append_nil]
    rfl
  | false =>
    simp only [Bool.false_eq_true, if_false]
    obtain ⟨a, ha⟩ : ∃ a, a = s.modValve h v fun x => { x with request := true } := ⟨_, rfl⟩
    have p : Plumbing h s a := by rw [ha]; exact plumbing_modValve s h v _
    have may : a.mayDose h ↔ s.mayDose h :=
      mayDose_congr (by rw [p.seq]) (by rw [ha]; exact modValve_valve_other s h h v .snift _ (.inr hn))
    have orq : a.orq = s.orq := by rw [ha]; rfl
    have alarms : suppressedAlarms h s [v] = if s.mayDose h then [] else [interlockRecord h (unequalised (s.seq h)) s v] := by
      simp only [suppressedAlarms, hq, List.filter_cons, List.filter_nil, Bool.not_false, if_true]
      split <;> rfl
    rw [alarms] at hr
    have room : a.mayDose h ∨ a.roomFor 1 := by
      rw [may, State.roomFor, orq]
      by_cases hm : s.mayDose h
      · exact .inl hm
      · rw [if_neg hm] at hr
        exact .inr (hr.resolve_left (Nat.one_ne_zero ·))
    have record : interlockRecord h (unequalised (a.seq h)) a v = interlockRecord h (unequalised (s.seq h)) s v := by
      rw [p.seq, interlockRecord_congr p.pitch]
    rw [← ha, openProduct_enters room, alarms, orq, record]
    exact congrArg (fun l => { s.orq with records := s.orq.records ++ l }) (if_congr may rfl rfl)

end

/-! ### A dose start (R116, R169) -/

/-- Only the channels of head `h` and the trace descriptors differ. -/
structure ChannelWork (h : HeadId) (s t : State) : Prop where
  node : t = { s with heads := t.heads, trace := t.trace }
  others : ∀ k, k ≠ h → t.head k = s.head k
  own : t.head h = { s.head h with chan := (t.head h).chan }

namespace ChannelWork

variable {h : HeadId} {s t u : State}

theorem refl (h : HeadId) (s : State) : ChannelWork h s s := ⟨rfl, fun _ _ => rfl, rfl⟩

theorem trans (a : ChannelWork h s t) (b : ChannelWork h t u) : ChannelWork h s u := by
  refine ⟨?_, fun k hk => (b.others k hk).trans (a.others k hk), ?_⟩
  · have e := b.node
    rw [a.node] at e
    exact e
  · have e := b.own
    rw [a.own] at e
    exact e

theorem after (b : ChannelWork h t u) (a : ChannelWork h s t) : ChannelWork h s u := a.trans b

theorem ite {p : Prop} [Decidable p] {a b : State} (ha : p → ChannelWork h s a) (hb : ¬p → ChannelWork h s b) :
    ChannelWork h s (if p then a else b) := by
  split
  · exact ha ‹_›
  · exact hb ‹_›

theorem seq (w : ChannelWork h s t) : t.seq h = s.seq h := by
  rw [State.seq, w.own]
  rfl

theorem valve (w : ChannelWork h s t) (v : ValveId) : t.valve h v = s.valve h v := by
  rw [State.valve, w.own]
  rfl

theorem table (w : ChannelWork h s t) : (t.head h).table = (s.head h).table := by rw [w.own]

theorem cycle (w : ChannelWork h s t) : (t.head h).cycle = (s.head h).cycle := by rw [w.own]

theorem orq (w : ChannelWork h s t) : t.orq = s.orq := by rw [w.node]

theorem now (w : ChannelWork h s t) : t.now = s.now := by rw [w.node]

theorem pitch (w : ChannelWork h s t) : t.pitch = s.pitch := by rw [w.node]

end ChannelWork

theorem channelWork_modChan (h : HeadId) (m : Meter) (f : Channel → Channel) (s : State) : ChannelWork h s (s.modChan h m f) :=
  ⟨rfl, fun k hk => modHead_head_ne s h k _ hk, by rw [State.modChan, modHead_head]⟩

theorem channelWork_doseStart (h : HeadId) (m : Meter) (s : State) : ChannelWork h s (doseStart h m s) :=
  ChannelWork.after (ChannelWork.ite (fun _ => channelWork_modChan h m _ _) fun _ => ChannelWork.refl h _)
    (channelWork_modChan h m _ s)

theorem channelWork_markedFill (h : HeadId) (s : State) : ChannelWork h s (markedFill h s) := ⟨rfl, fun _ _ => rfl, rfl⟩

theorem doseStart_trace (h : HeadId) (m : Meter) (s : State) : (doseStart h m s).trace = s.trace := by
  unfold doseStart cutoffTest
  split <;> rfl

section
variable {s t u : State} {h : HeadId} {v w : ValveId} {e : PhaseEntry}

/-! ### What each kind of entry does at its beginning (R94 to R99) -/

theorem startEntry_purge (hk : e.kind = .purge) :
    startEntry h e s = (.waits, clearEqualised h (requestOpen h .snift (requestOpen h .gas s))) := by
  rw [startEntry, hk]

theorem startEntry_rest (hk : e.kind = .rest) : startEntry h e s = (.waits, closeProducts h (requestOpen h .gas s)) := by
  rw [startEntry, hk]

theorem startEntry_snift (hk : e.kind = .snift) : startEntry h e s = (.waits, requestOpen h .snift (beginSnift h s)) := by
  rw [startEntry, hk]

theorem startEntry_pressurise (hk : e.kind = .pressurise) :
    startEntry h e s =
      (if (s.head h).scan.fault || s.scanner.bowl.fault then .failed else .waits, requestOpen h .gas s) := by
  have p := plumbing_requestOpen s h .gas
  have scan : ((requestOpen h .gas s).head h).scan = (s.head h).scan := by rw [p.own]
  have scanner : (requestOpen h .gas s).scanner = s.scanner := by rw [p.node]
  rw [startEntry, hk]
  dsimp only
  rw [scan, scanner]
  split <;> rfl

theorem startEntry_additive_late (hk : e.kind = .additive) (hl : reached h (headDeadlines h s).dFill s = true) :
    startEntry h e s = (.ended, s) := by
  rw [startEntry, hk]
  dsimp only
  rw [if_pos hl]

theorem startEntry_additive (hk : e.kind = .additive) (hl : reached h (headDeadlines h s).dFill s = false) :
    startEntry h e s =
      (.waits, if ((doseStart h .additive s).chan h .additive).state = .dosing then requestOpen h .add (doseStart h .additive s)
        else cutoffReached h .additive (doseStart h .additive s)) := by
  rw [startEntry, hk]
  dsimp only
  rw [if_neg (by rw [hl]; decide)]
  split <;> rfl

/-- The state in which a FILL entry's dose has started. -/
def fillStart (h : HeadId) (s : State) : State := doseStart h .main (if entryMarked h s then markedFill h s else s)

theorem startEntry_fill (hk : e.kind = .fill) :
    startEntry h e s =
      (.waits, if ((fillStart h s).chan h .main).state = .dosing then fastBand h (requestOpen h .slow (fillStart h s))
        else cutoffReached h .main (fillStart h s)) := by
  rw [startEntry, hk]
  exact (apply_ite (Prod.mk Begun.waits) _ _ _).symm

theorem channelWork_fillStart : ChannelWork h s (fillStart h s) :=
  (channelWork_doseStart h .main _).after
    (ChannelWork.ite (fun _ => channelWork_markedFill h s) fun _ => ChannelWork.refl h s)

/-- An entry that waits at its beginning is the one that a cycle which goes on is in. -/
theorem beginEntries_waits {rest : List PhaseEntry} (hw : (startEntry h e (enterEntry h e s)).1 = .waits) :
    beginEntries h (e :: rest) s = (startEntry h e (enterEntry h e s)).2 := by
  rw [beginEntries]
  rw [hw]

/-- An entry that is over at its beginning hands on. -/
theorem beginEntries_over {rest : List PhaseEntry}
    (hw : (startEntry h e (enterEntry h e s)).1 = .ended ∨
      (startEntry h e (enterEntry h e s)).1 = .failed ∧ e.continues = true) :
    beginEntries h (e :: rest) s =
      if holdsHere h (startEntry h e (enterEntry h e s)).2 then enterStepHold h (startEntry h e (enterEntry h e s)).2
      else beginEntries h rest (startEntry h e (enterEntry h e s)).2 := by
  rw [beginEntries]
  rcases hw with hw | ⟨hw, hc⟩
  · rw [hw]
  · rw [hw, hc]
    rfl

/-- An entry that fails at its beginning with ABORT aborts the cycle. -/
theorem beginEntries_aborts {rest : List PhaseEntry} (hw : (startEntry h e (enterEntry h e s)).1 = .failed)
    (hc : e.continues = false) :
    beginEntries h (e :: rest) s = abortCycle h (startEntry h e (enterEntry h e s)).2 := by
  rw [beginEntries]
  rw [hw, hc]
  rfl

/-! ### The valves of each kind (R145, R146) -/

theorem dosed_congr (hq : (t.seq h).equalised = (s.seq h).equalised) (hs : t.valve h .snift = s.valve h .snift)
    (hv : t.valve h v = s.valve h v) (hd : t.driven h = s.driven h) : t.dosed h v = s.dosed h v := by
  rw [State.dosed, State.dosed, State.opened, State.opened, hv, hd]
  exact if_congr (mayDose_congr hq hs) rfl rfl

theorem suppressed_congr {vs : List ValveId} (hq : (t.seq h).equalised = (s.seq h).equalised)
    (hs : t.valve h .snift = s.valve h .snift) (hv : ∀ v ∈ vs, t.valve h v = s.valve h v) (hp : t.pitch = s.pitch) :
    suppressedAlarms h t vs = suppressedAlarms h s vs := by
  have same : vs.filter (fun v => !(t.valve h v).request) = vs.filter fun v => !(s.valve h v).request :=
    List.filter_congr fun v hv' => by rw [hv v hv']
  have list : (if t.mayDose h then [] else vs.filter fun v => !(t.valve h v).request) =
      if s.mayDose h then [] else vs.filter fun v => !(s.valve h v).request := if_congr (mayDose_congr hq hs) rfl same
  have value : unequalised (t.seq h) = unequalised (s.seq h) := by rw [unequalised, hq, unequalised]
  rw [suppressedAlarms, list, value, interlockRecord_congr hp, suppressedAlarms]

theorem suppressed_append (vs ws : List ValveId) :
    suppressedAlarms h s (vs ++ ws) = suppressedAlarms h s vs ++ suppressedAlarms h s ws := by
  unfold suppressedAlarms
  split
  · rfl
  · rw [List.filter_append, List.map_append]

/-- The product valves and the records that PURGE leaves. -/
theorem purge_interlocks :
    if (s.valve h .snift).request = false then
      Interlocked h 1#24 s (clearEqualised h (requestOpen h .snift (requestOpen h .gas s)))
    else if (s.seq h).equalised = true then
      Interlocked h 0#24 s (clearEqualised h (requestOpen h .snift (requestOpen h .gas s)))
    else Untouched h s (clearEqualised h (requestOpen h .snift (requestOpen h .gas s))) := by
  have gas : Untouched h s (requestOpen h .gas s) := untouched_gas_open
  have snift : (requestOpen h .gas s).valve h .snift = s.valve h .snift := requestOpen_gas_other (by decide)
  have seq : (requestOpen h .gas s).seq h = s.seq h := (plumbing_requestOpen s h .gas).seq h
  by_cases hr : (s.valve h .snift).request = false
  · rw [if_pos hr]
    have closes := interlocked_snift_open (s := requestOpen h .gas s) (h := h) (by rw [snift, hr])
    exact (gas.interlocked closes).untouched (untouched_clearEqualised closes.dry)
  · rw [if_neg hr, requestOpen_of_request (by rw [snift]; simpa using hr)]
    by_cases he : (s.seq h).equalised = true
    · rw [if_pos he]
      exact gas.interlocked (interlocked_clearEqualised (by rw [seq, he]))
    · rw [if_neg he, clearEqualised_clear (by rw [seq]; simpa using he)]
      exact gas

theorem purge_seq :
    (clearEqualised h (requestOpen h .snift (requestOpen h .gas s))).seq h = { s.seq h with equalised := false } := by
  rw [clearEqualised_seq, (plumbing_requestOpen _ h .snift).seq, (plumbing_requestOpen s h .gas).seq]

theorem opened_congr (hv : t.valve h v = s.valve h v) (hd : t.driven h = s.driven h) : t.opened h v = s.opened h v := by
  rw [State.opened, State.opened, hv, hd]

theorem purge_gas : (clearEqualised h (requestOpen h .snift (requestOpen h .gas s))).valve h .gas = s.opened h .gas := by
  rw [clearEqualised_other (by decide), requestOpen_snift_gas, requestOpen_gas_valve]

theorem purge_snift : (clearEqualised h (requestOpen h .snift (requestOpen h .gas s))).valve h .snift = s.opened h .snift := by
  rw [clearEqualised_other (by decide), requestOpen_snift_valve,
    opened_congr (requestOpen_gas_other (by decide)) (plumbing_requestOpen s h .gas).driven]

theorem opened_request (hv : t.valve h v = s.opened h v) : (t.valve h v).request = true := by
  rw [hv, State.opened]
  split
  · assumption
  · unfold State.driven
    split_ifs <;> rfl

theorem beginSnift_begun (hb : (s.seq h).sniftBegun = true) : beginSnift h s = s := if_pos hb

theorem beginSnift_first (hb : (s.seq h).sniftBegun = false) :
    beginSnift h s = (clearEqualised h (requestClose h .gas s)).modSeq h fun q => { q with sniftBegun := true } :=
  if_neg (by rw [hb]; decide)

theorem beginSnift_snift : (beginSnift h s).valve h .snift = s.valve h .snift := by
  unfold beginSnift
  split
  · rfl
  · rw [modSeq_valve, clearEqualised_other (by decide), requestClose_valve_other s h h .gas .snift (.inr (by decide))]

theorem beginSnift_seq :
    (beginSnift h s).seq h =
      if (s.seq h).sniftBegun then s.seq h else { s.seq h with equalised := false, sniftBegun := true } := by
  unfold beginSnift
  split
  · rfl
  · rw [modSeq_seq, clearEqualised_seq, requestClose_seq]

theorem beginSnift_gas (hb : (s.seq h).sniftBegun = false) : ((beginSnift h s).valve h .gas).closed := by
  rw [beginSnift_first hb, modSeq_valve, clearEqualised_other (by decide)]
  exact requestClose_closed s h .gas

theorem untouched_snift_open (hd : s.dry h) : Untouched h s (requestOpen h .snift s) := by
  rw [requestOpen_snift_dry s h hd]
  split
  · exact .refl h s
  · have other (v : ValveId) (hv : v ∈ products) : v ≠ .snift := by rintro rfl; exact absurd hv (by decide)
    exact ((plumbing_setOutput _ h .snift true).after (plumbing_modValve s h .snift _)).untouched
      (fun v hv => by rw [setOutput_valve_other _ h h .snift v true (.inr (other v hv)),
        modValve_valve_other s h h .snift v _ (.inr (other v hv))]) setOutput_orq

theorem beginSnift_driven : (beginSnift h s).driven h = s.driven h := by
  unfold beginSnift clearEqualised
  have gas := plumbing_requestClose s h .gas
  split
  · rfl
  · split
    · refine ((untouched_modSeq _).driven).trans ?_
      rw [(plumbing_interlockClose _ h 0).driven, (untouched_modSeq _).driven, gas.driven]
    · rw [(untouched_modSeq _).driven, gas.driven]

/-- The product valves and the records that a SNIFT entry leaves. -/
theorem snift_interlocks :
    if (s.seq h).sniftBegun = false ∧ (s.seq h).equalised = true then
      Interlocked h 0#24 s (requestOpen h .snift (beginSnift h s))
    else if (s.valve h .snift).request = false then Interlocked h 1#24 s (requestOpen h .snift (beginSnift h s))
    else Untouched h s (requestOpen h .snift (beginSnift h s)) := by
  have gas : Untouched h s (requestClose h .gas s) := untouched_close (by decide)
  split
  · rename_i hb
    have closes : Interlocked h 0#24 s (beginSnift h s) := by
      rw [beginSnift_first hb.1]
      exact (gas.interlocked (interlocked_clearEqualised (by rw [requestClose_seq, hb.2]))).untouched (untouched_modSeq _)
    exact closes.untouched (untouched_snift_open closes.dry)
  · rename_i hb
    have before : Untouched h s (beginSnift h s) := by
      cases hs : (s.seq h).sniftBegun with
      | true =>
        rw [beginSnift_begun hs]
        exact .refl h s
      | false =>
        have he : (s.seq h).equalised = false := by simpa [hs] using hb
        rw [beginSnift_first hs, clearEqualised_clear (by rw [requestClose_seq, he])]
        exact gas.trans (untouched_modSeq _)
    split
    · exact before.interlocked (interlocked_snift_open (by rwa [beginSnift_snift]))
    · rw [requestOpen_of_request (by rw [beginSnift_snift]; simp_all)]
      exact before

/-! ### The dose of each kind (R96, R97, R116, R122) -/

/-- A dose that has started (R116). -/
def Channel.begun (target : Nat) (c : Channel) : Channel :=
  { c with
    state := .dosing, target := target, volume := 0, rem := 0, pulses := 0, rate := 0, heldRate := 0, prevStamp := none,
    closeKind := .none, endKind := .none, learn := .none }

theorem doseStart_begun (m : Meter) :
    (doseStart h m s).chan h m =
      if doseTarget h m s ≤ (s.head h).table.learned.get m then
        ((s.chan h m).begun (doseTarget h m s)).close .cutoff s.now
      else (s.chan h m).begun (doseTarget h m s) :=
  doseStart_chan s h m

theorem doseStart_doses {m : Meter} (hv : (s.head h).table.learned.get m < doseTarget h m s) :
    (doseStart h m s).chan h m = (s.chan h m).begun (doseTarget h m s) :=
  (doseStart_begun m).trans (if_neg (Nat.not_le.mpr hv))

theorem doseStart_closes {m : Meter} (hv : doseTarget h m s ≤ (s.head h).table.learned.get m) :
    (doseStart h m s).chan h m = ((s.chan h m).begun (doseTarget h m s)).close .cutoff s.now :=
  (doseStart_begun m).trans (if_pos hv)

theorem cutoffReached_seq_eq {m : Meter} : (cutoffReached h m s).seq h = { s.seq h with progress := .settling, timer := none } := by
  unfold cutoffReached
  cases m <;> rw [modSeq_seq]
  · rw [requestClose_seq, requestClose_seq]
  · rw [requestClose_seq]

/-- FAST within its bands at dose start (R97). -/
theorem fastBand_start {c : CycleRecord} (hc : (s.head h).cycle = some c) (hv : (s.chan h .main).volume = 0) :
    fastBand h s =
      if c.recipe.startBand = 0 ∧ c.recipe.slowBand < c.recipe.vMain then requestOpen h .fast s else requestClose h .fast s := by
  have field (f : Recipe → Nat) : cycleField h f s = f c.recipe := by rw [cycleField, hc]
  unfold fastBand
  dsimp only
  rw [field, field, field, hv]
  exact if_congr (and_congr Nat.le_zero Nat.sub_pos_iff_lt) rfl rfl

/-! ### The entry that follows (R93, R100, R111) -/

/-- The state in which entry `e` has been entered. -/
def State.entered (s : State) (h : HeadId) (e : PhaseEntry) : State := s.modSeq h fun _ => (s.seq h).begin e s.now

theorem entered_seq : (s.entered h e).seq h = (s.seq h).begin e s.now := modSeq_seq s h _

theorem entered_valve : (s.entered h e).valve h v = s.valve h v := modSeq_valve s h h v _

theorem entered_chan (m : Meter) : (s.entered h e).chan h m = s.chan h m := modSeq_chan s h h m _

theorem untouched_entered : Untouched h s (s.entered h e) := untouched_modSeq _

theorem entered_head : (s.entered h e).head h = { s.head h with seq := (s.seq h).begin e s.now } := by
  rw [State.entered, State.modSeq, modHead_head]

theorem work_entered : HeadWork h s (s.entered h e) := by
  rw [State.entered, ← enterEntry_eq]
  exact work_enterEntry s h e

end

section
variable {s : State} {h : HeadId} {c : CycleRecord} {e : PhaseEntry}

/-- A head that does not hold, with the entry that comes next in its plan. -/
structure Comes (s : State) (h : HeadId) (c : CycleRecord) (e : PhaseEntry) : Prop where
  goes : (s.seq h).stepMode = false ∨ (s.seq h).state ≠ .running
  cycle : (s.head h).cycle = some c
  entry : c.plan[(s.seq h).planIndex]? = some e

theorem goOn_holds (hs : (s.seq h).stepMode = true) (hr : (s.seq h).state = .running) :
    goOn h s = s.modSeq h fun q => { q with state := .stepHold, progress := .none, timer := none } := by
  rw [goOn, if_pos (by rw [holdsHere, hs, hr]; rfl), enterStepHold]

theorem Comes.waits (hn : Comes s h c e) (hw : (startEntry h e (s.entered h e)).1 = .waits) :
    goOn h s = (startEntry h e (s.entered h e)).2 := by
  rw [State.entered, ← enterEntry_eq] at hw ⊢
  rw [goOn_begins s hn.goes hn.cycle hn.entry, beginEntries_waits hw]

/-- An entry that is over at its beginning: the cycle goes on behind it. -/
theorem Comes.over (hn : Comes s h c e)
    (hw : (startEntry h e (s.entered h e)).1 = .ended ∨ (startEntry h e (s.entered h e)).1 = .failed ∧ e.continues = true)
    (hi : ((startEntry h e (s.entered h e)).2.seq h).planIndex = (s.seq h).planIndex + 1) :
    goOn h s = goOn h (startEntry h e (s.entered h e)).2 := by
  have plan : headPlan h (startEntry h e (s.entered h e)).2 = c.plan := by
    rw [((work_startEntry _ h e).after work_entered).plan, headPlan, hn.cycle]
  rw [State.entered, ← enterEntry_eq] at hw hi plan ⊢
  rw [goOn_begins s hn.goes hn.cycle hn.entry, beginEntries_over hw, goOn, nextEntry, plan, hi]

theorem Comes.aborts (hn : Comes s h c e) (hw : (startEntry h e (s.entered h e)).1 = .failed) (hc : e.continues = false) :
    goOn h s = abortCycle h (startEntry h e (s.entered h e)).2 := by
  rw [State.entered, ← enterEntry_eq] at hw ⊢
  rw [goOn_begins s hn.goes hn.cycle hn.entry, beginEntries_aborts hw hc]

theorem Comes.purge (hn : Comes s h c e) (hk : e.kind = .purge) :
    goOn h s = clearEqualised h (requestOpen h .snift (requestOpen h .gas (s.entered h e))) := by
  have start := startEntry_purge (s := s.entered h e) (h := h) hk
  rw [hn.waits (by rw [start]), start]

theorem Comes.rest (hn : Comes s h c e) (hk : e.kind = .rest) :
    goOn h s = closeProducts h (requestOpen h .gas (s.entered h e)) := by
  have start := startEntry_rest (s := s.entered h e) (h := h) hk
  rw [hn.waits (by rw [start]), start]

theorem Comes.snift (hn : Comes s h c e) (hk : e.kind = .snift) :
    goOn h s = requestOpen h .snift (beginSnift h (s.entered h e)) := by
  have start := startEntry_snift (s := s.entered h e) (h := h) hk
  rw [hn.waits (by rw [start]), start]

theorem startEntry_pressurise_entered (hk : e.kind = .pressurise) :
    startEntry h e (s.entered h e) =
      (if (s.head h).scan.fault || s.scanner.bowl.fault then .failed else .waits, requestOpen h .gas (s.entered h e)) := by
  have scan : ((s.entered h e).head h).scan = (s.head h).scan := by rw [entered_head]
  rw [startEntry_pressurise hk, scan]
  rfl

theorem Comes.pressurise (hn : Comes s h c e) (hk : e.kind = .pressurise) (hf : (s.head h).scan.fault = false)
    (hb : s.scanner.bowl.fault = false) : goOn h s = requestOpen h .gas (s.entered h e) := by
  have start := startEntry_pressurise_entered (s := s) (h := h) hk
  rw [hf, hb] at start
  rw [hn.waits (by rw [start]; rfl), start]

/-- The cycle record is that of the entered state. -/
theorem reached_entered (hc : (s.head h).cycle = some c) :
    reached h (headDeadlines h (s.entered h e)).dFill (s.entered h e) = true ↔
      ∃ n, (s.seq h).elapsed = some n ∧ c.recipe.deadlines.dFill ≤ n := by
  have deadlines : headDeadlines h (s.entered h e) = c.recipe.deadlines := by rw [headDeadlines, entered_head, hc]
  have elapsed : ((s.entered h e).seq h).elapsed = (s.seq h).elapsed := by rw [entered_seq]; rfl
  rw [deadlines, reached, elapsed]
  cases (s.seq h).elapsed <;> simp

theorem Comes.late (hn : Comes s h c e) (hk : e.kind = .additive)
    (hl : ∃ n, (s.seq h).elapsed = some n ∧ c.recipe.deadlines.dFill ≤ n) : goOn h s = goOn h (s.entered h e) := by
  have start := startEntry_additive_late (s := s.entered h e) hk ((reached_entered hn.cycle).mpr hl)
  rw [hn.over (.inl (by rw [start])) (by rw [start, entered_seq]; rfl), start]

/-- The additive dose of a recipe. -/
theorem doseTarget_entered (hc : (s.head h).cycle = some c) (m : Meter) :
    doseTarget h m (s.entered h e) = (match m with | .main => c.recipe.vMain | .additive => c.vAdd) := by
  have cycle : ((s.entered h e).head h).cycle = some c := by rw [entered_head]; exact hc
  unfold doseTarget
  rw [cycle]
  cases m <;> rfl

theorem Comes.additive (hn : Comes s h c e) (hk : e.kind = .additive)
    (hl : ¬∃ n, (s.seq h).elapsed = some n ∧ c.recipe.deadlines.dFill ≤ n) :
    goOn h s =
      if ((doseStart h .additive (s.entered h e)).chan h .additive).state = .dosing then
        requestOpen h .add (doseStart h .additive (s.entered h e))
      else cutoffReached h .additive (doseStart h .additive (s.entered h e)) := by
  have start := startEntry_additive (s := s.entered h e) (h := h) hk
    (Bool.eq_false_iff.mpr fun h => hl ((reached_entered hn.cycle).mp h))
  rw [hn.waits (by rw [start]), start]

theorem Comes.fill (hn : Comes s h c e) (hk : e.kind = .fill) :
    goOn h s =
      if ((fillStart h (s.entered h e)).chan h .main).state = .dosing then
        fastBand h (requestOpen h .slow (fillStart h (s.entered h e)))
      else cutoffReached h .main (fillStart h (s.entered h e)) := by
  have start := startEntry_fill (s := s.entered h e) (h := h) hk
  rw [hn.waits (by rw [start]), start]

/-! ### The statement's parts -/

/-- Room for the alarms of `vs`, as the statement puts it. -/
theorem admits_map {vs : List ValveId} {f : ValveId → Record}
    (hr : vs = [] ∨ s.orq.lost = false ∧ s.orq.records.length + s.orq.reservations + vs.length ≤ 48) :
    s.admits (vs.map f).length := by
  rw [List.length_map]
  exact hr.imp (fun h => by rw [h]; rfl) fun h => h

theorem Interlocked.raises {b : BitVec 24} {t : State} (i : Interlocked h b s t) :
    let vs := products.filter fun v => (s.valve h v).output
    vs = [] ∨ s.orq.lost = false ∧ s.orq.records.length + s.orq.reservations + vs.length ≤ 48 →
      t.orq = { s.orq with records := s.orq.records ++ vs.map (interlockRecord h b s) } :=
  fun hr => i.orq (admits_map hr)

/-- What stands at a dose start. -/
structure Started (s : State) (h : HeadId) (e : PhaseEntry) (u : State) : Prop where
  seq : u.seq h = (s.seq h).begin e s.now
  valve : ∀ v, u.valve h v = s.valve h v
  orq : u.orq = s.orq
  dosed : ∀ v, u.dosed h v = s.dosed h v
  alarms : ∀ vs, suppressedAlarms h u vs = suppressedAlarms h s vs

theorem ChannelWork.started {u : State} (w : ChannelWork h (s.entered h e) u) : Started s h e u := by
  have seq : u.seq h = (s.seq h).begin e s.now := w.seq.trans entered_seq
  have valve (v : ValveId) : u.valve h v = s.valve h v := (w.valve v).trans entered_valve
  have driven : u.driven h = s.driven h := (driven_congr w.now w.table).trans untouched_entered.driven
  have flag : (u.seq h).equalised = (s.seq h).equalised := by rw [seq]; rfl
  exact ⟨seq, valve, w.orq, fun v => dosed_congr flag (valve .snift) (valve v) driven,
    fun vs => suppressed_congr flag (valve .snift) (fun v _ => valve v) w.pitch⟩

/-- An opening of a product valve at dose start. -/
theorem Started.opens {u : State} {v : ValveId} (d : Started s h e u) (hv : v ∈ products)
    (hr : s.admits (suppressedAlarms h s [v]).length) :
    (requestOpen h v u).orq = { s.orq with records := s.orq.records ++ suppressedAlarms h s [v] } := by
  have enters := requestOpen_product_orq (s := u) (h := h) hv
  rw [d.alarms, State.admits, State.roomFor, d.orq] at enters
  exact enters hr

/-- R97: the openings of SLOW and FAST at dose start. -/
theorem Started.opensBoth {u : State} (d : Started s h e u) (hr : s.admits (suppressedAlarms h s [.slow, .fast]).length) :
    (requestOpen h .fast (requestOpen h .slow u)).orq =
      { s.orq with records := s.orq.records ++ suppressedAlarms h s [.slow, .fast] } := by
  obtain ⟨a, ha⟩ : ∃ a, a = requestOpen h .slow u := ⟨_, rfl⟩
  have p : Plumbing h u a := by rw [ha]; exact plumbing_requestOpen u h .slow
  have both : suppressedAlarms h s [.slow, .fast] = suppressedAlarms h s [.slow] ++ suppressedAlarms h s [.fast] :=
    suppressed_append [.slow] [.fast]
  rw [both, List.length_append] at hr
  have slow : a.orq = { s.orq with records := s.orq.records ++ suppressedAlarms h s [.slow] } := by
    rw [ha]
    exact d.opens (by decide) (hr.imp (by omega) fun r => r.mono (by omega))
  have alarms : suppressedAlarms h a [.fast] = suppressedAlarms h s [.fast] := by
    rw [← d.alarms]
    refine suppressed_congr (by rw [p.seq]) ?_ (fun v hv => ?_) p.pitch
    · rw [ha, requestOpen_product_other (by decide) (by decide)]
    · rw [List.mem_singleton.mp hv, ha, requestOpen_product_other (by decide) (by decide)]
  have fast := requestOpen_product_orq (s := a) (h := h) (v := .fast) (by decide)
  rw [alarms, slow] at fast
  rw [← ha, both, fast]
  · simp only [List.append_assoc]
  · refine hr.imp (by omega) fun r => ⟨by rw [slow]; exact r.1, ?_⟩
    have := r.2
    rw [slow]
    simp only [List.length_append]
    omega

/-- R96: an ADDITIVE entry whose dose starts. -/
theorem Comes.addDoses (hn : Comes s h c e) (hk : e.kind = .additive)
    (hl : ¬∃ n, (s.seq h).elapsed = some n ∧ c.recipe.deadlines.dFill ≤ n) (hd : (s.head h).table.learned.additive < c.vAdd) :
    (goOn h s).chan h .additive = (s.chan h .additive).begun c.vAdd ∧ (goOn h s).seq h = (s.seq h).begin e s.now ∧
      (goOn h s).valve h .add = s.dosed h .add ∧ ((goOn h s).valve h .add).request = true ∧
      (s.admits (suppressedAlarms h s [.add]).length →
        (goOn h s).orq = { s.orq with records := s.orq.records ++ suppressedAlarms h s [.add] }) := by
  have target : doseTarget h .additive (s.entered h e) = c.vAdd := doseTarget_entered hn.cycle .additive
  have chan : (doseStart h .additive (s.entered h e)).chan h .additive = (s.chan h .additive).begun c.vAdd := by
    rw [doseStart_doses, target, entered_chan]
    rw [target, entered_head]
    exact hd
  have d := (channelWork_doseStart h .additive (s.entered h e)).started
  have p := plumbing_requestOpen (doseStart h .additive (s.entered h e)) h .add
  rw [hn.additive hk hl, if_pos (by rw [chan]; rfl)]
  refine ⟨(p.chan h _).trans chan, (p.seq h).trans d.seq, ?_, requestOpen_request _ h .add, d.opens (by decide)⟩
  rw [requestOpen_product_valve (by decide), d.dosed]

/-- R96, R122: an ADDITIVE entry whose learned afterflow is at or above its target. -/
theorem Comes.addCloses (hn : Comes s h c e) (hk : e.kind = .additive)
    (hl : ¬∃ n, (s.seq h).elapsed = some n ∧ c.recipe.deadlines.dFill ≤ n) (hd : c.vAdd ≤ (s.head h).table.learned.additive) :
    (goOn h s).chan h .additive = ((s.chan h .additive).begun c.vAdd).close .cutoff s.now ∧
      (goOn h s).seq h = { (s.seq h).begin e s.now with progress := .settling, timer := none } ∧
      ((goOn h s).valve h .add).closed := by
  have target : doseTarget h .additive (s.entered h e) = c.vAdd := doseTarget_entered hn.cycle .additive
  have chan : (doseStart h .additive (s.entered h e)).chan h .additive = ((s.chan h .additive).begun c.vAdd).close .cutoff s.now := by
    rw [doseStart_closes, target, entered_chan]
    · rfl
    · rw [target, entered_head]
      exact hd
  have d := (channelWork_doseStart h .additive (s.entered h e)).started
  rw [hn.additive hk hl, if_neg (by rw [chan]; exact (by decide : ChannelState.settling ≠ .dosing))]
  exact ⟨cutoffReached_chan.trans chan, by rw [cutoffReached_seq_eq, d.seq], cutoffReached_closed (by decide) fun _ => rfl⟩

theorem fillStart_chan (hc : (s.head h).cycle = some c) :
    (fillStart h (s.entered h e)).chan h .main =
      if c.recipe.vMain ≤ (s.head h).table.learned.main then ((s.chan h .main).begun c.recipe.vMain).close .cutoff s.now
      else (s.chan h .main).begun c.recipe.vMain := by
  have same (a : State) (hh : a.heads = (s.entered h e).heads) (hn : a.now = s.now) :
      (doseStart h .main a).chan h .main =
        if c.recipe.vMain ≤ (s.head h).table.learned.main then ((s.chan h .main).begun c.recipe.vMain).close .cutoff s.now
        else (s.chan h .main).begun c.recipe.vMain := by
    have head : a.head h = { s.head h with seq := (s.seq h).begin e s.now } := by
      rw [← entered_head, State.head, hh]
      rfl
    have target : doseTarget h .main a = c.recipe.vMain := by
      unfold doseTarget
      rw [head]
      dsimp only
      rw [hc]
    rw [doseStart_begun, target, hn, State.chan, head]
    rfl
  unfold fillStart
  split
  · exact same _ rfl rfl
  · exact same _ rfl rfl

/-- R97: a FILL entry whose dose starts. -/
theorem Comes.fillDoses (hn : Comes s h c e) (hk : e.kind = .fill) (hd : (s.head h).table.learned.main < c.recipe.vMain) :
    let fast := c.recipe.startBand = 0 ∧ c.recipe.slowBand < c.recipe.vMain
    let vs := if fast then [ValveId.slow, .fast] else [.slow]
    (goOn h s).chan h .main = (s.chan h .main).begun c.recipe.vMain ∧ (goOn h s).seq h = (s.seq h).begin e s.now ∧
      (goOn h s).valve h .slow = s.dosed h .slow ∧ ((goOn h s).valve h .slow).request = true ∧
      ((goOn h s).valve h .fast).request = decide fast ∧ (fast → (goOn h s).valve h .fast = s.dosed h .fast) ∧
      (¬fast → ((goOn h s).valve h .fast).output = false) ∧
      (s.admits (suppressedAlarms h s vs).length →
        (goOn h s).orq = { s.orq with records := s.orq.records ++ suppressedAlarms h s vs }) := by
  intro fast vs
  have chan := (fillStart_chan (e := e) hn.cycle).trans (if_neg (Nat.not_le.mpr hd))
  obtain ⟨u, hu⟩ : ∃ u, u = fillStart h (s.entered h e) := ⟨_, rfl⟩
  have w : ChannelWork h (s.entered h e) u := by rw [hu]; exact channelWork_fillStart
  have d := w.started
  obtain ⟨a, ha⟩ : ∃ a, a = requestOpen h .slow u := ⟨_, rfl⟩
  have p : Plumbing h u a := by rw [ha]; exact plumbing_requestOpen u h .slow
  have cycle : (a.head h).cycle = some c := by
    rw [p.cycle, w.cycle, entered_head]
    exact hn.cycle
  have band := fastBand_start (s := a) (h := h) cycle (by rw [p.chan, hu, chan]; rfl)
  have slow : a.valve h .slow = s.dosed h .slow := by rw [ha, requestOpen_product_valve (by decide), d.dosed]
  have asks : (a.valve h .slow).request = true := by rw [ha]; exact requestOpen_request u h .slow
  have goes : goOn h s = fastBand h a := by
    rw [hn.fill hk, ← hu, if_pos (by rw [hu, chan]; rfl), ha]
  by_cases hf : fast
  · have b := plumbing_requestOpen a h .fast
    have kept : (requestOpen h .fast a).valve h .slow = a.valve h .slow := requestOpen_product_other (by decide) (by decide)
    have list : vs = [.slow, .fast] := if_pos hf
    rw [goes, band, if_pos hf, list, kept]
    refine ⟨((b.after p).chan h _).trans (hu ▸ chan), ((b.after p).seq h).trans d.seq, slow, asks, ?_, fun _ => ?_,
      fun hn => absurd hf hn, fun hr => ?_⟩
    · rw [requestOpen_request, decide_eq_true hf]
    · rw [requestOpen_product_valve (by decide), ← d.dosed]
      exact dosed_congr (by rw [p.seq]) (by rw [ha, requestOpen_product_other (by decide) (by decide)])
        (by rw [ha, requestOpen_product_other (by decide) (by decide)]) p.driven
    · rw [ha]
      exact d.opensBoth hr
  · have b := plumbing_requestClose a h .fast
    have kept : (requestClose h .fast a).valve h .slow = a.valve h .slow := requestClose_valve_other a h h .fast .slow (.inr (by decide))
    have list : vs = [.slow] := if_neg hf
    obtain ⟨request, output⟩ := requestClose_closed a h .fast
    rw [goes, band, if_neg hf, list, kept]
    refine ⟨((b.after p).chan h _).trans (hu ▸ chan), ((b.after p).seq h).trans d.seq, slow, asks, ?_, fun hn => absurd hn hf,
      fun _ => output, fun hr => ?_⟩
    · rw [request, decide_eq_false hf]
    · rw [(silent_requestClose a h .fast).orq, ha]
      exact d.opens (by decide) hr

/-- R97, R122: a FILL entry whose learned afterflow is at or above its target. -/
theorem Comes.fillCloses (hn : Comes s h c e) (hk : e.kind = .fill) (hd : c.recipe.vMain ≤ (s.head h).table.learned.main) :
    (goOn h s).chan h .main = ((s.chan h .main).begun c.recipe.vMain).close .cutoff s.now ∧
      (goOn h s).seq h = { (s.seq h).begin e s.now with progress := .settling, timer := none } ∧
      ((goOn h s).valve h .fast).closed ∧ ((goOn h s).valve h .slow).closed := by
  have chan := (fillStart_chan (e := e) hn.cycle).trans (if_pos hd)
  have d := (channelWork_fillStart (s := s.entered h e) (h := h)).started
  rw [hn.fill hk, if_neg (by rw [chan]; exact (by decide : ChannelState.settling ≠ .dosing))]
  exact ⟨cutoffReached_chan.trans chan, by rw [cutoffReached_seq_eq, d.seq], cutoffReached_closed (fun _ => .inl rfl) (by decide),
    cutoffReached_closed (fun _ => .inr rfl) (by decide)⟩

/-- R169: the traces that a FILL entry leaves. -/
theorem Comes.fillTrace (hn : Comes s h c e) (hk : e.kind = .fill) :
    (goOn h s).trace = if entryMarked h s then (markedFill h s).trace else s.trace := by
  have marked : entryMarked h (s.entered h e) = entryMarked h s := by
    rw [entryMarked, entered_seq]
    rfl
  have start : (fillStart h (s.entered h e)).trace = if entryMarked h s then (markedFill h s).trace else s.trace := by
    rw [fillStart, doseStart_trace, marked]
    split <;> rfl
  obtain ⟨u, hu⟩ : ∃ u, u = fillStart h (s.entered h e) := ⟨_, rfl⟩
  rw [hn.fill hk, ← start, ← hu]
  split
  · have p : Plumbing h u (fastBand h (requestOpen h .slow u)) := by
      refine Plumbing.after ?_ (plumbing_requestOpen u h .slow)
      exact Plumbing.ite (fun _ => plumbing_requestOpen _ h .fast) fun _ => plumbing_requestClose _ h .fast
    exact p.trace
  · exact ((plumbing_requestClose _ h .slow).after (plumbing_requestClose u h .fast)).trace

end

/-- R95 to R99: what an entry that waits leaves of the cycle items. -/
theorem Comes.begun {s : State} {h : HeadId} {c : CycleRecord} {e : PhaseEntry} (hn : Comes s h c e)
    (hk : e.kind = .purge ∨ e.kind = .rest ∨ e.kind = .snift ∨
      (e.kind = .pressurise ∧ (s.head h).scan.fault = false ∧ s.scanner.bowl.fault = false)) :
    ∃ equalised sniftBegun, (goOn h s).seq h = { (s.seq h).begin e s.now with equalised, sniftBegun } := by
  have gas := plumbing_requestOpen (s.entered h e) h .gas
  rcases hk with hk | hk | hk | ⟨hk, hf, hb⟩
  · rw [hn.purge hk, purge_seq, entered_seq]
    exact ⟨_, _, rfl⟩
  · rw [hn.rest hk, closeProducts_seq, gas.seq, entered_seq]
    exact ⟨_, _, rfl⟩
  · rw [hn.snift hk, (plumbing_requestOpen _ h .snift).seq, beginSnift_seq, entered_seq]
    split
    · exact ⟨_, _, rfl⟩
    · exact ⟨_, _, rfl⟩
  · rw [hn.pressurise hk hf hb, gas.seq, entered_seq]
    exact ⟨_, _, rfl⟩

/-! ### An abort ahead of the snift (R101) -/

/-- The head is in FORCED_SNIFT in its first SNIFT entry, from the cycle items `q`, with no channel dosing or settling. -/
structure Aborted (h : HeadId) (q : Sequencer) (t : State) : Prop where
  state : (t.seq h).state = .forcedSnift
  progress : (t.seq h).progress = .active
  flags : (t.seq h).flags = q.flags
  fault : (t.seq h).faultPending = q.faultPending
  begun : (t.seq h).sniftBegun = true
  equalised : (t.seq h).equalised = false
  opened : (t.valve h .snift).request = true
  closed : ∀ v ∈ [ValveId.gas, .fast, .slow, .add], (t.valve h v).closed
  chan : ∀ m, (t.chan h m).state = .idle ∨ (t.chan h m).state = .ended

/-- R101: an abort of a RUNNING cycle before its snift. -/
theorem abortCycle_aborted {s : State} {h : HeadId} (hr : (s.seq h).state = .running) (hb : (s.seq h).sniftBegun = false)
    (hp : ∃ x ∈ headPlan h s, x.kind = .snift) : Aborted h (s.seq h) (abortCycle h s) ∧ Silent s (abortCycle h s) := by
  obtain ⟨d, hd⟩ : ∃ d, d = freezeBoth h s := ⟨_, rfl⟩
  have dseq : d.seq h = s.seq h := by rw [hd, freezeBoth_seq]
  have dplan : headPlan h d = headPlan h s := by rw [hd]; exact (work_freezeBoth s h).plan
  have forced : abortCycle h s = forceSnift h d := by
    rw [abortCycle, if_neg (by rw [hr]; decide), takeToSnift, if_neg, hd]
    rw [sniftUnderWay, freezeBoth_seq, hb]
    simp
  obtain ⟨silent, chan, closed, opened, e, _, _, seq⟩ := forceSnift_snifting d h
    (sniftIndex_finds d h (by rw [dseq, hb, dplan]; exact hp))
  rw [forced]
  refine ⟨⟨by rw [seq], by rw [seq], by rw [seq, dseq], by rw [seq, dseq], by rw [seq], by rw [seq], opened,
    fun v hv => closed v (by rintro rfl; simp at hv), fun m => ?_⟩, ?_⟩
  · rw [chan, hd, freezeBoth_chan]
    exact Channel.freeze_over _
  · rw [hd] at silent
    exact (silent_freezeBoth s h).trans (hd ▸ silent)

/-- R95, R100, R101: a PRESSURISE entry with ABORT that fails at its beginning. -/
theorem Comes.pressuriseAborts {s : State} {h : HeadId} {c : CycleRecord} {e : PhaseEntry} (hn : Comes s h c e)
    (hk : e.kind = .pressurise) (hf : (s.head h).scan.fault = true ∨ s.scanner.bowl.fault = true) (hc : e.continues = false)
    (hr : (s.seq h).state = .running) (hb : (s.seq h).sniftBegun = false) (hp : ∃ x ∈ c.plan, x.kind = .snift) :
    Aborted h ((s.seq h).begin e s.now) (goOn h s) := by
  have start := startEntry_pressurise_entered (s := s) (h := h) hk
  rw [if_pos (by simpa using hf)] at start
  have seq : (requestOpen h .gas (s.entered h e)).seq h = (s.seq h).begin e s.now :=
    ((plumbing_requestOpen _ h .gas).seq h).trans entered_seq
  have plan : headPlan h (requestOpen h .gas (s.entered h e)) = c.plan := by
    rw [((work_requestOpen _ h .gas).after work_entered).plan, headPlan, hn.cycle]
  rw [hn.aborts (by rw [start]) hc, start]
  have aborted := (abortCycle_aborted (s := requestOpen h .gas (s.entered h e)) (h := h) (by rw [seq]; exact hr)
    (by rw [seq]; exact hb) (by rw [plan]; exact hp)).1
  rwa [seq] at aborted

theorem begun_fresh {x y : Channel} {n : Nat} (hx : x = y.begun n) :
    (x.target = n ∧ x.volume = 0 ∧ x.rem = 0 ∧ x.pulses = 0 ∧ x.rate = 0 ∧ x.prevStamp = none ∧ x.endKind = .none ∧
      x.learn = .none) ∧ x.state = .dosing ∧ x.closeKind = .none := by
  subst hx
  exact ⟨⟨rfl, rfl, rfl, rfl, rfl, rfl, rfl, rfl⟩, rfl, rfl⟩

theorem begun_closed {x y : Channel} {n : Nat} {now : Ticks} (hx : x = (y.begun n).close .cutoff now) :
    (x.target = n ∧ x.volume = 0 ∧ x.rem = 0 ∧ x.pulses = 0 ∧ x.rate = 0 ∧ x.prevStamp = none ∧ x.endKind = .none ∧
      x.learn = .none) ∧ x.state = .settling ∧ x.closeKind = .cutoff ∧ x.closeVolume = some 0 ∧ x.settleStart = some now ∧
      x.lastPulse = none := by
  subst hx
  exact ⟨⟨rfl, rfl, rfl, rfl, rfl, rfl, rfl, rfl⟩, rfl, rfl, rfl, rfl, rfl⟩

/-- R169, in the statement's terms. -/
theorem goOn_marked {s t : State} {h : HeadId} (ht : t.trace = if entryMarked h s then (markedFill h s).trace else s.trace) :
    let marked := (s.seq h).entry.elim false QueueEntry.trace
    let waits := fun d : Descriptor => decide (d.state = .armed ∧ d.trigger = .markedFill ∧ d.head = h ∧ d.link = false)
    t.trace.a = (if marked && waits s.trace.a && decide (s.trace.b.state ≠ .running) then s.trace.a.start else s.trace.a) ∧
      t.trace.b = (if marked && waits s.trace.b && decide (t.trace.a.state ≠ .running) then s.trace.b.start else s.trace.b) := by
  intro marked waits
  have mark : entryMarked h s = marked := by
    unfold entryMarked
    simp only [marked]
    cases (s.seq h).entry <;> rfl
  have awaits (d : Descriptor) : d.awaits h = waits d := by
    simp only [Descriptor.awaits, waits, Bool.decide_and, Bool.and_assoc]
    cases d.link <;> rfl
  cases hm : marked with
  | false =>
    rw [mark, hm] at ht
    rw [ht]
    exact ⟨rfl, rfl⟩
  | true =>
    rw [mark, hm, if_pos rfl] at ht
    rw [ht, Bool.true_and, Bool.true_and, ← awaits, ← awaits]
    exact ⟨rfl, rfl⟩

/-- Settles O51: the step-mode hold by `goOn_holds`, and each kind of entry by its lemma. -/
theorem nextEntryBeginsOrHolds : Obligations.NextEntryBeginsOrHolds := by
  intro h s q t driven opened allowed dosed ps suppressed raises unequal interlocks
  refine ⟨fun hs hr => goOn_holds hs hr, fun e c hs hc he => ?_⟩
  have hn : Comes s h c e := ⟨hs, hc, he⟩
  obtain ⟨w, hw⟩ : ∃ w, w = s.entered h e := ⟨_, rfl⟩
  have enter : Untouched h s w := by rw [hw]; exact untouched_entered
  have wseq : w.seq h = q.begin e s.now := by rw [hw]; exact entered_seq
  have wvalve (v : ValveId) : w.valve h v = s.valve h v := by rw [hw]; exact entered_valve
  have wopened (v : ValveId) : w.opened h v = s.opened h v := opened_congr (wvalve v) enter.driven
  have gas := plumbing_requestOpen w h .gas
  have locked {b : BitVec 24} (i : Interlocked h b s t) : interlocks b := ⟨i.valve, i.raises⟩
  refine ⟨fun hk => ?_, fun hk => ?_, fun hk hf hb => ?_, fun hk => ?_, fun hk => ?_, ⟨fun hk hf => ⟨fun hc => ?_, fun hc hr hb hp => ?_⟩,
    fun hk hl => hn.late hk hl, fun hk hl hd => ?_, fun hk hl hd => ?_, fun hk hd => ?_, fun hk hd => ?_⟩, fun hk => ?_⟩
  · obtain ⟨_, _, seq⟩ := hn.begun hk
    rw [show t.seq h = _ from seq]
    exact ⟨rfl, rfl, rfl, rfl, rfl⟩
  · have goes : t = clearEqualised h (requestOpen h .snift (requestOpen h .gas w)) := by rw [hw]; exact hn.purge hk
    have valves : t.valve h .gas = s.opened h .gas ∧ t.valve h .snift = s.opened h .snift := by
      rw [goes, purge_gas, purge_snift, wopened, wopened]
      exact ⟨rfl, rfl⟩
    have drives := purge_interlocks (s := w) (h := h)
    rw [← goes, wvalve, wseq] at drives
    refine ⟨opened_request valves.1, opened_request valves.2, by rw [goes, purge_seq], valves.1, valves.2, ?_⟩
    split
    · rw [if_pos ‹_›] at drives
      exact locked (enter.interlocked drives)
    · rw [if_neg ‹_›] at drives
      split
      · rw [if_pos (by assumption)] at drives
        exact locked (enter.interlocked drives)
      · rw [if_neg (by assumption)] at drives
        exact ⟨(enter.trans drives).valve, (enter.trans drives).orq⟩
  · have goes : t = requestOpen h .gas w := by rw [hw]; exact hn.pressurise hk hf hb
    have valve : t.valve h .gas = s.opened h .gas := by rw [goes, requestOpen_gas_valve, wopened]
    refine ⟨opened_request valve, by rw [goes, gas.seq, wseq]; rfl, valve, by rw [goes, requestOpen_gas_orq]; exact enter.orq,
      fun v hv => by rw [goes, requestOpen_gas_other hv, wvalve]⟩
  · have goes : t = closeProducts h (requestOpen h .gas w) := by rw [hw]; exact hn.rest hk
    have valve : t.valve h .gas = s.opened h .gas := by
      rw [goes, closeProducts_valve_other _ h h .gas (.inr (.inl rfl)), requestOpen_gas_valve, wopened]
    refine ⟨opened_request valve, valve, ?_, ?_, fun v hv => ?_⟩
    · rw [goes, closeProducts_valve_other _ h h .snift (.inr (.inr rfl)), requestOpen_gas_other (by decide), wvalve]
    · rw [goes, (silent_closeProducts _ h).orq, requestOpen_gas_orq]
      exact enter.orq
    · rw [goes]
      exact closeProducts_closed _ h v (by simpa using hv)
  · have goes : t = requestOpen h .snift (beginSnift h w) := by rw [hw]; exact hn.snift hk
    have valve : t.valve h .snift = s.opened h .snift := by
      rw [goes, requestOpen_snift_valve, opened_congr beginSnift_snift beginSnift_driven, wopened]
    have drives := snift_interlocks (s := w) (h := h)
    rw [← goes, wvalve, wseq] at drives
    have seq : t.seq h = if (w.seq h).sniftBegun then w.seq h else { w.seq h with equalised := false, sniftBegun := true } := by
      rw [goes, (plumbing_requestOpen _ h .snift).seq, beginSnift_seq]
    refine ⟨?_, opened_request valve, valve, ?_, fun hb => ⟨?_, ?_⟩⟩
    · rw [seq]
      split
      · assumption
      · rfl
    · split
      · rw [if_pos (by assumption)] at drives
        exact locked (enter.interlocked drives)
      · rw [if_neg (by assumption)] at drives
        split
        · rw [if_pos (by assumption)] at drives
          exact locked (enter.interlocked drives)
        · rw [if_neg (by assumption)] at drives
          exact ⟨(enter.trans drives).valve, (enter.trans drives).orq⟩
    · rw [seq, if_neg (by rw [wseq]; exact (by rw [hb]; decide : ¬q.sniftBegun = true))]
    · rw [goes, requestOpen_snift_gas]
      exact beginSnift_gas (by rw [wseq]; exact hb)
  · have start := startEntry_pressurise_entered (s := s) (h := h) hk
    rw [if_pos (by simpa using hf)] at start
    have index : ((startEntry h e (s.entered h e)).2.seq h).planIndex = (s.seq h).planIndex + 1 := by
      rw [start, ← hw, gas.seq, wseq]
      rfl
    exact (hn.over (.inr ⟨by rw [start], hc⟩) index).trans (by rw [start]; rfl)
  · have aborted := hn.pressuriseAborts hk hf hc hr hb hp
    exact ⟨aborted.state, aborted.progress, aborted.flags, aborted.begun, aborted.equalised, aborted.opened, aborted.closed,
      aborted.chan⟩
  · obtain ⟨chan, seq, valve, request, orq⟩ := hn.addDoses hk hl hd
    obtain ⟨fresh, dosing, open_⟩ := begun_fresh chan
    exact ⟨⟨fresh, dosing, open_, seq⟩, request, valve, fun hr => orq (admits_map hr)⟩
  · obtain ⟨chan, seq, closed⟩ := hn.addCloses hk hl hd
    obtain ⟨fresh, settling, cutoff, volume, start, pulse⟩ := begun_closed chan
    exact ⟨⟨fresh, settling, cutoff, volume, start, pulse, seq⟩, closed⟩
  · obtain ⟨chan, seq, valve, request, fast, opens, closes, orq⟩ := hn.fillDoses hk hd
    obtain ⟨fresh, dosing, open_⟩ := begun_fresh chan
    exact ⟨⟨fresh, dosing, open_, seq⟩, request, valve, fast, fun hr => orq (admits_map hr), opens, closes⟩
  · obtain ⟨chan, seq, fast, slow⟩ := hn.fillCloses hk hd
    obtain ⟨fresh, settling, cutoff, volume, start, pulse⟩ := begun_closed chan
    refine ⟨⟨fresh, settling, cutoff, volume, start, pulse, seq⟩, fun v hv => ?_⟩
    simp only [List.mem_cons, List.not_mem_nil, or_false] at hv
    rcases hv with rfl | rfl
    · exact fast
    · exact slow
  · exact goOn_marked (hn.fillTrace hk)

end Sys2Proof.Machine
end

section
/-! Proofs about the end of a settle (R125 to R128): what it makes of its channel and of the learned afterflows, what the
entries behind it leave of the channel, and the statement O57. -/

namespace Sys2Proof.Machine

open Sys2Proof

/-! ### What an entry that begins leaves of a channel (R93 to R101) -/

/-- The channel of meter `m` and the table of head `h` stand. -/
structure Spares (h : HeadId) (m : Meter) (s t : State) : Prop where
  chan : t.chan h m = s.chan h m
  table : (t.head h).table = (s.head h).table

namespace Spares

variable {h : HeadId} {m : Meter} {s t u : State}

theorem refl (h : HeadId) (m : Meter) (s : State) : Spares h m s s := ⟨rfl, rfl⟩

theorem trans (a : Spares h m s t) (b : Spares h m t u) : Spares h m s u := ⟨b.chan.trans a.chan, b.table.trans a.table⟩

theorem after (b : Spares h m t u) (a : Spares h m s t) : Spares h m s u := a.trans b

theorem ite {p : Prop} [Decidable p] {a b : State} (ha : p → Spares h m s a) (hb : ¬p → Spares h m s b) :
    Spares h m s (if p then a else b) := by
  split
  · exact ha ‹_›
  · exact hb ‹_›

end Spares

section
variable {s t : State} {h : HeadId} {m : Meter} {e : PhaseEntry}

theorem Plumbing.spares (p : Plumbing h s t) (m : Meter) : Spares h m s t := ⟨p.chan h m, p.table⟩

theorem spares_modSeq (m : Meter) (f : Sequencer → Sequencer) : Spares h m s (s.modSeq h f) :=
  ⟨modSeq_chan s h h m f, by rw [State.modSeq, modHead_head]⟩

theorem spares_clearEqualised (m : Meter) (s : State) : Spares h m s (clearEqualised h s) :=
  .ite (fun _ => ((plumbing_interlockClose _ h 0).spares m).after (spares_modSeq m _)) fun _ => .refl h m s

theorem spares_cutoffReached (m n : Meter) (s : State) : Spares h m s (cutoffReached h n s) := by
  unfold cutoffReached
  cases n
  · exact (spares_modSeq m _).after
      (((plumbing_requestClose _ h .slow).after (plumbing_requestClose s h .fast)).spares m)
  · exact (spares_modSeq m _).after ((plumbing_requestClose s h .add).spares m)

theorem spares_fastBand (m : Meter) (s : State) : Spares h m s (fastBand h s) :=
  .ite (fun _ => (plumbing_requestOpen s h .fast).spares m) fun _ => (plumbing_requestClose s h .fast).spares m

/-- A dose start leaves the other channel. -/
theorem spares_doseStart {n : Meter} (hn : m ≠ n) (s : State) : Spares h m s (doseStart h n s) := by
  refine ⟨?_, (channelWork_doseStart h n s).table⟩
  unfold doseStart cutoffTest
  split
  · rw [modChan_chan_other _ h h n m _ (.inr hn), modChan_chan_other s h h n m _ (.inr hn)]
  · rw [modChan_chan_other s h h n m _ (.inr hn)]

theorem spares_beginSnift (m : Meter) (s : State) : Spares h m s (beginSnift h s) :=
  .ite (fun _ => .refl h m s) fun _ =>
    (spares_modSeq m _).after ((spares_clearEqualised m _).after ((plumbing_requestClose s h .gas).spares m))

/-- An entry that doses with another meter, or with none, leaves the channel. -/
theorem spares_startEntry (hk : e.kind ≠ doseKind m) (s : State) : Spares h m s (startEntry h e s).2 := by
  have gas := (plumbing_requestOpen s h .gas).spares m
  cases he : e.kind with
  | purge =>
    rw [startEntry_purge he]
    exact (spares_clearEqualised m _).after (((plumbing_requestOpen _ h .snift).spares m).after gas)
  | pressurise =>
    rw [startEntry_pressurise he]
    exact gas
  | rest =>
    rw [startEntry_rest he]
    exact ((plumbing_closeProducts _ h).spares m).after gas
  | snift =>
    rw [startEntry_snift he]
    exact ((plumbing_requestOpen _ h .snift).spares m).after (spares_beginSnift m s)
  | additive =>
    have hn : m ≠ .additive := by rintro rfl; exact hk he
    cases hl : reached h (headDeadlines h s).dFill s with
    | true =>
      rw [startEntry_additive_late he hl]
      exact .refl h m s
    | false =>
      rw [startEntry_additive he hl]
      exact .ite (fun _ => ((plumbing_requestOpen _ h .add).spares m).after (spares_doseStart hn s)) fun _ =>
        (spares_cutoffReached m .additive _).after (spares_doseStart hn s)
  | fill =>
    have hn : m ≠ .main := by rintro rfl; exact hk he
    have start : Spares h m s (fillStart h s) :=
      (spares_doseStart hn _).after (.ite (fun _ => ⟨rfl, rfl⟩) fun _ => .refl h m s)
    rw [startEntry_fill he]
    exact .ite (fun _ => (spares_fastBand m _).after (((plumbing_requestOpen _ h .slow).spares m).after start)) fun _ =>
      (spares_cutoffReached m .main _).after start

theorem spares_enterEntry (m : Meter) (s : State) : Spares h m s (enterEntry h e s) := spares_modSeq m _

/-- A forced snift begins a SNIFT entry, which doses with no meter. -/
theorem spares_forceSnift (m : Meter) (s : State) : Spares h m s (forceSnift h s) := by
  obtain ⟨b, hb⟩ : ∃ b, b = requestClose h .gas (clearEqualised h (closeProducts h
    (s.modSeq h fun q => { q with state := .forcedSnift, progress := .none, timer := none }))) := ⟨_, rfl⟩
  have before : Spares h m s b := by
    rw [hb]
    exact ((plumbing_requestClose _ h .gas).spares m).after ((spares_clearEqualised m _).after
      (((plumbing_closeProducts _ h).spares m).after (spares_modSeq m _)))
  have plan : headPlan h b = headPlan h s := by
    rw [hb]
    exact ((work_requestClose _ h .gas).after ((work_clearEqualised _ h).after ((work_closeProducts _ h).after
      (work_modSeq s h (fun q => { q with state := .forcedSnift, progress := .none, timer := none }) fun _ => rfl)))).plan
  unfold forceSnift
  dsimp only
  rw [← hb, plan]
  split
  · rename_i e rest hd
    have found : (headPlan h s)[sniftIndex h s]? = some e := by
      rw [← Nat.add_zero (sniftIndex h s), ← List.getElem?_drop, hd]
      rfl
    have snift := sniftIndex_snift s h found
    refine (spares_startEntry (by rw [snift]; cases m <;> decide) _).after ?_
    exact (spares_enterEntry m _).after ((spares_modSeq m _).after before)
  · exact before

/-- A channel that is over stays as it is through an abort. -/
theorem spares_abortCycle (hc : (s.chan h m).state = .ended) : Spares h m s (abortCycle h s) := by
  have freeze : Spares h m s (freezeBoth h s) := by
    refine ⟨?_, by rw [freezeBoth, State.modChan, State.modChan, modHead_head, modHead_head]⟩
    rw [freezeBoth_chan, Channel.freeze, hc]
  exact .ite (fun _ => .refl h m s) fun _ =>
    .ite (fun _ => (spares_modSeq m _).after freeze) fun _ => (spares_forceSnift m _).after freeze

/-- Entries that dose with another meter leave a channel that is over. -/
theorem spares_beginEntries (es : List PhaseEntry) (s : State) (hc : (s.chan h m).state = .ended)
    (hk : ∀ e ∈ es, e.kind ≠ doseKind m) : Spares h m s (beginEntries h es s) := by
  induction es generalizing s with
  | nil => exact .refl h m s
  | cons e es ih =>
    have start : Spares h m s (startEntry h e (enterEntry h e s)).2 :=
      (spares_startEntry (hk e List.mem_cons_self) _).after (spares_enterEntry m s)
    have ended : (((startEntry h e (enterEntry h e s)).2).chan h m).state = .ended := by rw [start.chan]; exact hc
    have next : Spares h m s
        (if holdsHere h (startEntry h e (enterEntry h e s)).2 then enterStepHold h (startEntry h e (enterEntry h e s)).2
        else beginEntries h es (startEntry h e (enterEntry h e s)).2) :=
      .ite (fun _ => (spares_modSeq m _).after start) fun _ =>
        (ih _ ended fun x hx => hk x (List.mem_cons_of_mem e hx)).after start
    rw [beginEntries]
    split
    · exact start
    · exact next
    · exact .ite (fun _ => next) fun _ => (spares_abortCycle ended).after start

theorem spares_goOn (hc : (s.chan h m).state = .ended)
    (hk : ∀ e ∈ (headPlan h s).drop (s.seq h).planIndex, e.kind ≠ doseKind m) : Spares h m s (goOn h s) :=
  .ite (fun _ => spares_modSeq m _) fun _ => spares_beginEntries _ s hc hk

end

/-! ### The end of a settle (R125 to R128) -/

/-- A channel whose settle ends, by its window or its limit. -/
def Channel.settled (k : EndKind) (l : LearnResult) (c : Channel) : Channel :=
  { c with state := .ended, final := c.volume, endKind := k, learn := l }

/-- The measured afterflow of a channel that settles (R127). -/
def Channel.actual (c : Channel) : Nat := c.volume - c.closeVolume.getD 0

section
variable {s : State} {h : HeadId} {m : Meter} {k : EndKind}

theorem modChan_modChan (f g : Channel → Channel) : (s.modChan h m f).modChan h m g = s.modChan h m (g ∘ f) := by
  rw [State.modChan, State.modChan, modHead_modHead, State.modChan]
  refine modHead_congr ?_
  cases m <;> rfl

theorem modTable_chan (f : HeadRecord → HeadRecord) (g : HeadId) (n : Meter) : (s.modTable h f).chan g n = s.chan g n := by
  by_cases hg : g = h
  · subst hg
    rw [State.chan, State.modTable, modHead_head]
    rfl
  · rw [State.chan, State.modTable, modHead_head_ne s h g _ hg]
    rfl

/-- R127: a dose that is not learned from. -/
theorem settleEnd_skips (hk : (s.chan h m).closeKind ≠ .cutoff ∨ k ≠ .window) :
    settleEnd h m k s = s.modChan h m (Channel.settled k .skipped) := by
  unfold settleEnd judgeLearning
  dsimp only
  rw [modChan_chan, if_neg (by simpa only [not_and_or] using hk), modChan_modChan]
  rfl

/-- R128: an afterflow beyond four times the maximum. -/
theorem settleEnd_implausible (hk : (s.chan h m).closeKind = .cutoff)
    (ha : 4 * (s.head h).table.afterflowMax.get m < (s.chan h m).actual) :
    settleEnd h m .window s = raiseAlarm .afterflowImplausible (headByte h) (s.chan h m).actual (meterCode m)
      (s.modChan h m (Channel.settled .window .skipped)) := by
  obtain ⟨a, ha'⟩ : ∃ a, a = s.modChan h m fun c => { c with state := .ended, final := c.volume, endKind := .window } := ⟨_, rfl⟩
  have chan : a.chan h m = { s.chan h m with state := .ended, final := (s.chan h m).volume, endKind := .window } := by
    rw [ha', modChan_chan]
  have table : (a.head h).table = (s.head h).table := by rw [ha', State.modChan, modHead_head]
  have skips : (a.modChan h m fun c => { c with learn := .skipped }) = s.modChan h m (Channel.settled .window .skipped) := by
    rw [ha', modChan_modChan]
    rfl
  have flow : (a.chan h m).afterflow = (s.chan h m).actual := by rw [chan]; rfl
  unfold settleEnd judgeLearning
  dsimp only
  rw [← ha', if_pos (by rw [chan]; exact ⟨hk, rfl⟩), flow, table, if_pos ha, skips]

/-- The learned afterflow of meter `m` after a dose (R127). -/
def HeadRecord.learns (m : Meter) (actual gain : Nat) (t : HeadRecord) : HeadRecord :=
  { t with learned := t.learned.set m (learnedAfter (t.learned.get m) actual gain (t.afterflowMax.get m)) }

/-- R127: a plausible dose that reached its cutoff. -/
theorem settleEnd_learns (hk : (s.chan h m).closeKind = .cutoff)
    (ha : (s.chan h m).actual ≤ 4 * (s.head h).table.afterflowMax.get m) :
    settleEnd h m .window s =
      (s.modTable h (HeadRecord.learns m (s.chan h m).actual (cycleField h Recipe.gain s))).modChan h m
        (Channel.settled .window .learned) := by
  obtain ⟨a, ha'⟩ : ∃ a, a = s.modChan h m fun c => { c with state := .ended, final := c.volume, endKind := .window } := ⟨_, rfl⟩
  have chan : a.chan h m = { s.chan h m with state := .ended, final := (s.chan h m).volume, endKind := .window } := by
    rw [ha', modChan_chan]
  have head : a.head h = { s.head h with chan := (s.head h).chan.set m (a.chan h m) } := by
    rw [chan, ha', State.modChan, modHead_head]
    rfl
  have flow : (a.chan h m).afterflow = (s.chan h m).actual := by rw [chan]; rfl
  have gain : cycleField h Recipe.gain a = cycleField h Recipe.gain s := by rw [cycleField, head, cycleField]
  unfold settleEnd judgeLearning
  dsimp only
  rw [← ha', if_pos (by rw [chan]; exact ⟨hk, rfl⟩), flow, gain, show (a.head h).table = (s.head h).table by rw [head],
    if_neg (Nat.not_lt.mpr ha)]
  rw [ha', State.modChan, State.modTable, State.modChan, State.modTable, State.modChan, modHead_modHead, modHead_modHead,
    modHead_modHead]
  refine modHead_congr ?_
  cases m <;> rfl

/-- Of the head, its channels and its table alone may change. -/
theorem settleEnd_own :
    (settleEnd h m k s).head h =
      { s.head h with chan := ((settleEnd h m k s).head h).chan, table := ((settleEnd h m k s).head h).table } := by
  unfold settleEnd judgeLearning
  dsimp only
  split
  · split
    · rw [raiseAlarm_head, State.modChan, State.modChan, modHead_head, modHead_head]
    · rw [State.modChan, State.modTable, State.modChan, modHead_head, modHead_head, modHead_head]
  · rw [State.modChan, State.modChan, modHead_head, modHead_head]

theorem settleEnd_seq : (settleEnd h m k s).seq h = s.seq h := (congrArg Head.seq settleEnd_own :)

theorem settleEnd_valves : ((settleEnd h m k s).head h).valves = (s.head h).valves := (congrArg Head.valves settleEnd_own :)

theorem settleEnd_cycle : ((settleEnd h m k s).head h).cycle = (s.head h).cycle := (congrArg Head.cycle settleEnd_own :)

/-- A dose from whose settle the channel learns (R127). -/
@[reducible] def Channel.learns (maxA : Nat) (k : EndKind) (c : Channel) : Prop :=
  c.closeKind = .cutoff ∧ k = .window ∧ c.actual ≤ 4 * maxA

/-- R125, R127: the channel and its learned afterflow behind the settle. -/
theorem settleEnd_judged :
    let learns := (s.chan h m).learns ((s.head h).table.afterflowMax.get m) k
    let u := settleEnd h m k s
    u.chan h m = (s.chan h m).settled k (if learns then .learned else .skipped) ∧
      (u.head h).table.learned.get m =
        if learns then
          learnedAfter ((s.head h).table.learned.get m) (s.chan h m).actual (cycleField h Recipe.gain s)
            ((s.head h).table.afterflowMax.get m)
        else (s.head h).table.learned.get m := by
  intro learns u
  have plain : ((s.modChan h m (Channel.settled k .skipped)).head h).table = (s.head h).table := by
    rw [State.modChan, modHead_head]
  by_cases hk : (s.chan h m).closeKind = .cutoff ∧ k = .window
  · obtain ⟨hc, rfl⟩ := hk
    by_cases ha : (s.chan h m).actual ≤ 4 * (s.head h).table.afterflowMax.get m
    · have hl : learns := ⟨hc, rfl, ha⟩
      simp only [u]
      rw [if_pos hl, if_pos hl, settleEnd_learns hc ha, modChan_chan, modTable_chan, State.modChan, modHead_head, State.modTable,
        modHead_head]
      exact ⟨rfl, perMeter_get_set _ _ _⟩
    · have hl : ¬learns := fun hl => ha hl.2.2
      simp only [u]
      rw [if_neg hl, if_neg hl, settleEnd_implausible hc (Nat.lt_of_not_le ha), State.chan, raiseAlarm_head, plain]
      exact ⟨modChan_chan s h m _, rfl⟩
  · have hl : ¬learns := fun hl => hk ⟨hl.1, hl.2.1⟩
    simp only [u]
    rw [if_neg hl, if_neg hl, settleEnd_skips (not_and_or.mp hk), plain, modChan_chan]
    exact ⟨rfl, rfl⟩

/-- The records stand but for an implausible afterflow. -/
theorem settleEnd_orq
    (hk : (s.chan h m).closeKind ≠ .cutoff ∨ k ≠ .window ∨ (s.chan h m).actual ≤ 4 * (s.head h).table.afterflowMax.get m) :
    (settleEnd h m k s).orq = s.orq := by
  by_cases hc : (s.chan h m).closeKind = .cutoff ∧ k = .window
  · obtain ⟨hc, rfl⟩ := hc
    rw [settleEnd_learns hc ((hk.resolve_left (not_not_intro hc)).resolve_left (not_not_intro rfl))]
    rfl
  · rw [settleEnd_skips (not_and_or.mp hc)]
    rfl

/-- ALARM AFTERFLOW_IMPLAUSIBLE (R128). -/
def afterflowRecord (h : HeadId) (m : Meter) (actual : Nat) (s : State) : Record :=
  ⟨.alarm, BitVec.ofNat 8 h.val, s.pitch.sequence.elim 0#16 PitchSequence.serial, 255#8, 10#8, 0#8, BitVec.ofNat 32 actual,
    match m with | .main => 0#24 | .additive => 1#24⟩

theorem settleEnd_alarm (hk : (s.chan h m).closeKind = .cutoff)
    (ha : 4 * (s.head h).table.afterflowMax.get m < (s.chan h m).actual) (hr : s.roomFor 1) :
    (settleEnd h m .window s).orq =
      { s.orq with records := s.orq.records ++ [afterflowRecord h m (s.chan h m).actual s] } := by
  obtain ⟨a, ha'⟩ : ∃ a, a = s.modChan h m (Channel.settled .window .skipped) := ⟨_, rfl⟩
  have room : a.roomFor 1 := by rw [ha']; exact hr
  have record : alarmRecord .afterflowImplausible (headByte h) (s.chan h m).actual (meterCode m) a =
      afterflowRecord h m (s.chan h m).actual s := by
    rw [alarmRecord, alarmSerial_eq, ha']
    cases m <;> rfl
  rw [settleEnd_implausible hk ha, ← ha', raiseAlarm, record, (enters_enterUnreserved room _).1, ha']
  rfl

end

/-! ### The entry that settles with its channel (R125) -/

section
variable {s : State} {h : HeadId} {m : Meter} {k : EndKind}

/-- The plan of a head, empty with no cycle record. -/
theorem headPlan_elim : headPlan h s = (s.head h).cycle.elim [] CycleRecord.plan := by
  unfold headPlan
  cases (s.head h).cycle <;> rfl

theorem currentEntry_iff {e : PhaseEntry} :
    currentEntry h s = some e ↔ 1 ≤ (s.seq h).planIndex ∧ (headPlan h s)[(s.seq h).planIndex - 1]? = some e := by
  unfold currentEntry
  split
  · rename_i h0
    simp [h0]
  · rename_i h0
    simp [Nat.one_le_iff_ne_zero.mpr h0]

theorem settlesEntry_iff :
    settlesEntry h m s = true ↔
      (s.seq h).state = .running ∧ (s.seq h).progress = .settling ∧ 1 ≤ (s.seq h).planIndex ∧
        ∃ e, (headPlan h s)[(s.seq h).planIndex - 1]? = some e ∧ e.kind = doseKind m := by
  unfold settlesEntry
  cases hc : currentEntry h s with
  | none =>
    refine ⟨fun hf => by simp at hf, fun ⟨_, _, hi, e, he, _⟩ => ?_⟩
    rw [currentEntry_iff.mpr ⟨hi, he⟩] at hc
    cases hc
  | some e =>
    obtain ⟨hi, he⟩ := currentEntry_iff.mp hc
    simp only [Bool.and_eq_true, beq_iff_eq]
    refine ⟨fun ⟨⟨hs, hp⟩, hk⟩ => ⟨hs, hp, hi, e, he, hk⟩, fun ⟨hs, hp, _, x, hx, hk⟩ => ⟨⟨hs, hp⟩, ?_⟩⟩
    rw [he] at hx
    rw [Option.some.inj hx]
    exact hk

/-- What the end of a settle leaves of the cycle, with `settles` for an entry that settles with the channel. -/
structure GoesOn (h : HeadId) (settles : Prop) (s t : State) : Prop where
  aside : ¬settles → t.seq h = s.seq h ∧ (t.head h).valves = (s.head h).valves
  held : settles → (s.seq h).stepMode = true →
    t.seq h = { s.seq h with state := .stepHold, progress := .none, timer := none } ∧ (t.head h).valves = (s.head h).valves
  onward : settles → ∃ u : State, t = goOn h u ∧ u.now = t.now ∧ u.seq h = s.seq h ∧ (u.head h).valves = (s.head h).valves ∧
    (u.head h).cycle = (s.head h).cycle
  next : settles → (s.seq h).stepMode = false → ∀ n, (headPlan h s)[(s.seq h).planIndex]? = some n →
    n.kind ∈ [PhaseKind.purge, .rest, .snift, .fill] ∨
      n.kind = .pressurise ∧ (s.head h).scan.fault = false ∧ s.scanner.bowl.fault = false →
    (t.seq h).state = .running ∧ (t.seq h).planIndex = (s.seq h).planIndex + 1 ∧
      (n.kind ≠ .fill → (t.seq h).progress = .active ∧ (t.seq h).timer = some (t.now + 10000 * n.timeLimit))

/-- R93 to R99: the cycle items behind a FILL entry that begins. -/
theorem Comes.fillBegun {c : CycleRecord} {e : PhaseEntry} (hn : Comes s h c e) (hk : e.kind = .fill) :
    ((goOn h s).seq h).state = (s.seq h).state ∧ ((goOn h s).seq h).planIndex = (s.seq h).planIndex + 1 := by
  by_cases hd : (s.head h).table.learned.main < c.recipe.vMain
  · obtain ⟨_, seq, _⟩ := hn.fillDoses hk hd
    rw [seq]
    exact ⟨rfl, rfl⟩
  · obtain ⟨_, seq, _⟩ := hn.fillCloses hk (Nat.le_of_not_lt hd)
    rw [seq]
    exact ⟨rfl, rfl⟩

theorem headPlan_some {x : PhaseEntry} {i : Nat} (hx : (headPlan h s)[i]? = some x) :
    ∃ c, (s.head h).cycle = some c ∧ c.plan[i]? = some x := by
  unfold headPlan at hx
  split at hx
  · exact ⟨_, ‹_›, hx⟩
  · simp at hx

/-- The end of a settle hands on to the next entry where one settles with it. -/
theorem takeSettleEnd_goesOn : GoesOn h (settlesEntry h m s = true) s (takeSettleEnd h m k s) := by
  obtain ⟨u, hu⟩ : ∃ u, u = settleEnd h m k s := ⟨_, rfl⟩
  have w : HeadWork h s u := by rw [hu]; exact work_settleEnd s h m k
  have seq : u.seq h = s.seq h := by rw [hu, settleEnd_seq]
  have valves : (u.head h).valves = (s.head h).valves := by rw [hu, settleEnd_valves]
  have cycle : (u.head h).cycle = (s.head h).cycle := by rw [hu, settleEnd_cycle]
  have plan : headPlan h u = headPlan h s := w.plan
  have same : settlesEntry h m u = settlesEntry h m s := by
    rw [Bool.eq_iff_iff, settlesEntry_iff, settlesEntry_iff, seq, plan]
  have taken : takeSettleEnd h m k s = if settlesEntry h m s = true then goOn h u else u := by
    unfold takeSettleEnd
    dsimp only
    rw [← hu, same]
  rw [taken]
  refine ⟨fun hn => ?_, fun hs hm => ?_, fun hs => ?_, fun hs hm n hn hk => ?_⟩
  · rw [if_neg hn]
    exact ⟨seq, valves⟩
  · obtain ⟨running, _⟩ := settlesEntry_iff.mp hs
    rw [if_pos hs, goOn_holds (by rw [seq, hm]) (by rw [seq, running]), modSeq_seq, State.modSeq, modHead_head, seq]
    exact ⟨rfl, valves⟩
  · rw [if_pos hs]
    exact ⟨u, rfl, (work_goOn u h).now.symm, seq, valves, cycle⟩
  · obtain ⟨running, _⟩ := settlesEntry_iff.mp hs
    obtain ⟨c, hc, he⟩ := headPlan_some hn
    have comes : Comes u h c n := ⟨.inl (by rw [seq, hm]), by rw [cycle, hc], by rw [seq]; exact he⟩
    have now : u.now = (goOn h u).now := (work_goOn u h).now.symm
    rw [if_pos hs, ← now, ← seq]
    by_cases hf : n.kind = .fill
    · obtain ⟨state, index⟩ := comes.fillBegun hf
      exact ⟨state.trans (by rw [seq, running]), index, fun hn => absurd hf hn⟩
    · obtain ⟨_, _, begun⟩ := comes.begun (by rw [w.scan, w.scanner]; simpa [hf, or_assoc] using hk)
      rw [begun]
      exact ⟨show (u.seq h).state = .running by rw [seq, running], rfl, fun _ => ⟨rfl, rfl⟩⟩

/-- A hold behind the settle, or no entry that settles with it, adds no record. -/
theorem takeSettleEnd_orq (hs : ¬settlesEntry h m s = true ∨ (s.seq h).stepMode = true) :
    (takeSettleEnd h m k s).orq = (settleEnd h m k s).orq := by
  obtain ⟨u, hu⟩ : ∃ u, u = settleEnd h m k s := ⟨_, rfl⟩
  have seq : u.seq h = s.seq h := by rw [hu, settleEnd_seq]
  have plan : headPlan h u = headPlan h s := by rw [hu]; exact (work_settleEnd s h m k).plan
  have same : settlesEntry h m u = settlesEntry h m s := by
    rw [Bool.eq_iff_iff, settlesEntry_iff, settlesEntry_iff, seq, plan]
  unfold takeSettleEnd
  dsimp only
  rw [← hu, same]
  split
  · rename_i hse
    rw [goOn_holds (by rw [seq]; exact hs.resolve_left (not_not_intro hse)) (by rw [seq]; exact (settlesEntry_iff.mp hse).1)]
    rfl
  · rfl

/-- No record leaves behind the settle. -/
theorem takeSettleEnd_records : ∃ l, (takeSettleEnd h m k s).orq.records = (settleEnd h m k s).orq.records ++ l := by
  have w : HeadWork h (settleEnd h m k s) (takeSettleEnd h m k s) :=
    HeadWork.ite (fun _ => work_goOn _ h) fun _ => HeadWork.refl h _
  exact w.records

/-- No later entry doses with the meter: its channel is over, and stays so. -/
theorem takeSettleEnd_spares (hp : ∀ e ∈ (headPlan h s).drop (s.seq h).planIndex, e.kind ≠ doseKind m) :
    Spares h m (settleEnd h m k s) (takeSettleEnd h m k s) := by
  refine .ite (fun _ => spares_goOn ?_ ?_) fun _ => .refl h m _
  · rw [settleEnd_judged.1]
    rfl
  · rw [(work_settleEnd s h m k).plan, settleEnd_seq]
    exact hp

theorem cycleField_elim (f : Recipe → Nat) : cycleField h f s = (s.head h).cycle.elim 0 fun z => f z.recipe := by
  unfold cycleField
  cases (s.head h).cycle <;> rfl

theorem windowDue_eq :
    windowDue h m s = max ((s.chan h m).settleStart.getD 0) ((s.chan h m).lastPulse.getD 0) +
      10000 * (s.head h).cycle.elim 0 fun z => z.recipe.settleWindow := by
  rw [windowDue, cycleField_elim, msTicks, Nat.mul_comm]
  rfl

theorem limitDue_eq :
    limitDue h m s = (s.chan h m).settleStart.getD 0 + 10000 * (s.head h).cycle.elim 0 fun z => z.recipe.settleLimit := by
  rw [limitDue, cycleField_elim, msTicks, Nat.mul_comm]
  rfl

end

/-- Settles O57: the channel by `settleEnd_judged`, its rest behind the entry by `takeSettleEnd_spares`, the cycle by
`takeSettleEnd_goesOn`. -/
theorem settleEndsAndLearns : Obligations.SettleEndsAndLearns := by
  intro h m s c y start window limit
  have wdue : windowDue h m s = window := windowDue_eq
  have ldue : limitDue h m s = limit := limitDue_eq
  refine ⟨fun hc => ⟨congrArg Host.Outcome.next (if_neg fun hw => hc hw.1), congrArg Host.Outcome.next (if_neg fun hw => hc hw.1)⟩, ?_⟩
  intro q plan entryOf settles goesOn hc
  have isPlan : headPlan h s = plan := headPlan_elim
  have kind : doseKind m = entryOf m := by cases m <;> rfl
  have isSettles : settlesEntry h m s = true ↔ settles := by
    rw [settlesEntry_iff, kind, isPlan]
  have goes (k : EndKind) (due : Ticks) : goesOn (takeSettleEnd h m k (s.advance due)) := by
    have g := takeSettleEnd_goesOn (s := s.advance due) (h := h) (m := m) (k := k)
    rw [show settlesEntry h m (s.advance due) = settlesEntry h m s from rfl] at g
    exact ⟨fun hn => g.aside fun hs => hn (isSettles.mp hs), fun hs => g.held (isSettles.mpr hs), fun hs => g.onward (isSettles.mpr hs),
      fun hs hm n hn => g.next (isSettles.mpr hs) hm n (isPlan.symm ▸ hn)⟩
  have now (k : EndKind) (due : Ticks) : (takeSettleEnd h m k (s.advance due)).now = max s.now due :=
    (work_takeSettleEnd (s.advance due) h m k).now
  refine ⟨fun hw => congrArg Host.Outcome.next (if_neg fun hx => ?_), fun hw => congrArg Host.Outcome.next (if_neg fun hx => ?_),
    fun hp => ?_⟩
  · exact absurd (wdue ▸ ldue ▸ hx.2) (Nat.not_le.mpr hw)
  · exact absurd (wdue ▸ ldue ▸ hx.2) (Nat.not_le.mpr hw)
  intro maxA a actual
  have spares (k : EndKind) (due : Ticks) :
      Spares h m (settleEnd h m k (s.advance due)) (takeSettleEnd h m k (s.advance due)) :=
    takeSettleEnd_spares fun e he => by rw [kind]; exact hp e (isPlan ▸ he)
  have orq (k : EndKind) (due : Ticks) (hs : ¬settles ∨ q.stepMode = true) :
      (takeSettleEnd h m k (s.advance due)).orq = (settleEnd h m k (s.advance due)).orq :=
    takeSettleEnd_orq (hs.imp (fun hn hx => hn (isSettles.mp hx)) fun hm => hm)
  refine ⟨fun hle => ?_, fun hle => ?_⟩
  · obtain ⟨chan, learned⟩ := settleEnd_judged (s := s.advance window) (h := h) (m := m) (k := .window)
    have learns : (s.chan h m).learns maxA .window ↔ c.closeKind = .cutoff ∧ actual ≤ 4 * maxA :=
      ⟨fun ⟨hk, _, ha⟩ => ⟨hk, ha⟩, fun ⟨hk, ha⟩ => ⟨hk, rfl, ha⟩⟩
    rw [← (spares .window window).chan] at chan
    rw [← (spares .window window).table] at learned
    refine ⟨takeSettleEnd h m .window (s.advance window), ?_, now .window window, by rw [chan]; rfl, by rw [chan]; rfl,
      by rw [chan]; rfl, ⟨?_, ?_⟩, goes .window window, fun hk ha hl hr => ⟨?_, fun hs => ?_⟩, fun ha hs => ?_⟩
    · exact congrArg Host.Outcome.next ((if_pos ⟨hc, by rw [wdue, ldue]; exact hle⟩).trans (by rw [wdue]))
    · rw [chan]
      exact if_congr learns rfl rfl
    · refine learned.trans (if_congr learns ?_ rfl)
      rw [learnedAfter, cycleField_elim]
      rfl
    · have alarm := settleEnd_alarm (s := s.advance window) (h := h) (m := m) hk ha ⟨hl, hr⟩
      obtain ⟨l, hl⟩ := takeSettleEnd_records (s := s.advance window) (h := h) (m := m) (k := .window)
      rw [alarm] at hl
      exact ⟨l, hl.trans (List.append_assoc _ _ _)⟩
    · rw [orq .window window hs]
      exact settleEnd_alarm (s := s.advance window) hk ha ⟨hl, hr⟩
    · rw [orq .window window hs]
      exact settleEnd_orq (s := s.advance window) (ha.imp_right .inr)
  · obtain ⟨chan, learned⟩ := settleEnd_judged (s := s.advance limit) (h := h) (m := m) (k := .limit)
    have learns : ¬(s.chan h m).learns maxA .limit := fun ⟨_, hk, _⟩ => absurd hk (by decide)
    rw [← (spares .limit limit).chan] at chan
    rw [← (spares .limit limit).table] at learned
    refine ⟨takeSettleEnd h m .limit (s.advance limit), ?_, now .limit limit, by rw [chan]; rfl, by rw [chan]; rfl,
      by rw [chan]; rfl, ?_, learned.trans (if_neg learns), goes .limit limit, fun hs => ?_⟩
    · exact congrArg Host.Outcome.next ((if_pos ⟨hc, by rw [wdue, ldue]; exact hle⟩).trans (by rw [ldue]))
    · rw [chan]
      exact if_neg learns
    · rw [orq .limit limit hs]
      exact settleEnd_orq (s := s.advance limit) (.inr (.inl (by decide)))

end Sys2Proof.Machine
end

section
/-! Proofs about the entry timer (R93 to R101, R111): what a time limit does to the entry in progress, and the statement O52. -/

namespace Sys2Proof.Machine

open Sys2Proof

section
variable {s : State} {h : HeadId} {c : CycleRecord} {e : PhaseEntry}

/-! ### The next entry, whatever step mode -/

theorem nextEntry_waits (hc : (s.head h).cycle = some c) (he : c.plan[(s.seq h).planIndex]? = some e)
    (hw : (startEntry h e (s.entered h e)).1 = .waits) : nextEntry h s = (startEntry h e (s.entered h e)).2 := by
  have plan : headPlan h s = c.plan := by rw [headPlan, hc]
  obtain ⟨hlt, rfl⟩ := List.getElem?_eq_some_iff.mp he
  rw [State.entered, ← enterEntry_eq] at hw ⊢
  rw [nextEntry, plan, List.drop_eq_getElem_cons hlt, beginEntries_waits hw]

/-- R99: a SNIFT entry that comes next begins. -/
theorem nextEntry_snift (hc : (s.head h).cycle = some c) (he : c.plan[(s.seq h).planIndex]? = some e) (hk : e.kind = .snift) :
    nextEntry h s = requestOpen h .snift (beginSnift h (s.entered h e)) := by
  have start := startEntry_snift (s := s.entered h e) (h := h) hk
  rw [nextEntry_waits hc he (by rw [start]), start]

/-- The cycle items and the SNIFT valve behind a SNIFT entry that begins. -/
theorem sniftEntry_begun :
    let t := requestOpen h .snift (beginSnift h (s.entered h e))
    (∃ b, t.seq h = { (s.seq h).begin e s.now with equalised := b, sniftBegun := true }) ∧
      (t.valve h .snift).request = true := by
  refine ⟨?_, requestOpen_request _ h .snift⟩
  dsimp only
  rw [(plumbing_requestOpen _ h .snift).seq, beginSnift_seq, entered_seq]
  split
  · rename_i hb
    exact ⟨_, by rw [← hb]⟩
  · exact ⟨false, rfl⟩

/-! ### What a time limit does ahead of its outcome (R93 to R99) -/

/-- The valves that a time limit closes. -/
def PhaseKind.closes : PhaseKind → List ValveId
  | .purge => [.gas, .snift]
  | .additive => [.add]
  | .fill => [.fast, .slow]
  | .snift => [.snift]
  | .pressurise => []
  | .rest => []

/-- TIMEOUT is set at the limit of this kind. -/
def PhaseKind.late : PhaseKind → Bool
  | .purge => false
  | .additive => true
  | .fill => true
  | .snift => true
  | .pressurise => true
  | .rest => false

/-- The state ahead of the outcome. -/
def limitState (h : HeadId) (k : PhaseKind) (s : State) : State :=
  let s := s.modSeq h fun q => { q with timer := none }
  match k with
  | .purge => requestClose h .snift (requestClose h .gas s)
  | .pressurise => flagTimeout h s
  | .additive => cutChannel h .additive (flagTimeout h (requestClose h .add s))
  | .fill => cutChannel h .main (flagTimeout h (requestClose h .slow (requestClose h .fast s)))
  | .rest => s
  | .snift => flagTimeout h (requestClose h .snift s)

/-- R93 to R100: the outcome of a time limit. -/
theorem timeLimitExpires_eq :
    timeLimitExpires h e s =
      match e.kind with
      | .purge => goOn h (limitState h .purge s)
      | .pressurise => failEntry h e (limitState h .pressurise s)
      | .additive => failEntry h e (limitState h .additive s)
      | .fill => failEntry h e (limitState h .fill s)
      | .rest => goOn h (limitState h .rest s)
      | .snift =>
        if atLastEntry h (limitState h .snift s) then endCycle .sniftFailed h (limitState h .snift s)
        else nextEntry h (limitState h .snift s) := by
  unfold timeLimitExpires
  cases e.kind <;> rfl

theorem flagTimeout_seq : (flagTimeout h s).seq h = { s.seq h with flags := { (s.seq h).flags with timeout := true } } := by
  rw [flagTimeout, State.modFlags, modSeq_seq]

@[simp] theorem flagTimeout_valve (v : ValveId) : (flagTimeout h s).valve h v = s.valve h v := modSeq_valve s h h v _

@[simp] theorem flagTimeout_chan (m : Meter) : (flagTimeout h s).chan h m = s.chan h m := modSeq_chan s h h m _

theorem silent_flagTimeout (s : State) (h : HeadId) : Silent s (flagTimeout h s) := ⟨rfl, rfl, rfl, rfl⟩

/-- What stands at a time limit of kind `k` when its outcome follows. -/
structure Limited (h : HeadId) (k : PhaseKind) (s u : State) : Prop where
  work : HeadWork h s u
  silent : Silent s u
  seq : u.seq h =
    { s.seq h with timer := none, flags := if k.late then { (s.seq h).flags with timeout := true } else (s.seq h).flags }
  closed : ∀ v ∈ k.closes, (u.valve h v).closed
  kept : ∀ v, v ∉ k.closes → u.valve h v = s.valve h v
  chan : ∀ m, u.chan h m = if k = doseKind m then (s.chan h m).cut s.now else s.chan h m

theorem limited_limitState (k : PhaseKind) (s : State) : Limited h k s (limitState h k s) := by
  obtain ⟨a, ha⟩ : ∃ a, a = s.modSeq h fun q => { q with timer := none } := ⟨_, rfl⟩
  have w : HeadWork h s a := by rw [ha]; exact work_modSeq s h _ fun _ => rfl
  have q : Silent s a := by rw [ha]; exact silent_modSeq s h _
  have seq : a.seq h = { s.seq h with timer := none } := by rw [ha, modSeq_seq]
  have valve (v : ValveId) : a.valve h v = s.valve h v := by rw [ha, modSeq_valve]
  have chan (m : Meter) : a.chan h m = s.chan h m := by rw [ha, modSeq_chan]
  have other (b : State) (x v : ValveId) (hx : v ≠ x) : (requestClose h x b).valve h v = b.valve h v :=
    requestClose_valve_other b h h x v (.inr hx)
  cases k with
  | purge =>
    have form : limitState h .purge s = requestClose h .snift (requestClose h .gas a) := by rw [ha]; rfl
    rw [form]
    refine ⟨(work_requestClose _ h .snift).after ((work_requestClose a h .gas).after w),
      q.trans ((silent_requestClose a h .gas).trans (silent_requestClose _ h .snift)), ?_, fun v hv => ?_, fun v hv => ?_, fun m => ?_⟩
    · rw [requestClose_seq, requestClose_seq, seq]
      rfl
    · simp only [PhaseKind.closes, List.mem_cons, List.not_mem_nil, or_false] at hv
      rcases hv with rfl | rfl
      · exact requestClose_keeps _ h h .snift .gas (requestClose_closed a h .gas)
      · exact requestClose_closed _ h .snift
    · simp only [PhaseKind.closes, List.mem_cons, List.not_mem_nil, or_false, not_or] at hv
      rw [other _ _ _ hv.2, other _ _ _ hv.1, valve]
    · rw [requestClose_chan, requestClose_chan, chan, if_neg (by cases m <;> decide)]
  | pressurise =>
    have form : limitState h .pressurise s = flagTimeout h a := by rw [ha]; rfl
    rw [form]
    refine ⟨(work_flagTimeout a h).after w, q.trans (silent_flagTimeout a h), ?_, fun v hv => ?_, fun v _ => ?_, fun m => ?_⟩
    · rw [flagTimeout_seq, seq]
      rfl
    · simp [PhaseKind.closes] at hv
    · rw [flagTimeout_valve, valve]
    · rw [flagTimeout_chan, chan, if_neg (by cases m <;> decide)]
  | additive =>
    have form : limitState h .additive s = cutChannel h .additive (flagTimeout h (requestClose h .add a)) := by rw [ha]; rfl
    have now : (flagTimeout h (requestClose h .add a)).now = s.now :=
      ((work_flagTimeout _ h).after ((work_requestClose a h .add).after w)).now
    rw [form]
    refine ⟨(work_cutChannel _ h .additive).after ((work_flagTimeout _ h).after ((work_requestClose a h .add).after w)),
      q.trans ((silent_requestClose a h .add).trans ((silent_flagTimeout _ h).trans (silent_cutChannel _ h .additive))), ?_,
      fun v hv => ?_, fun v hv => ?_, fun m => ?_⟩
    · rw [cutChannel_seq, flagTimeout_seq, requestClose_seq, seq]
      rfl
    · simp only [PhaseKind.closes, List.mem_cons, List.not_mem_nil, or_false] at hv
      rw [hv, cutChannel_valve, flagTimeout_valve]
      exact requestClose_closed a h .add
    · simp only [PhaseKind.closes, List.mem_cons, List.not_mem_nil, or_false] at hv
      rw [cutChannel_valve, flagTimeout_valve, other _ _ _ hv, valve]
    · cases m
      · rw [cutChannel_chan_other _ h .additive .main (by decide), flagTimeout_chan, requestClose_chan, chan]
        rfl
      · rw [cutChannel_chan, now, flagTimeout_chan, requestClose_chan, chan]
        rfl
  | fill =>
    have form : limitState h .fill s =
        cutChannel h .main (flagTimeout h (requestClose h .slow (requestClose h .fast a))) := by rw [ha]; rfl
    have before := ((work_flagTimeout (requestClose h .slow (requestClose h .fast a)) h).after
      ((work_requestClose _ h .slow).after ((work_requestClose a h .fast).after w)))
    rw [form]
    refine ⟨(work_cutChannel _ h .main).after before,
      q.trans (((silent_requestClose a h .fast).trans (silent_requestClose _ h .slow)).trans
        ((silent_flagTimeout _ h).trans (silent_cutChannel _ h .main))), ?_, fun v hv => ?_, fun v hv => ?_, fun m => ?_⟩
    · rw [cutChannel_seq, flagTimeout_seq, requestClose_seq, requestClose_seq, seq]
      rfl
    · simp only [PhaseKind.closes, List.mem_cons, List.not_mem_nil, or_false] at hv
      rw [cutChannel_valve, flagTimeout_valve]
      rcases hv with rfl | rfl
      · exact requestClose_keeps _ h h .slow .fast (requestClose_closed a h .fast)
      · exact requestClose_closed _ h .slow
    · simp only [PhaseKind.closes, List.mem_cons, List.not_mem_nil, or_false, not_or] at hv
      rw [cutChannel_valve, flagTimeout_valve, other _ _ _ hv.2, other _ _ _ hv.1, valve]
    · cases m
      · rw [cutChannel_chan, before.now, flagTimeout_chan, requestClose_chan, requestClose_chan, chan]
        rfl
      · rw [cutChannel_chan_other _ h .main .additive (by decide), flagTimeout_chan, requestClose_chan, requestClose_chan, chan]
        rfl
  | rest =>
    have form : limitState h .rest s = a := by rw [ha]; rfl
    rw [form]
    exact ⟨w, q, seq, fun v hv => by simp [PhaseKind.closes] at hv, fun v _ => valve v,
      fun m => by rw [chan, if_neg (by cases m <;> decide)]⟩
  | snift =>
    have form : limitState h .snift s = flagTimeout h (requestClose h .snift a) := by rw [ha]; rfl
    rw [form]
    refine ⟨(work_flagTimeout _ h).after ((work_requestClose a h .snift).after w),
      q.trans ((silent_requestClose a h .snift).trans (silent_flagTimeout _ h)), ?_, fun v hv => ?_, fun v hv => ?_, fun m => ?_⟩
    · rw [flagTimeout_seq, requestClose_seq, seq]
      rfl
    · simp only [PhaseKind.closes, List.mem_cons, List.not_mem_nil, or_false] at hv
      rw [hv, flagTimeout_valve]
      exact requestClose_closed a h .snift
    · simp only [PhaseKind.closes, List.mem_cons, List.not_mem_nil, or_false] at hv
      rw [flagTimeout_valve, other _ _ _ hv, valve]
    · rw [flagTimeout_chan, requestClose_chan, chan, if_neg (by cases m <;> decide)]

/-! ### The entry timer that runs (R93) -/

theorem timerDue_idle {p : Progress} (hi : (s.seq h).timer = none ∨
    (s.seq h).state ∈ [HeadState.off, .idle, .resolving, .fault, .held] ∨ (s.seq h).progress ≠ p) : timerDue h p s = none := by
  unfold timerDue
  rcases hi with ht | hq | hp
  · rw [ht]
    split <;> rfl
  · rw [if_neg]
    simp only [List.mem_cons, List.not_mem_nil, or_false] at hq
    rcases hq with hq | hq | hq | hq | hq <;> rw [hq] <;> simp [HeadState.active]
  · rw [if_neg]
    simp [hp]

theorem timerDue_due {p : Progress} {due : Ticks} (ht : (s.seq h).timer = some due) (hp : (s.seq h).progress = p)
    (hs : (s.seq h).state.active = true) : timerDue h p s = some due := by
  unfold timerDue
  rw [hs, hp, ht]
  cases p <;> rfl

theorem phaseLimitExpires_idle (hi : timerDue h .active s = none) : phaseLimitExpires h s = s := by
  unfold phaseLimitExpires
  rw [hi]

theorem holdExpires_idle (hi : timerDue h .holding s = none) : holdExpires h s = s := by
  unfold holdExpires
  rw [hi]

theorem holdExpires_due {due : Ticks} (hi : timerDue h .holding s = some due) :
    holdExpires h s = goOn h ((s.advance due).modSeq h fun q => { q with timer := none }) := by
  unfold holdExpires
  rw [hi]

/-- The time limit of the entry in progress is due in an active cycle. -/
structure Due (s : State) (h : HeadId) (c : CycleRecord) (e : PhaseEntry) (due : Ticks) : Prop where
  timer : (s.seq h).timer = some due
  progress : (s.seq h).progress = .active
  cycle : (s.head h).cycle = some c
  index : 1 ≤ (s.seq h).planIndex
  entry : c.plan[(s.seq h).planIndex - 1]? = some e

theorem Due.expires {due : Ticks} (d : Due s h c e due) (hs : (s.seq h).state.active = true) :
    phaseLimitExpires h s = timeLimitExpires h e (s.advance due) := by
  have entry : currentEntry h s = some e := currentEntry_iff.mpr ⟨d.index, by rw [headPlan, d.cycle]; exact d.entry⟩
  unfold phaseLimitExpires
  rw [timerDue_due d.timer d.progress hs, entry]

/-- R100: the time limit of an entry that goes on, behind what it closes and cuts. -/
theorem Due.goesOn {due : Ticks} (d : Due s h c e due) (hs : (s.seq h).state.active = true)
    (hk : e.kind ∈ [PhaseKind.pressurise, .additive, .fill] ∧ e.continues = true ∨ e.kind = .purge ∨ e.kind = .rest) :
    phaseLimitExpires h s = goOn h (limitState h e.kind (s.advance due)) := by
  rw [d.expires hs, timeLimitExpires_eq]
  simp only [List.mem_cons, List.not_mem_nil, or_false] at hk
  have failed (u : State) (hc : e.continues = true) : failEntry h e u = goOn h u := if_pos hc
  rcases hk with ⟨hk | hk | hk, hc⟩ | hk | hk <;> rw [hk]
  · exact failed _ hc
  · exact failed _ hc
  · exact failed _ hc

/-- R100: the time limit of an entry that aborts the cycle. -/
theorem Due.aborts {due : Ticks} (d : Due s h c e due) (hs : (s.seq h).state.active = true)
    (hk : e.kind ∈ [PhaseKind.pressurise, .additive, .fill]) (hc : e.continues = false) :
    phaseLimitExpires h s = abortCycle h (limitState h e.kind (s.advance due)) := by
  rw [d.expires hs, timeLimitExpires_eq]
  simp only [List.mem_cons, List.not_mem_nil, or_false] at hk
  have failed (u : State) : failEntry h e u = abortCycle h u := if_neg (by rw [hc]; decide)
  rcases hk with hk | hk | hk <;> rw [hk] <;> exact failed _

/-- R99: the time limit of a SNIFT entry. -/
theorem Due.snift {due : Ticks} (d : Due s h c e due) (hs : (s.seq h).state.active = true) (hk : e.kind = .snift) :
    phaseLimitExpires h s =
      if c.plan.length ≤ (s.seq h).planIndex then endCycle .sniftFailed h (limitState h .snift (s.advance due))
      else nextEntry h (limitState h .snift (s.advance due)) := by
  have l := limited_limitState (h := h) .snift (s.advance due)
  have plan : headPlan h (limitState h .snift (s.advance due)) = c.plan := by
    rw [l.work.plan, headPlan, advance_head, d.cycle]
  have last : atLastEntry h (limitState h .snift (s.advance due)) = true ↔ c.plan.length ≤ (s.seq h).planIndex := by
    rw [atLastEntry, plan, l.seq]
    exact decide_eq_true_iff
  rw [d.expires hs, timeLimitExpires_eq, hk]
  exact if_congr last rfl rfl

end

theorem late_iff {k : PhaseKind} (hn : k ≠ .snift) : k.late = true ↔ k ∈ [PhaseKind.pressurise, .additive, .fill] := by
  cases k
  case snift => exact absurd rfl hn
  all_goals decide

theorem doseKind_eq (m : Meter) : doseKind m = match m with | .main => PhaseKind.fill | .additive => .additive := by
  cases m <;> rfl

/-- R124: a channel in DOSING is cut, if it doses for the entry. -/
theorem cut_if {c : Channel} {k j : PhaseKind} {now : Ticks} {d : PhaseKind} (hd : d = j) :
    (if k = d then c.cut now else c) =
      if k = j ∧ c.state = .dosing then
        { c with
          state := .settling, closeKind := .cut, closeVolume := some c.volume, settleStart := some now, lastPulse := none }
      else c := by
  subst hd
  unfold Channel.cut
  by_cases hk : k = d
  · rw [if_pos hk]
    exact if_congr (by simp [hk]) rfl rfl
  · rw [if_neg hk, if_neg fun hx => hk hx.1]

/-- Settles O52: what a limit does first by `limited_limitState`, then the abort, the next entry or the hold. -/
theorem entryTimerExpires : Obligations.EntryTimerExpires := by
  intro h s q i j idle
  refine ⟨fun hi => congrArg Host.Outcome.next (phaseLimitExpires_idle (timerDue_idle (or_assoc.mp hi))),
    fun hi => congrArg Host.Outcome.next (holdExpires_idle (timerDue_idle (or_assoc.mp hi))),
    fun due e c ht hp hc hi he => ?_, fun due ht hp => ⟨fun hr hm => ?_, fun e c hs hc he hk => ?_⟩⟩
  · have d : Due s h c e due := ⟨ht, hp, hc, hi, he⟩
    have active : q.state = .running → (s.seq h).state.active = true := fun hr => by rw [show (s.seq h).state = _ from hr]; rfl
    obtain ⟨u, hu⟩ : ∃ u, u = limitState h e.kind (s.advance due) := ⟨_, rfl⟩
    have l : Limited h e.kind (s.advance due) u := by rw [hu]; exact limited_limitState _ _
    have seq := l.seq
    have now : u.now = max s.now due := l.work.now
    have plan : headPlan h u = c.plan := by rw [l.work.plan, headPlan, advance_head, hc]
    have cycle : (u.head h).cycle = some c := by rw [l.work.cycle, advance_head, hc]
    rw [advance_seq] at seq
    have running (hr : q.state = .running) : (u.seq h).state = .running := by rw [seq]; exact hr
    refine ⟨fun hk hd hr hb hs => ?_, fun hk hr hm => ?_, fun hk hr hm => ?_, fun hk hr => ?_, fun hk hr n hn hs => ?_⟩
    · have goes : phaseLimitExpires h s = abortCycle h u := by rw [hu]; exact d.aborts (active hr) hk hd
      have late : e.kind.late = true := by
        simp only [List.mem_cons, List.not_mem_nil, or_false] at hk
        rcases hk with hk | hk | hk <;> rw [hk] <;> rfl
      rw [late] at seq
      obtain ⟨aborted, _⟩ := abortCycle_aborted (running hr) (by rw [seq]; exact hb) (by rw [plan]; exact hs)
      refine ⟨_, congrArg Host.Outcome.next goes, (work_abortCycle u h).now.trans now, aborted.state, ?_, aborted.progress,
        aborted.begun, aborted.equalised, aborted.opened, aborted.closed, aborted.chan⟩
      rw [aborted.flags, seq]
      rfl
    · have goes : phaseLimitExpires h s = goOn h u := by rw [hu]; exact d.goesOn (active hr) (.inr (.inl hk))
      have closed := l.closed
      rw [hk] at seq closed
      have held := goOn_holds (s := u) (h := h) (by rw [seq]; exact hm) (running hr)
      refine ⟨_, congrArg Host.Outcome.next goes, (work_goOn u h).now.trans now, ?_⟩
      rw [held, modSeq_seq, seq]
      exact ⟨rfl, rfl, rfl, rfl, rfl, fun v hv => by rw [modSeq_valve]; exact closed v hv⟩
    · have goes : phaseLimitExpires h s = goOn h u := by rw [hu]; exact d.goesOn (active hr) (.inr (.inr hk))
      have held := goOn_holds (s := u) (h := h) (by rw [seq]; exact hm) (running hr)
      have form : u = (s.advance due).modSeq h fun q => { q with timer := none } := by rw [hu, hk]; rfl
      refine congrArg Host.Outcome.next (goes.trans (held.trans ?_))
      rw [form, modSeq_modSeq]
      rfl
    · have goes : phaseLimitExpires h s = goOn h u := by rw [hu]; exact d.goesOn (active hr) hk
      have flags : (if e.kind.late then { (s.seq h).flags with timeout := true } else (s.seq h).flags) =
          if e.kind ∈ [PhaseKind.pressurise, .additive, .fill] then { (s.seq h).flags with timeout := true } else (s.seq h).flags :=
        if_congr (late_iff (by rintro hn; rw [hn] at hk; simp at hk)) rfl rfl
      rw [flags] at seq
      refine ⟨u, congrArg Host.Outcome.next goes, now, seq, cycle, fun v => ?_, fun m => ?_, fun hm => ?_, fun hm n hn hk' => ?_⟩
      · have closed := l.closed v
        have kept := l.kept v
        cases hkind : e.kind <;> rw [hkind] at closed kept
        case snift => rw [hkind] at hk; simp at hk
        all_goals
          dsimp only
          split
          · exact closed ‹_›
          · exact kept ‹_›
      · rw [l.chan m]
        exact cut_if (doseKind_eq m)
      · rw [goOn_holds (by rw [seq]; exact hm) (running hr), modSeq_seq, seq]
      · have comes : Comes u h c n := ⟨.inl (by rw [seq]; exact hm), cycle, by rw [seq]; exact hn⟩
        obtain ⟨_, _, begun⟩ := comes.begun (by rw [l.work.scan, l.work.scanner]; simpa [or_assoc] using hk')
        rw [begun, seq, ← now]
        exact ⟨hr, rfl, rfl, rfl, rfl⟩
    · have goes : phaseLimitExpires h s = nextEntry h u := by
        rw [d.snift (by rcases hr with hr | hr <;> rw [show (s.seq h).state = _ from hr] <;> rfl) hk, if_neg, hu, hk]
        exact Nat.not_le.mpr (List.getElem?_eq_some_iff.mp hn).1
      rw [hk] at seq
      have begins := nextEntry_snift cycle (by rw [seq]; exact hn) hs
      obtain ⟨⟨b, begun⟩, opened⟩ := sniftEntry_begun (s := u) (h := h) (e := n)
      rw [← begins] at begun opened
      rw [← now]
      refine ⟨_, congrArg Host.Outcome.next goes, (work_nextEntry u h).now, ?_⟩
      rw [begun, seq]
      exact ⟨rfl, rfl, rfl, rfl, rfl, rfl, opened⟩
  · have active : (s.seq h).state.active = true := by rw [show (s.seq h).state = _ from hr]; rfl
    have goes := holdExpires_due (timerDue_due ht hp active)
    refine congrArg Host.Outcome.next (goes.trans ((goOn_holds ?_ ?_).trans ?_))
    · rw [modSeq_seq]
      exact hm
    · rw [modSeq_seq]
      exact hr
    · rw [modSeq_modSeq]
      rfl
  · have active : (s.seq h).state.active = true := by rcases hs with hs | ⟨hs, _⟩ <;> rw [show (s.seq h).state = _ from hs] <;> rfl
    obtain ⟨u, hu⟩ : ∃ u, u = (s.advance due).modSeq h fun q => { q with timer := none } := ⟨_, rfl⟩
    have goes : holdExpires h s = goOn h u := by rw [hu]; exact holdExpires_due (timerDue_due ht hp active)
    have seq : u.seq h = { q with timer := none } := by rw [hu, modSeq_seq, advance_seq]
    have cycle : (u.head h).cycle = some c := by rw [hu, State.modSeq, modHead_head]; exact hc
    have now : u.now = max s.now due := by rw [hu]; rfl
    have comes : Comes u h c e := by
      refine ⟨?_, cycle, by rw [seq]; exact he⟩
      rw [seq]
      exact hs.elim (fun hs => .inr (by rw [show _ = _ from hs]; decide)) fun hs => .inl hs.2
    obtain ⟨⟨b, begun⟩, opened⟩ := sniftEntry_begun (s := u) (h := h) (e := e)
    rw [← comes.snift hk] at begun opened
    rw [← now]
    refine ⟨_, congrArg Host.Outcome.next goes, (work_goOn u h).now, ?_⟩
    rw [begun, seq]
    exact ⟨rfl, rfl, rfl, rfl, opened⟩

end Sys2Proof.Machine
end

section
/-! Proofs about the end of a cycle by its last SNIFT entry (R99, R107, R126, R130, R131, R154 to R159, R163): the flags, the FILL
record and the totals, and the statement O53. -/

namespace Sys2Proof.Machine

open Sys2Proof

/-! ### The channels at a cycle end (R126) -/

/-- A channel that a freeze ends. -/
@[reducible] def Channel.frozen (c : Channel) : Prop := c.state = .dosing ∨ c.state = .settling

theorem Channel.freeze_eq (c : Channel) :
    c.freeze = if c.frozen then { c with state := .ended, final := c.volume, endKind := .frozen, learn := .skipped } else c := by
  unfold Channel.freeze
  split <;> rename_i hc <;> simp [Channel.frozen, hc]

theorem Channel.freeze_final (c : Channel) : c.freeze.final = if c.frozen then c.volume else c.final := by
  rw [freeze_eq]
  split <;> rfl

theorem Channel.freeze_learn (c : Channel) : c.freeze.learn = .skipped ↔ c.frozen ∨ c.learn = .skipped := by
  rw [freeze_eq]
  split <;> simp [*]

theorem Channel.freeze_idle (c : Channel) : c.freeze.state = .idle ↔ c.state = .idle := by
  rw [freeze_eq]
  split
  · rename_i hf
    rcases hf with hf | hf <;> simp [hf]
  · rfl

theorem Channel.freeze_endKind (c : Channel) : c.freeze.endKind = .frozen ↔ c.frozen ∨ c.endKind = .frozen := by
  rw [freeze_eq]
  split <;> simp [*]

theorem Channel.freeze_closeKind (c : Channel) : c.freeze.closeKind = c.closeKind := by
  rw [freeze_eq]
  split <;> rfl

/-- R130: the outcome code of a FILL record whose cycle no valve has stuck. -/
def outcomeCode (c : CycleRecord) (m : Channel) : Nat :=
  let error := ((if m.frozen then m.volume else m.final : Nat) : Int) - (c.recipe.vMain : Int)
  if m.state = .idle ∨ m.closeKind = .none ∧ (m.frozen ∨ m.endKind = .frozen) then 3
  else if error < -(c.recipe.tolUnder : Int) then 1
  else if (c.recipe.tolOver : Int) < error then 2
  else 0

theorem fillOutcome_code (c : CycleRecord) (m : Channel) : (fillOutcome false c m.freeze).code = outcomeCode c m := by
  unfold fillOutcome outcomeCode mainError
  simp only [Channel.freeze_final, Channel.freeze_idle, Channel.freeze_endKind, Channel.freeze_closeKind, Bool.false_eq_true,
    if_false]
  generalize (if m.frozen then m.volume else m.final) = final
  by_cases hi : m.state = .idle
  · simp only [hi, true_or, if_true]
    rfl
  · by_cases hz : m.closeKind = .none ∧ (m.frozen ∨ m.endKind = .frozen)
    · rw [if_neg hi, if_pos hz.symm, if_pos (.inr hz)]
      rfl
    · rw [if_neg hi, if_neg fun hx => hz hx.symm, if_neg (not_or.mpr ⟨hi, hz⟩)]
      split
      · rfl
      · split <;> rfl

section
variable {s : State} {h : HeadId} {c : CycleRecord} {x : QueueEntry}

/-! ### The FILL record (R131, R156, R163) -/

/-- A record that takes its reservation, with no record lost before. -/
theorem placeRecord_reserved (hr : 0 < s.orq.reservations) (r : Record) :
    (placeRecord h r s).orq =
        ⟨s.orq.records ++ [if s.orq.lost then r.markLost else r], s.orq.reservations - 1, false⟩ ∧
      (placeRecord h r s).seq h = { s.seq h with reserved := false } ∧ (placeRecord h r s).counters = s.counters ∧
      (placeRecord h r s).totals = s.totals := by
  unfold placeRecord
  dsimp only
  rw [if_neg (Nat.pos_iff_ne_zero.mp hr)]
  exact ⟨rfl, modSeq_seq s h fun q => { q with reserved := false }, rfl, rfl⟩

/-- One more FILL record in the totals of its recipe (R163). -/
def TotalsRow.filled (outcome volume : Nat) (y : TotalsRow) : TotalsRow :=
  let more := fun (k count : Nat) => if outcome = k then min 4294967295 (count + 1) else count
  ⟨more 0 y.goodCount, more 1 y.underCount, more 2 y.overCount, more 3 y.unservedCount, min 281474976710655 (y.volumeSum + volume)⟩

theorem countFill_row (recipe : Nat) (outcome : FillOutcome) (volume : Nat) (n : Fin 128) :
    (countFill recipe outcome volume s).totals[n] =
      if n.val = recipe then (s.totals[n]).filled outcome.code volume else s.totals[n] := by
  unfold countFill
  rw [modTotals_row]
  refine if_congr eq_comm ?_ rfl
  cases outcome <;> rfl

theorem countFill_heads (recipe : Nat) (outcome : FillOutcome) (volume : Nat) : (countFill recipe outcome volume s).heads = s.heads :=
  (booked_modTotals s recipe _).heads

/-- What the FILL record of a cycle end leaves. -/
structure Filled (h : HeadId) (stuck : Bool) (c : CycleRecord) (recipe : Nat) (s t : State) : Prop where
  orq : t.orq =
    ⟨s.orq.records ++ [if s.orq.lost then (fillRecord stuck h c s).markLost else fillRecord stuck h c s],
      s.orq.reservations - 1, false⟩
  seq : t.seq h = { s.seq h with reserved := false }
  counters : t.counters = s.counters
  totals : ∀ n : Fin 128, t.totals[n] =
    if n.val = recipe then (s.totals[n]).filled (fillOutcome stuck c (s.chan h .main)).code ((s.chan h .main).final / 1000)
    else s.totals[n]
  additive : (t.head h).lastAdditive = (s.chan h .additive).final

theorem recordFill_filled (stuck : Bool) (hc : (s.head h).cycle = some c) (hr : 0 < s.orq.reservations) :
    Filled h stuck c (entryRecipe h s) s (recordFill stuck h s) := by
  obtain ⟨a, ha⟩ : ∃ a, a = placeRecord h (fillRecord stuck h c s) s := ⟨_, rfl⟩
  obtain ⟨b, hb⟩ : ∃ b, b = countFill (entryRecipe h s) (fillOutcome stuck c (s.chan h .main)) ((s.chan h .main).final / 1000) a :=
    ⟨_, rfl⟩
  have form : recordFill stuck h s = b.modHead h fun y => { y with lastAdditive := (s.chan h .additive).final } := by
    rw [hb, ha]
    unfold recordFill
    rw [hc]
  obtain ⟨orq, seq, counters, totals⟩ := placeRecord_reserved (h := h) hr (fillRecord stuck h c s)
  rw [← ha] at orq seq counters totals
  obtain ⟨borq, bcounters⟩ : b.orq = a.orq ∧ b.counters = a.counters := by rw [hb]; exact modTotals_orq _ _
  have bheads : b.heads = a.heads := by rw [hb]; exact countFill_heads _ _ _
  rw [form]
  refine ⟨borq.trans orq, ?_, bcounters.trans counters, fun n => ?_, by rw [modHead_head]⟩
  · rw [State.seq, modHead_head, ← seq, State.seq, State.head, State.head, bheads]
  · rw [show (b.modHead h fun y => { y with lastAdditive := (s.chan h .additive).final }).totals = b.totals from rfl, hb,
      countFill_row, totals]

/-! ### The flags (R107, R130) -/

/-- ADD_ERR and LEARN_SKIPPED behind the freeze (R107). -/
def CycleFlags.judged (c : CycleRecord) (main additive : Channel) (f : CycleFlags) : CycleFlags :=
  { f with
    addErr := f.addErr || addErrHolds c additive.final
    learnSkipped := f.learnSkipped || (main.learn == .skipped || additive.learn == .skipped) }

theorem judgeFlags_seq (hc : (s.head h).cycle = some c) :
    (judgeFlags h s).seq h = { s.seq h with flags := (s.seq h).flags.judged c (s.chan h .main) (s.chan h .additive) } := by
  unfold judgeFlags
  dsimp only
  rw [State.modFlags, modSeq_seq, hc]
  rfl

theorem judgeFlags_chan (m : Meter) : (judgeFlags h s).chan h m = s.chan h m := modSeq_chan s h h m _

theorem silent_judgeFlags (s : State) (h : HeadId) : Silent s (judgeFlags h s) := ⟨rfl, rfl, rfl, rfl⟩

/-- ALARM SNIFT_INCOMPLETE (R107). -/
def sniftIncompleteRecord (h : HeadId) (s : State) : Record :=
  ⟨.alarm, BitVec.ofNat 8 h.val, s.pitch.sequence.elim 0#16 PitchSequence.serial, 255#8, 8#8, 0#8,
    BitVec.ofNat 32 ((s.head h).scan.value.getD 0), 0#24⟩

/-- Step 5 of R107 with room for its alarm. -/
theorem sniftIncomplete_room (hr : s.roomFor 1) :
    (sniftIncomplete h s).orq = { s.orq with records := s.orq.records ++ [sniftIncompleteRecord h s] } ∧
      (sniftIncomplete h s).counters = s.counters ∧ (sniftIncomplete h s).totals = s.totals ∧
      (sniftIncomplete h s).seq h =
        { s.seq h with flags := { (s.seq h).flags with sniftIncomplete := true }, faultPending := true } ∧
      ∀ m, (sniftIncomplete h s).chan h m = s.chan h m := by
  obtain ⟨a, ha⟩ : ∃ a, a = s.modFlags h fun f => { f with sniftIncomplete := true } := ⟨_, rfl⟩
  have scan : (a.head h).scan = (s.head h).scan := by rw [ha, State.modFlags, State.modSeq, modHead_head]
  have record : alarmRecord .sniftIncomplete (headByte h) ((a.head h).scan.value.getD 0) 0 a = sniftIncompleteRecord h s := by
    rw [alarmRecord, alarmSerial_eq, scan, ha]
    rfl
  have room : a.roomFor 1 := by rw [ha]; exact hr
  have seq : a.seq h = { s.seq h with flags := { (s.seq h).flags with sniftIncomplete := true } } := by
    rw [ha, State.modFlags, modSeq_seq]
  have chan (m : Meter) : a.chan h m = s.chan h m := by rw [ha, State.modFlags, modSeq_chan]
  have form : sniftIncomplete h s =
      (enterUnreserved (sniftIncompleteRecord h s) a).modSeq h fun q => { q with faultPending := true } := by
    rw [← record, ha]
    rfl
  rw [form, enterUnreserved_eq room]
  refine ⟨?_, ?_, ?_, ?_, fun m => ?_⟩
  · rw [ha]
    rfl
  · rw [ha]
    rfl
  · rw [ha]
    rfl
  · rw [modSeq_seq]
    exact (congrArg (fun q : Sequencer => { q with faultPending := true }) seq :)
  · rw [modSeq_chan]
    exact chan m

/-! ### The end of the cycle (R107) -/

/-- Steps 1 to 3 of R107: SNIFT closed, the timer stopped, the channels frozen and the flags judged. -/
structure FlagsJudged (h : HeadId) (c : CycleRecord) (s t : State) : Prop where
  silent : Silent s t
  work : HeadWork h s t
  chan : ∀ m, t.chan h m = (s.chan h m).freeze
  seq : t.seq h =
    { s.seq h with
      timer := none
      flags := (s.seq h).flags.judged c (s.chan h .main).freeze (s.chan h .additive).freeze }

theorem judgeFlags_judged (hc : (s.head h).cycle = some c) :
    FlagsJudged h c s (judgeFlags h (freezeBoth h ((requestClose h .snift s).modSeq h fun q => { q with timer := none }))) := by
  obtain ⟨a, ha⟩ : ∃ a, a = freezeBoth h ((requestClose h .snift s).modSeq h fun q => { q with timer := none }) := ⟨_, rfl⟩
  have w : HeadWork h s a := by
    rw [ha]
    exact (work_freezeBoth _ h).after ((work_modSeq _ h (fun q => { q with timer := none }) fun _ => rfl).after
      (work_requestClose s h .snift))
  have chan (m : Meter) : a.chan h m = (s.chan h m).freeze := by
    rw [ha, freezeBoth_chan, modSeq_chan, requestClose_chan]
  have seq : a.seq h = { s.seq h with timer := none } := by rw [ha, freezeBoth_seq, modSeq_seq, requestClose_seq]
  have silent : Silent s a := by
    rw [ha]
    exact ((silent_requestClose s h .snift).trans (silent_modSeq _ h _)).trans (silent_freezeBoth _ h)
  rw [← ha]
  refine ⟨silent.trans (silent_judgeFlags a h), (work_judgeFlags a h).after w, fun m => (judgeFlags_chan m).trans (chan m), ?_⟩
  rw [judgeFlags_seq (by rw [w.cycle, hc]), seq, chan, chan]

/-- The byte of the cycle flags of a cycle whose last SNIFT entry has failed. -/
theorem failedFlags_byte (f : CycleFlags) (ht : f.timeout = true) (hs : f.sniftIncomplete = true) :
    let bit := fun (b : Bool) (n : Nat) => if b then n else 0
    cycleFlagsByte f = BitVec.ofNat 8 (bit f.deadline 1 + 2 + bit f.addErr 4 + bit f.learnSkipped 8 + bit f.ringLoss 32 + 64 +
      bit f.stepMode 128) := by
  have bits (b : Bool) (n : Nat) : n * bitOf b = if b then n else 0 := by cases b <;> simp [bitOf]
  have one (b : Bool) : bitOf b = if b then 1 else 0 := rfl
  intro bit
  rw [cycleFlagsByte, ht, hs]
  simp only [bits, one f.deadline]
  rfl

/-- The flags of such a cycle, from those that stood at the limit. -/
theorem failedFlags_eq {f : CycleFlags} {c : CycleRecord} {m n : Channel} (final : Nat) {p q : Prop} [Decidable p] [Decidable q]
    (hn : n.final = final) (hp : m.learn = .skipped ↔ p) (hq : n.learn = .skipped ↔ q) :
    { ({ f with timeout := true } : CycleFlags).judged c m n with sniftIncomplete := true } =
      { f with
        timeout := true
        sniftIncomplete := true
        addErr := f.addErr || decide (c.addCurve ≠ none ∧ (c.recipe.addTol : Int) < |(final : Int) - (c.vAdd : Int)|)
        learnSkipped := f.learnSkipped || decide (p ∨ q) } := by
  have added : addErrHolds c n.final =
      decide (c.addCurve ≠ none ∧ (c.recipe.addTol : Int) < |(final : Int) - (c.vAdd : Int)|) := by
    rw [addErrHolds, hn, Bool.decide_and]
    congr 1
    · cases c.addCurve <;> rfl
    · refine decide_eq_decide.mpr ?_
      rw [← Int.natCast_natAbs, Int.ofNat_lt]
  have skips : (m.learn == .skipped || n.learn == .skipped) = decide (p ∨ q) := by
    rw [Bool.decide_or, ← decide_eq_decide.mpr hp, ← decide_eq_decide.mpr hq]
    rfl
  rw [CycleFlags.judged, added, skips]

end

/-- Settles O53: the limit by `limited_limitState`, the flags by `judgeFlags_judged`, the alarm by `sniftIncomplete_room`, the
FILL record by `recordFill_filled`, the rest by `endCycle_eq`. -/
theorem failedSniftEndsTheCycle : Obligations.FailedSniftEndsTheCycle := by
  intro h due e c x s q ht hp hs hc hi he hk hx hdry hl hr hroom frozen final error main outcome addErr skipped flags bit byte
  have active : (s.seq h).state.active = true := by rcases hs with hs | hs <;> rw [show (s.seq h).state = _ from hs] <;> rfl
  have index : 1 ≤ q.planIndex := by
    rcases Nat.eq_zero_or_pos q.planIndex with h0 | h0
    · rw [h0] at hi he
      rw [List.length_eq_zero_iff.mp hi.symm] at he
      simp at he
    · exact h0
  have d : Due s h c e due := ⟨ht, hp, hc, index, he⟩
  obtain ⟨u, hu⟩ : ∃ u, u = limitState h .snift (s.advance due) := ⟨_, rfl⟩
  have l : Limited h .snift (s.advance due) u := by rw [hu]; exact limited_limitState _ _
  have useq := l.seq
  rw [advance_seq] at useq
  have uchan (m : Meter) : u.chan h m = s.chan h m := (l.chan m).trans (if_neg (by cases m <;> decide))
  have udry : u.dry h := fun v hv => by
    rw [l.kept v (by rcases hv with rfl | rfl | rfl <;> decide)]
    exact hdry v (by rcases hv with rfl | rfl | rfl <;> decide)
  have ucycle : (u.head h).cycle = some c := by rw [l.work.cycle, advance_head, hc]
  have ends : phaseLimitExpires h s = endCycle .sniftFailed h u := by
    rw [d.snift active hk, if_pos (le_of_eq (show q.planIndex = _ from hi).symm), hu]
  obtain ⟨a, ha⟩ : ∃ a, a = judgeFlags h (freezeBoth h ((requestClose h .snift u).modSeq h fun q => { q with timer := none })) :=
    ⟨_, rfl⟩
  have j : FlagsJudged h c u a := by rw [ha]; exact judgeFlags_judged ucycle
  have aorq : a.orq = s.orq := j.silent.orq.trans l.silent.orq
  have aroom : a.roomFor 1 := by rw [State.roomFor, aorq]; exact ⟨hl, hroom⟩
  obtain ⟨b, hb⟩ : ∃ b, b = sniftIncomplete h a := ⟨_, rfl⟩
  obtain ⟨borq, bcounters, btotals, bseq, bchan⟩ := sniftIncomplete_room (h := h) aroom
  rw [← hb] at borq bcounters btotals bseq bchan
  have bcycle : (b.head h).cycle = some c := by rw [hb, (work_sniftIncomplete a h).cycle, j.work.cycle, ucycle]
  have breserved : 0 < b.orq.reservations := by rw [borq, aorq]; exact hr
  have f := recordFill_filled false bcycle breserved
  have recorded : cycleRecorded .sniftFailed h u = recordFill false h b := by rw [hb, ha]; rfl
  obtain ⟨w, hw⟩ : ∃ w, w = recordFill false h b := ⟨_, rfl⟩
  rw [← hw] at f recorded
  have goes : phaseLimitExpires h s = w.modSeq h (Sequencer.ended .sniftFailed (freeState u)) := by
    rw [ends, endCycle_eq .sniftFailed udry, recorded]
  have work : HeadWork h (s.advance due) (w.modSeq h (Sequencer.ended .sniftFailed (freeState u))) := by
    refine (work_modSeq w h (Sequencer.ended .sniftFailed (freeState u)) fun _ => rfl).after ?_
    rw [hw, hb]
    exact (work_recordFill _ _ h).after ((work_sniftIncomplete a h).after (j.work.after l.work))
  have finals (m : Meter) : (b.chan h m).final = final m := by
    rw [bchan, j.chan, Channel.freeze_final, uchan]
  have hflags : (b.seq h).flags = flags := by
    rw [bseq, j.seq, useq]
    exact failedFlags_eq (f := q.flags) (final .additive) (by rw [Channel.freeze_final, uchan])
      (by rw [Channel.freeze_learn, uchan]) (by rw [Channel.freeze_learn, uchan])
  have entry : (b.seq h).entry = some x := by rw [bseq, j.seq, useq]; exact hx
  have recipe : entryRecipe h b = x.recipe := by rw [entryRecipe, entry]
  have code : (fillOutcome false c (b.chan h .main)).code = outcome := by
    rw [bchan, j.chan, uchan, fillOutcome_code]
    rfl
  have seq : ((w.modSeq h (Sequencer.ended .sniftFailed (freeState u))).seq h) =
      Sequencer.ended .sniftFailed (freeState u) { b.seq h with reserved := false } := by
    rw [modSeq_seq, f.seq]
  have pending : (b.seq h).faultPending = true := by rw [bseq]
  refine ⟨_, congrArg Host.Outcome.next goes, work.now, ?_, fun n => ?_, ?_, ?_, ?_, ?_, ?_, ?_, ?_, ?_, ?_, ?_, ?_, ?_, ?_,
    work.others, ?_⟩
  · rw [show (w.modSeq h (Sequencer.ended .sniftFailed (freeState u))).orq = w.orq from rfl, f.orq, borq, aorq]
    dsimp only
    rw [hl, List.append_assoc]
    have alarm : sniftIncompleteRecord h a =
        ⟨.alarm, BitVec.ofNat 8 h.val, s.pitch.sequence.elim 0#16 PitchSequence.serial, 255#8, 8#8, 0#8,
          BitVec.ofNat 32 ((s.head h).scan.value.getD 0), 0#24⟩ := by
      rw [sniftIncompleteRecord, (j.work.after l.work).pitch, (j.work.after l.work).scan]
      rfl
    have fill : fillRecord false h c b =
        ⟨.fill, BitVec.ofNat 8 h.val, x.serial, BitVec.ofNat 8 x.recipe, BitVec.ofNat 8 outcome, BitVec.ofNat 8 byte,
          BitVec.ofNat 32 (final .main / 1000), BitVec.ofInt 24 (max (-8388607) (min 8388607 (error.tdiv 1000)))⟩ := by
      rw [fillRecord, entry, code, hflags, finals, fillError, mainError, finals, failedFlags_byte flags rfl rfl]
      rfl
    rw [alarm, fill]
    rfl
  · rw [show (w.modSeq h (Sequencer.ended .sniftFailed (freeState u))).totals = w.totals from rfl, f.totals, code, finals, recipe,
      btotals, j.silent.totals, l.silent.totals]
    rfl
  · rw [seq]
    exact if_pos (.inl pending)
  · rw [seq]; rfl
  · rw [seq]; rfl
  · rw [seq]; rfl
  · rw [seq]; rfl
  · rw [seq]; rfl
  · rw [seq]; rfl
  · rw [seq]; rfl
  · rw [seq]
    exact if_pos (.inl pending)
  · rw [seq]
    exact hflags
  · rw [modSeq_valve, ← recorded, cycleRecorded_valve]
    exact (requestClose_closed u h .snift).1
  · rw [modSeq_valve, ← recorded, cycleRecorded_valve]
    exact (requestClose_closed u h .snift).2
  · rw [State.modSeq, modHead_head]
    exact f.additive.trans (finals .additive)
  · rw [show (w.modSeq h (Sequencer.ended .sniftFailed (freeState u))).counters = w.counters from rfl, f.counters, bcounters,
      j.silent.counters, l.silent.counters]
    rfl

end Sys2Proof.Machine
end

section
/-! Proofs about conversions (R134 to R142, R95, R99, R102, R107, R167, R168): the judgement of a reading, what its report makes
of the cycle and of the traces, which channel follows, and the statement O54. -/

namespace Sys2Proof.Machine

open Sys2Proof

/-! ### A head stays in or out of service (R112) -/

/-- A head that is not OFF is not OFF behind the work. -/
@[reducible] def Lives (h : HeadId) (s t : State) : Prop := (s.seq h).state ≠ .off → (t.seq h).state ≠ .off

section
variable {s t : State} {h : HeadId} {e : PhaseEntry}

theorem Lives.of_state (hs : (t.seq h).state = (s.seq h).state) : Lives h s t := fun hn => by rwa [hs]

theorem Lives.ite {p : Prop} [Decidable p] {a b : State} (ha : p → Lives h s a) (hb : ¬p → Lives h s b) :
    Lives h s (if p then a else b) := by
  split
  · exact ha ‹_›
  · exact hb ‹_›

theorem Plumbing.state (p : Plumbing h s t) : (t.seq h).state = (s.seq h).state := by rw [p.seq]

theorem cutoffReached_state (m : Meter) : ((cutoffReached h m s).seq h).state = (s.seq h).state := by
  rw [cutoffReached_seq_eq]

/-- An entry that begins leaves the head's state. -/
theorem startEntry_state : ((startEntry h e s).2.seq h).state = (s.seq h).state := by
  cases hk : e.kind with
  | purge => rw [startEntry_purge hk, purge_seq]
  | pressurise => rw [startEntry_pressurise hk, (plumbing_requestOpen s h .gas).seq]
  | rest => rw [startEntry_rest hk, closeProducts_seq, (plumbing_requestOpen s h .gas).seq]
  | snift =>
    rw [startEntry_snift hk, (plumbing_requestOpen _ h .snift).seq, beginSnift_seq]
    split <;> rfl
  | additive =>
    cases hl : reached h (headDeadlines h s).dFill s with
    | true => rw [startEntry_additive_late hk hl]
    | false =>
      have start := (channelWork_doseStart h .additive s).seq
      rw [startEntry_additive hk hl]
      dsimp only
      split
      · rw [(plumbing_requestOpen _ h .add).seq, start]
      · rw [cutoffReached_state, start]
  | fill =>
    have start := (channelWork_fillStart (s := s) (h := h)).seq
    have band (a : State) : ((fastBand h a).seq h).state = (a.seq h).state :=
      (Plumbing.ite (fun _ => plumbing_requestOpen a h .fast) fun _ => plumbing_requestClose a h .fast).state
    rw [startEntry_fill hk]
    dsimp only
    split
    · rw [band, (plumbing_requestOpen _ h .slow).seq, start]
    · rw [cutoffReached_state, start]

/-- An abort leaves the head in FORCED_SNIFT. -/
theorem abortCycle_state : ((abortCycle h s).seq h).state = .forcedSnift := by
  by_cases hf : (s.seq h).state = .forcedSnift
  · rwa [abortCycle, if_pos hf]
  · exact (abortCycle_quiet s h hf).2.2.1

theorem enterStepHold_state : ((enterStepHold h s).seq h).state = .stepHold := by
  rw [enterStepHold, modSeq_seq]

theorem lives_beginEntries (es : List PhaseEntry) (s : State) : Lives h s (beginEntries h es s) := by
  induction es generalizing s with
  | nil => exact id
  | cons e es ih =>
    have start : Lives h s (startEntry h e (enterEntry h e s)).2 := fun hn => by
      rw [startEntry_state, enterEntry, modSeq_seq]
      exact hn
    have next : Lives h s
        (if holdsHere h (startEntry h e (enterEntry h e s)).2 then enterStepHold h (startEntry h e (enterEntry h e s)).2
        else beginEntries h es (startEntry h e (enterEntry h e s)).2) :=
      .ite (fun _ _ => by rw [enterStepHold_state]; decide) fun _ hn => ih _ (start hn)
    rw [beginEntries]
    split
    · exact start
    · exact next
    · exact .ite (fun _ => next) fun _ _ => by rw [abortCycle_state]; decide

theorem lives_goOn (s : State) : Lives h s (goOn h s) :=
  .ite (fun _ _ => by rw [enterStepHold_state]; decide) fun _ => lives_beginEntries _ s

theorem lives_failEntry (s : State) : Lives h s (failEntry h e s) :=
  .ite (fun _ => lives_goOn s) fun _ _ => by rw [abortCycle_state]; decide

/-! ### The end of a cycle (R107) -/

/-- What a cycle end makes of the sequencer, whatever the product valves. -/
theorem endCycle_seq (how : CycleEnd) :
    (endCycle how h s).seq h = Sequencer.ended how (freeState s) ((cycleRecorded how h s).seq h) := by
  obtain ⟨b, hb⟩ : ∃ b, b = cycleRecorded how h s := ⟨_, rfl⟩
  have ring : b.ring = s.ring := by rw [hb]; exact (cycleRecorded_work how).ring
  have cleared : (clearCycleItems h b).seq h =
      { b.seq h with
        entry := none, planIndex := 0, progress := .none, timer := none, sniftBegun := false, equalised := false } := by
    rw [clearCycleItems, clearEqualised_seq, modSeq_seq]
  have free : freeState (clearCycleItems h b) = freeState s := by
    rw [freeState_eq, freeState_eq, (work_clearCycleItems b h).ring, ring]
  have unfolded := endCycle_form (s := s) (h := h) how
  rw [← hb] at unfolded
  rw [unfolded, free, cleared, ← hb]
  by_cases hf : (b.seq h).faultPending = true ∨ how = .released ∨ how = .stuckOpen
  · rw [if_pos hf, enterFault, modSeq_seq, cleared]
    simp only [Sequencer.ended, if_pos hf]
  · rw [if_neg hf, modSeq_seq, cleared]
    simp only [Sequencer.ended, if_neg hf]

theorem freeState_ne_off : freeState s ≠ .off := by
  unfold freeState
  split <;> decide

theorem endCycle_state_ne_off (how : CycleEnd) : ((endCycle how h s).seq h).state ≠ .off := by
  rw [endCycle_seq]
  unfold Sequencer.ended
  dsimp only
  split
  · decide
  · exact freeState_ne_off

/-- SNIFT is closed behind a cycle end. -/
theorem endCycle_snift (how : CycleEnd) : ((endCycle how h s).valve h .snift).closed := by
  obtain ⟨b, hb⟩ : ∃ b, b = cycleRecorded how h s := ⟨_, rfl⟩
  have closed : ((clearCycleItems h b).valve h .snift).closed := by
    rw [clearCycleItems, clearEqualised_other (by decide), modSeq_valve, hb, cycleRecorded_valve]
    exact requestClose_closed s h .snift
  have unfolded := endCycle_form (s := s) (h := h) how
  rw [← hb] at unfolded
  rw [unfolded]
  split
  · rw [enterFault, modSeq_valve]
    exact closed
  · rw [modSeq_valve]
    exact closed

theorem work_endCycle_recorded (how : CycleEnd) : HeadWork h (cycleRecorded how h s) (endCycle how h s) := by
  obtain ⟨b, hb⟩ : ∃ b, b = cycleRecorded how h s := ⟨_, rfl⟩
  have unfolded := endCycle_form (s := s) (h := h) how
  rw [← hb] at unfolded
  rw [unfolded, ← hb]
  exact HeadWork.after (HeadWork.ite (fun _ => work_enterFault _ h) fun _ => work_modSeq _ h _ fun _ => rfl)
    (work_clearCycleItems b h)

end

/-! ### Work on head after head (R139, log 35) -/

section

variable {R : State → State → Prop} {f : HeadId → State → State}

/-- Each head takes the work as it stands, and what the relation `R` keeps is kept from before it to behind the last head. -/
theorem foldl_inTurn (refl : ∀ s, R s s) (trans : ∀ {s t u}, R s t → R t u → R s u) (hf : ∀ h s, R s (f h s))
    (others : ∀ h k s, k ≠ h → (f h s).head k = s.head k) (l : List HeadId) (hl : l.Nodup) (s : State) :
    R s (l.foldl (fun s h => f h s) s) ∧
      (∀ h ∈ l, ∃ u, u.head h = s.head h ∧ R s u ∧ (l.foldl (fun s h => f h s) s).head h = (f h u).head h ∧
        R (f h u) (l.foldl (fun s h => f h s) s)) ∧
      ∀ h, h ∉ l → (l.foldl (fun s h => f h s) s).head h = s.head h := by
  induction l generalizing s with
  | nil => exact ⟨refl s, fun h hh => absurd hh List.not_mem_nil, fun _ _ => rfl⟩
  | cons k l ih =>
    obtain ⟨fresh, nodup⟩ := List.nodup_cons.mp hl
    obtain ⟨work, inside, outside⟩ := ih nodup (f k s)
    have w := hf k s
    refine ⟨trans w work, fun h hh => ?_, fun h hh => ?_⟩
    · rcases List.mem_cons.mp hh with rfl | hh
      · exact ⟨s, rfl, refl s, outside h fresh, work⟩
      · obtain ⟨u, head, before, after, behind⟩ := inside h hh
        have hk : h ≠ k := fun e => fresh (e ▸ hh)
        exact ⟨u, head.trans (others k h s hk), trans w before, after, behind⟩
    · obtain ⟨hk, hl⟩ := not_or.mp (mt List.mem_cons.mpr hh)
      exact (outside h hl).trans (others k h s hk)

theorem forHeads_inTurn (refl : ∀ s, R s s) (trans : ∀ {s t u}, R s t → R t u → R s u) (hf : ∀ h s, R s (f h s))
    (others : ∀ h k s, k ≠ h → (f h s).head k = s.head k) (s : State) :
    R s (forHeads f s) ∧
      ∀ h, ∃ u, u.head h = s.head h ∧ R s u ∧ (forHeads f s).head h = (f h u).head h ∧ R (f h u) (forHeads f s) := by
  obtain ⟨work, inside, _⟩ := foldl_inTurn refl trans hf others allHeads (by decide) s
  exact ⟨work, fun h => inside h (mem_allHeads h)⟩

end

/-- What the reports of a conversion leave of the node. -/
structure NodeWork (s t : State) : Prop where
  scanner : t.scanner = s.scanner
  now : t.now = s.now
  ring : t.ring = s.ring
  scan : ∀ k, (t.head k).scan = (s.head k).scan
  forced : ∀ k, (t.head k).forced = (s.head k).forced
  records : ∃ l, t.orq.records = s.orq.records ++ l
  counters : ∀ c, c ≠ .recordsLost → c ≠ .bursts → t.counter c = s.counter c
  running : ∀ b, (s.trace.get b).state = .running → t.trace.get b = s.trace.get b
  linked : ∀ b, (s.trace.get b).link = true → t.trace.get b = s.trace.get b

section
variable {s t u : State} {h : HeadId}

theorem NodeWork.refl (s : State) : NodeWork s s :=
  ⟨rfl, rfl, rfl, fun _ => rfl, fun _ => rfl, ⟨[], (List.append_nil _).symm⟩, fun _ _ _ => rfl, fun _ _ => rfl, fun _ _ => rfl⟩

theorem NodeWork.trans (a : NodeWork s t) (b : NodeWork t u) : NodeWork s u := by
  refine ⟨b.scanner.trans a.scanner, b.now.trans a.now, b.ring.trans a.ring, fun k => (b.scan k).trans (a.scan k),
    fun k => (b.forced k).trans (a.forced k), ?_, fun c h1 h2 => (b.counters c h1 h2).trans (a.counters c h1 h2),
    fun x hx => ?_, fun x hx => ?_⟩
  · obtain ⟨l, hl⟩ := a.records
    obtain ⟨m, hm⟩ := b.records
    exact ⟨l ++ m, by rw [hm, hl, List.append_assoc]⟩
  · have same := a.running x hx
    exact (b.running x (by rw [same]; exact hx)).trans same
  · have same := a.linked x hx
    exact (b.linked x (by rw [same]; exact hx)).trans same

theorem HeadWork.forced (w : HeadWork h s t) (k : HeadId) : (t.head k).forced = (s.head k).forced := by
  by_cases hk : k = h
  · subst hk
    rw [w.own]
  · rw [w.others k hk]

theorem HeadWork.nodeWork (w : HeadWork h s t) : NodeWork s t :=
  ⟨w.scanner, w.now, w.ring, w.scan, w.forced, w.records, w.counters, w.running, w.linked⟩

/-- Work on heads in turn: each head takes it as it stands, whatever the heads before it have done. -/
theorem forHeads_heads {f : HeadId → State → State} (hf : ∀ h s, HeadWork h s (f h s)) (s : State) :
    NodeWork s (forHeads f s) ∧
      ∀ h, ∃ u, u.head h = s.head h ∧ NodeWork s u ∧ (forHeads f s).head h = (f h u).head h := by
  obtain ⟨work, heads⟩ := forHeads_inTurn NodeWork.refl NodeWork.trans (fun h s => (hf h s).nodeWork)
    (fun h k s hk => (hf h s).others k hk) s
  refine ⟨work, fun h => ?_⟩
  obtain ⟨u, head, before, taken, -⟩ := heads h
  exact ⟨u, head, before, taken⟩

end

/-! ### The judgement of a reading (R137 to R139) -/

theorem scaled_eq (offset gain : Nat) (r : BitVec 12) :
    scaled offset gain r = min 16000 (if r.toNat < offset then 0 else (r.toNat - offset) * gain / 4095) := by
  unfold scaled clampInt
  split
  · rename_i hr
    have : ((r.toNat : Int) - (offset : Int)) * (gain : Int) / (Config.fullScale : Int) ≤ 0 := by
      refine Int.ediv_nonpos_of_nonpos_of_neg ?_ (by decide)
      exact Int.mul_nonpos_of_nonpos_of_nonneg (by omega) (by omega)
    rw [max_eq_left ((min_le_right _ _).trans this)]
    rfl
  · rename_i hr
    have cast : ((r.toNat : Int) - (offset : Int)) * (gain : Int) / (Config.fullScale : Int) =
        (((r.toNat - offset) * gain / 4095 : Nat) : Int) := by
      push_cast [Nat.cast_sub (Nat.le_of_not_lt hr)]
      rfl
    rw [cast]
    generalize (r.toNat - offset) * gain / 4095 = n
    have : (Config.maxPressure : Int) = 16000 := rfl
    rw [this]
    omega

theorem isRail_iff (r : BitVec 12) : isRail r = true ↔ r = 0#12 ∨ r = 4095#12 := by
  simp [isRail]

section
variable {r : BitVec 12} {p : Nat} {x : ScanChannel}

theorem judgeReading_in (hf : x.fault = false) (hr : isRail r = false) :
    judgeReading r p x = ⟨{ x with raw := some r, runCount := 0, value := some p }, true, false⟩ := by
  simp only [judgeReading, hf, hr]

theorem judgeReading_rail (hf : x.fault = false) (hr : isRail r = true) :
    judgeReading r p x =
      if x.runCount = 0 then ⟨{ x with raw := some r, runCount := 1 }, false, false⟩
      else ⟨{ x with raw := some r, runCount := 0, fault := true }, false, true⟩ := by
  simp only [judgeReading, hf, hr]

theorem judgeReading_still (hf : x.fault = true) (hr : isRail r = true) :
    judgeReading r p x = ⟨{ x with raw := some r, runCount := 0 }, false, false⟩ := by
  simp only [judgeReading, hf, hr]

theorem judgeReading_back (hf : x.fault = true) (hr : isRail r = false) :
    judgeReading r p x =
      if x.runCount = 0 then ⟨{ x with raw := some r, runCount := 1 }, false, false⟩
      else ⟨{ x with raw := some r, runCount := 0, fault := false, value := some p }, true, false⟩ := by
  simp only [judgeReading, hf, hr]

/-- The cases of R139, by the fault that stood, the reading and the run. -/
theorem judgeReading_cases :
    x.fault = false ∧ isRail r = false ∧
        judgeReading r p x = ⟨{ x with raw := some r, runCount := 0, value := some p }, true, false⟩ ∨
      x.fault = false ∧ isRail r = true ∧ x.runCount = 0 ∧
        judgeReading r p x = ⟨{ x with raw := some r, runCount := 1 }, false, false⟩ ∨
      x.fault = false ∧ isRail r = true ∧ x.runCount ≠ 0 ∧
        judgeReading r p x = ⟨{ x with raw := some r, runCount := 0, fault := true }, false, true⟩ ∨
      x.fault = true ∧ isRail r = true ∧
        judgeReading r p x = ⟨{ x with raw := some r, runCount := 0 }, false, false⟩ ∨
      x.fault = true ∧ isRail r = false ∧ x.runCount = 0 ∧
        judgeReading r p x = ⟨{ x with raw := some r, runCount := 1 }, false, false⟩ ∨
      x.fault = true ∧ isRail r = false ∧ x.runCount ≠ 0 ∧
        judgeReading r p x = ⟨{ x with raw := some r, runCount := 0, fault := false, value := some p }, true, false⟩ := by
  rcases Bool.eq_false_or_eq_true x.fault with hf | hf
  · rcases Bool.eq_false_or_eq_true (isRail r) with hr | hr
    · exact .inr (.inr (.inr (.inl ⟨hf, hr, judgeReading_still hf hr⟩)))
    · by_cases hn : x.runCount = 0
      · exact .inr (.inr (.inr (.inr (.inl ⟨hf, hr, hn, (judgeReading_back hf hr).trans (if_pos hn)⟩))))
      · exact .inr (.inr (.inr (.inr (.inr ⟨hf, hr, hn, (judgeReading_back hf hr).trans (if_neg hn)⟩))))
  · rcases Bool.eq_false_or_eq_true (isRail r) with hr | hr
    · by_cases hn : x.runCount = 0
      · exact .inr (.inl ⟨hf, hr, hn, (judgeReading_rail hf hr).trans (if_pos hn)⟩)
      · exact .inr (.inr (.inl ⟨hf, hr, hn, (judgeReading_rail hf hr).trans (if_neg hn)⟩))
    · exact .inl ⟨hf, hr, judgeReading_in hf hr⟩

/-- R139: what a reading makes of its channel. -/
theorem judgeReading_chan :
    let y := (judgeReading r p x).chan
    let rail := r = 0#12 ∨ r = 4095#12
    y.raw = some r ∧
      (x.fault = false → ¬rail → y.value = some p ∧ y.fault = false ∧ y.runCount = 0) ∧
      (x.fault = false → rail → y.value = x.value ∧
        if x.runCount = 0 then y.fault = false ∧ y.runCount = 1 else y.fault = true ∧ y.runCount = 0) ∧
      (x.fault = true → rail → y.value = x.value ∧ y.fault = true ∧ y.runCount = 0) ∧
      (x.fault = true → ¬rail →
        if x.runCount = 0 then y.value = x.value ∧ y.fault = true ∧ y.runCount = 1
        else y.value = some p ∧ y.fault = false ∧ y.runCount = 0) := by
  simp only [← isRail_iff r]
  rcases judgeReading_cases (r := r) (p := p) (x := x) with
    ⟨hf, hr, e⟩ | ⟨hf, hr, hn, e⟩ | ⟨hf, hr, hn, e⟩ | ⟨hf, hr, e⟩ | ⟨hf, hr, hn, e⟩ | ⟨hf, hr, hn, e⟩
  all_goals simp [*]

/-- R139: a reading that sets the sensor fault. -/
theorem judgeReading_newFault :
    (judgeReading r p x).newFault = true ↔ x.fault = false ∧ (r = 0#12 ∨ r = 4095#12) ∧ x.runCount ≠ 0 := by
  rw [← isRail_iff]
  rcases judgeReading_cases (r := r) (p := p) (x := x) with
    ⟨hf, hr, e⟩ | ⟨hf, hr, hn, e⟩ | ⟨hf, hr, hn, e⟩ | ⟨hf, hr, e⟩ | ⟨hf, hr, hn, e⟩ | ⟨hf, hr, hn, e⟩
  all_goals simp [*]

/-- R140: a reading that is taken, with no fault left. -/
theorem judgeReading_sound (bowl : ScanChannel) :
    soundConversion (judgeReading r p x) bowl = true ↔
      ¬(r = 0#12 ∨ r = 4095#12) ∧ (x.fault = true → x.runCount ≠ 0) ∧ bowl.fault = false ∧ bowl.value ≠ none := by
  have bowls : bowl.value.isSome = true ↔ bowl.value ≠ none := Option.isSome_iff_ne_none
  rw [← isRail_iff]
  unfold soundConversion
  rcases judgeReading_cases (r := r) (p := p) (x := x) with
    ⟨hf, hr, e⟩ | ⟨hf, hr, hn, e⟩ | ⟨hf, hr, hn, e⟩ | ⟨hf, hr, e⟩ | ⟨hf, hr, hn, e⟩ | ⟨hf, hr, hn, e⟩
  all_goals simp [*]

end

/-! ### The report of a sensor fault (R95, R139, R140) -/

section
variable {s t : State} {h : HeadId} {e : PhaseEntry}

/-- A PRESSURISE entry is ACTIVE in a RUNNING cycle. -/
@[reducible] def State.breaks (s : State) (h : HeadId) : Prop :=
  (s.seq h).state = .running ∧ (s.seq h).progress = .active ∧ ∃ e, currentEntry h s = some e ∧ e.kind = .pressurise

theorem takeSensorFault_aside (hb : ¬s.breaks h) : takeSensorFault h s = s := by
  unfold takeSensorFault
  split
  · rfl
  · rename_i e he
    rw [if_neg fun ⟨hs, hp, hk⟩ => hb ⟨hs, hp, e, he, hk⟩]

theorem takeSensorFault_breaks (hb : s.breaks h) (hc : ∀ e, currentEntry h s = some e → e.continues = false) :
    takeSensorFault h s = abortCycle h (s.modSeq h fun q => { q with timer := none }) := by
  obtain ⟨hs, hp, e, he, hk⟩ := hb
  have abort (u : State) : failEntry h e u = abortCycle h u := if_neg (by rw [hc e he]; decide)
  unfold takeSensorFault
  rw [he]
  dsimp only
  rw [if_pos ⟨hs, hp, hk⟩, abort]

theorem lives_takeSensorFault (s : State) : Lives h s (takeSensorFault h s) := by
  unfold takeSensorFault
  split
  · exact id
  · exact .ite (fun _ hn => lives_failEntry _ (by rw [modSeq_seq]; exact hn)) fun _ => id

/-- The head is in its forced snift, as an abort ahead of the snift leaves it, with its flags as they were. -/
structure Snifts (h : HeadId) (s t : State) : Prop where
  state : (t.seq h).state = .forcedSnift
  flags : (t.seq h).flags = (s.seq h).flags
  progress : (t.seq h).progress = .active
  equalised : (t.seq h).equalised = false
  opened : (t.valve h .snift).request = true
  closed : ∀ v ∈ [ValveId.gas, .fast, .slow, .add], (t.valve h v).request = false ∧ (t.valve h v).output = false

theorem Aborted.snifts {q : Sequencer} (a : Aborted h q t) (hf : q.flags = (s.seq h).flags) : Snifts h s t :=
  ⟨a.state, a.flags.trans hf, a.progress, a.equalised, a.opened, a.closed⟩

theorem takeSensorFault_snifts (hb : s.breaks h) (hc : ∀ e, currentEntry h s = some e → e.continues = false)
    (hn : (s.seq h).sniftBegun = false) (hp : ∃ e ∈ headPlan h s, e.kind = .snift) : Snifts h s (takeSensorFault h s) := by
  obtain ⟨u, hu⟩ : ∃ u, u = s.modSeq h fun q => { q with timer := none } := ⟨_, rfl⟩
  have seq : u.seq h = { s.seq h with timer := none } := by rw [hu, modSeq_seq]
  have plan : headPlan h u = headPlan h s := by rw [hu, headPlan_modSeq]
  rw [takeSensorFault_breaks hb hc, ← hu]
  exact (abortCycle_aborted (s := u) (h := h) (by rw [seq]; exact hb.1) (by rw [seq]; exact hn) (by rw [plan]; exact hp)).1.snifts
    (by rw [seq])

/-! ### The report of a conversion (R95, R99, R102, R141) -/

theorem takeConversion_idle (sound : Bool)
    (hq : ((s.seq h).state ≠ .running ∧ (s.seq h).state ≠ .forcedSnift) ∨ currentEntry h s = none) :
    takeConversion h sound s = s := by
  unfold takeConversion
  dsimp only
  split
  · rename_i hs
    rw [hq.resolve_left (fun hn => hs.elim hn.1 hn.2)]
  · rfl

section
variable (sound : Bool) (hs : (s.seq h).state = .running ∨ (s.seq h).state = .forcedSnift) (he : currentEntry h s = some e)
include hs he

theorem takeConversion_purge (hk : e.kind = .purge) : takeConversion h sound s = s := by
  unfold takeConversion
  dsimp only
  rw [if_pos hs, he]
  dsimp only
  rw [hk]

theorem takeConversion_pressurise (hk : e.kind = .pressurise) :
    takeConversion h sound s =
      if (s.seq h).progress = .active then
        let met := sound && pressuriseMet e ((s.head h).scan.value.getD 0) (s.scanner.bowl.value.getD 0)
        let s' := s.modSeq h fun q => { q with condCount := bump met q.condCount }
        if holdsFor met (s.seq h).condCount e.debounce then goOn h (s'.modSeq h fun q => { q with equalised := true }) else s'
      else s := by
  unfold takeConversion
  dsimp only
  rw [if_pos hs, he]
  dsimp only
  rw [hk]

theorem takeConversion_snift (hk : e.kind = .snift) :
    takeConversion h sound s =
      if (s.seq h).progress = .active then
        let met := sound && sniftMet e ((s.head h).scan.value.getD 0)
        let s' := s.modSeq h fun q => { q with condCount := bump met q.condCount }
        if holdsFor met (s.seq h).condCount e.debounce then sniftSucceeds h e s' else s'
      else s := by
  unfold takeConversion
  dsimp only
  rw [if_pos hs, he]
  dsimp only
  rw [hk]

theorem takeConversion_burst (hk : e.kind ∈ [PhaseKind.additive, .fill, .rest]) :
    takeConversion h sound s = burstTest h sound ((s.head h).scan.value.getD 0) (s.scanner.bowl.value.getD 0) s := by
  simp only [List.mem_cons, List.not_mem_nil, or_false] at hk
  unfold takeConversion
  dsimp only
  rw [if_pos hs, he]
  dsimp only
  rcases hk with hk | hk | hk <;> rw [hk]

end

end

/-! ### The debounce counts (R141) -/

section
variable {s : State} {h : HeadId} {e : PhaseEntry} {sound : Bool}

/-- The outcome of one conversion for a debounce count. -/
theorem holdsFor_iff {met : Bool} {n needed : Nat} : holdsFor met n needed = true ↔ met = true ∧ needed ≤ n + 1 := by
  unfold holdsFor bump
  cases met <;> simp

section
variable (hs : (s.seq h).state = .running ∨ (s.seq h).state = .forcedSnift) (he : currentEntry h s = some e)
include hs he

/-- R95: a conversion at an ACTIVE PRESSURISE entry. -/
theorem pressurise_counts (hk : e.kind = .pressurise) (ha : (s.seq h).progress = .active) :
    let met := sound = true ∧ s.scanner.bowl.value.getD 0 - e.pressure ≤ (s.head h).scan.value.getD 0
    let t := takeConversion h sound s
    (¬met → t.seq h = { s.seq h with condCount := 0 }) ∧
      (met → (s.seq h).condCount + 1 < e.debounce → t.seq h = { s.seq h with condCount := (s.seq h).condCount + 1 }) ∧
      (met → e.debounce ≤ (s.seq h).condCount + 1 →
        t = goOn h (s.modSeq h fun q => { q with condCount := q.condCount + 1, equalised := true })) := by
  intro met t
  obtain ⟨b, hb⟩ : ∃ b, b = (sound && pressuriseMet e ((s.head h).scan.value.getD 0) (s.scanner.bowl.value.getD 0)) := ⟨_, rfl⟩
  have hmet : b = true ↔ met := by rw [hb, Bool.and_eq_true, pressuriseMet, decide_eq_true_eq]
  have taken : t = if holdsFor b (s.seq h).condCount e.debounce then
      goOn h ((s.modSeq h fun q => { q with condCount := bump b q.condCount }).modSeq h fun q => { q with equalised := true })
      else s.modSeq h fun q => { q with condCount := bump b q.condCount } := by
    rw [hb]
    exact (takeConversion_pressurise sound hs he hk).trans (if_pos ha)
  refine ⟨fun hn => ?_, fun hm hd => ?_, fun hm hd => ?_⟩
  · have hf : b = false := Bool.eq_false_iff.mpr fun h => hn (hmet.mp h)
    rw [taken, if_neg fun hx => hn (hmet.mp (holdsFor_iff.mp hx).1), modSeq_seq, hf]
    rfl
  · rw [taken, if_neg fun hx => absurd (holdsFor_iff.mp hx).2 (Nat.not_le.mpr hd), modSeq_seq, hmet.mpr hm]
    rfl
  · rw [taken, if_pos (holdsFor_iff.mpr ⟨hmet.mpr hm, hd⟩), modSeq_modSeq, hmet.mpr hm]
    rfl

/-- R99: a conversion at an ACTIVE SNIFT entry. -/
theorem snift_counts (hk : e.kind = .snift) (ha : (s.seq h).progress = .active) :
    let met := sound = true ∧ (s.head h).scan.value.getD 0 ≤ e.pressure
    let t := takeConversion h sound s
    (¬met → t.seq h = { s.seq h with condCount := 0 }) ∧
      (met → (s.seq h).condCount + 1 < e.debounce → t.seq h = { s.seq h with condCount := (s.seq h).condCount + 1 }) ∧
      (met → e.debounce ≤ (s.seq h).condCount + 1 →
        t = sniftSucceeds h e (s.modSeq h fun q => { q with condCount := q.condCount + 1 })) := by
  intro met t
  obtain ⟨b, hb⟩ : ∃ b, b = (sound && sniftMet e ((s.head h).scan.value.getD 0)) := ⟨_, rfl⟩
  have hmet : b = true ↔ met := by rw [hb, Bool.and_eq_true, sniftMet, decide_eq_true_eq]
  have taken : t = if holdsFor b (s.seq h).condCount e.debounce then
      sniftSucceeds h e (s.modSeq h fun q => { q with condCount := bump b q.condCount })
      else s.modSeq h fun q => { q with condCount := bump b q.condCount } := by
    rw [hb]
    exact (takeConversion_snift sound hs he hk).trans (if_pos ha)
  refine ⟨fun hn => ?_, fun hm hd => ?_, fun hm hd => ?_⟩
  · have hf : b = false := Bool.eq_false_iff.mpr fun h => hn (hmet.mp h)
    rw [taken, if_neg fun hx => hn (hmet.mp (holdsFor_iff.mp hx).1), modSeq_seq, hf]
    rfl
  · rw [taken, if_neg fun hx => absurd (holdsFor_iff.mp hx).2 (Nat.not_le.mpr hd), modSeq_seq, hmet.mpr hm]
    rfl
  · rw [taken, if_pos (holdsFor_iff.mpr ⟨hmet.mpr hm, hd⟩), hmet.mpr hm]
    rfl

/-- R102: a conversion at an entry that tests for a burst. -/
theorem burst_counts {c : CycleRecord} (hk : e.kind ∈ [PhaseKind.additive, .fill, .rest])
    (ha : (s.seq h).progress = .active ∨ (s.seq h).progress = .settling) (hc : (s.head h).cycle = some c) :
    let p := (s.head h).scan.value.getD 0
    let b := s.scanner.bowl.value.getD 0
    let met := sound = true ∧ (s.seq h).equalised = true ∧ p < b - c.recipe.burstDelta
    let t := takeConversion h sound s
    (¬met → t.seq h = { s.seq h with burstCount := 0 }) ∧
      (met → (s.seq h).burstCount + 1 < c.recipe.burstDebounce →
        t.seq h = { s.seq h with burstCount := (s.seq h).burstCount + 1 }) ∧
      (met → c.recipe.burstDebounce ≤ (s.seq h).burstCount + 1 →
        t = burstConfirmed h p b (s.modSeq h fun q => { q with burstCount := q.burstCount + 1 })) := by
  intro p b met t
  have field (f : Recipe → Nat) : cycleField h f s = f c.recipe := by rw [cycleField, hc]
  obtain ⟨y, hy⟩ : ∃ y, y = (sound && (s.seq h).equalised && burstMet c.recipe.burstDelta p b) := ⟨_, rfl⟩
  have hmet : y = true ↔ met := by rw [hy, Bool.and_eq_true, Bool.and_eq_true, burstMet, decide_eq_true_eq, and_assoc]
  have taken : t = if holdsFor y (s.seq h).burstCount c.recipe.burstDebounce then
      burstConfirmed h p b (s.modSeq h fun q => { q with burstCount := bump y q.burstCount })
      else s.modSeq h fun q => { q with burstCount := bump y q.burstCount } := by
    rw [hy]
    refine (takeConversion_burst sound hs he hk).trans ((if_pos ha).trans ?_)
    rw [field, field]
  refine ⟨fun hn => ?_, fun hm hd => ?_, fun hm hd => ?_⟩
  · have hf : y = false := Bool.eq_false_iff.mpr fun h => hn (hmet.mp h)
    rw [taken, if_neg fun hx => hn (hmet.mp (holdsFor_iff.mp hx).1), modSeq_seq, hf]
    rfl
  · rw [taken, if_neg fun hx => absurd (holdsFor_iff.mp hx).2 (Nat.not_le.mpr hd), modSeq_seq, hmet.mpr hm]
    rfl
  · rw [taken, if_pos (holdsFor_iff.mpr ⟨hmet.mpr hm, hd⟩), hmet.mpr hm]
    rfl

end

/-- R141: a conversion that is not sound changes a debounce count at most. -/
theorem takeConversion_unsound :
    ∃ c b, takeConversion h false s = s.modSeq h fun q => { q with condCount := c, burstCount := b } := by
  have same : s = s.modSeq h fun q => { q with condCount := (s.seq h).condCount, burstCount := (s.seq h).burstCount } :=
    (modSeq_self s h _ rfl).symm
  have counts (n : Nat) : (s.modSeq h fun q => { q with condCount := bump false q.condCount }) =
      s.modSeq h fun q => { q with condCount := 0, burstCount := (s.seq h).burstCount } := modSeq_congr rfl
  by_cases hs : (s.seq h).state = .running ∨ (s.seq h).state = .forcedSnift
  · cases he : currentEntry h s with
    | none => exact ⟨_, _, (takeConversion_idle false (.inr he)).trans same⟩
    | some e =>
      have burst : ∃ c b, burstTest h false ((s.head h).scan.value.getD 0) (s.scanner.bowl.value.getD 0) s =
          s.modSeq h fun q => { q with condCount := c, burstCount := b } := by
        unfold burstTest
        dsimp only
        split
        · refine ⟨(s.seq h).condCount, 0, (if_neg fun hx => ?_).trans (modSeq_congr rfl)⟩
          simpa using (holdsFor_iff.mp hx).1
        · exact ⟨_, _, same⟩
      cases hk : e.kind with
      | purge => exact ⟨_, _, (takeConversion_purge false hs he hk).trans same⟩
      | pressurise =>
        rw [takeConversion_pressurise false hs he hk]
        split
        · exact ⟨_, _, counts 0⟩
        · exact ⟨_, _, same⟩
      | snift =>
        rw [takeConversion_snift false hs he hk]
        split
        · exact ⟨_, _, counts 0⟩
        · exact ⟨_, _, same⟩
      | additive =>
        rw [takeConversion_burst false hs he (by rw [hk]; decide)]
        exact burst
      | fill =>
        rw [takeConversion_burst false hs he (by rw [hk]; decide)]
        exact burst
      | rest =>
        rw [takeConversion_burst false hs he (by rw [hk]; decide)]
        exact burst
  · exact ⟨_, _, (takeConversion_idle false (.inl (not_or.mp hs))).trans same⟩

theorem Snifts.modSeq {t : State} (n : Snifts h s t) (c b : Nat) :
    Snifts h s (t.modSeq h fun q => { q with condCount := c, burstCount := b }) := by
  refine ⟨?_, ?_, ?_, ?_, ?_, fun v hv => ?_⟩
  · rw [modSeq_seq]; exact n.state
  · rw [modSeq_seq]; exact n.flags
  · rw [modSeq_seq]; exact n.progress
  · rw [modSeq_seq]; exact n.equalised
  · rw [modSeq_valve]; exact n.opened
  · rw [modSeq_valve]; exact n.closed v hv

/-! ### A SNIFT entry that succeeds (R99) -/

theorem sniftSucceeds_holds (hl : (s.seq h).planIndex < (headPlan h s).length) (hh : 0 < e.hold) :
    let t := sniftSucceeds h e s
    (t.valve h .snift).closed ∧
      t.seq h = { s.seq h with progress := .holding, timer := some (s.now + 10000 * e.hold) } := by
  obtain ⟨a, ha⟩ : ∃ a, a = requestClose h .snift s := ⟨_, rfl⟩
  have w : HeadWork h s a := by rw [ha]; exact work_requestClose s h .snift
  have seq : a.seq h = s.seq h := by rw [ha, requestClose_seq]
  have form : sniftSucceeds h e s = a.modSeq h fun q => { q with progress := .holding, timer := some (a.now + msTicks e.hold) } := by
    unfold sniftSucceeds
    dsimp only
    rw [← ha, if_neg, if_neg (Nat.pos_iff_ne_zero.mp hh)]
    rw [atLastEntry, w.plan, seq]
    simpa using hl
  rw [form]
  dsimp only
  rw [modSeq_valve, modSeq_seq, w.now, seq, ha, msTicks, Nat.mul_comm]
  exact ⟨requestClose_closed s h .snift, rfl⟩

theorem sniftSucceeds_ends (hl : (headPlan h s).length ≤ (s.seq h).planIndex) :
    sniftSucceeds h e s = endCycle .sniftDone h (requestClose h .snift s) := by
  have w := work_requestClose s h .snift
  unfold sniftSucceeds
  dsimp only
  rw [if_pos]
  rw [atLastEntry, w.plan, requestClose_seq]
  simpa using hl

theorem lives_sniftSucceeds (s : State) : Lives h s (sniftSucceeds h e s) := by
  have close : Lives h s (requestClose h .snift s) := .of_state (by rw [requestClose_seq])
  exact .ite (fun _ _ => endCycle_state_ne_off _) fun _ => .ite (fun _ hn => lives_goOn _ (close hn)) fun _ hn => by
    rw [modSeq_seq]
    exact close hn

theorem lives_takeConversion (s : State) : Lives h s (takeConversion h sound s) := by
  by_cases hs : (s.seq h).state = .running ∨ (s.seq h).state = .forcedSnift
  · cases he : currentEntry h s with
    | none => exact .of_state (by rw [takeConversion_idle sound (.inr he)])
    | some e =>
      have counted (n m : Nat) : Lives h s (s.modSeq h fun q => { q with condCount := n }) := .of_state (by rw [modSeq_seq])
      have burst : Lives h s (burstTest h sound ((s.head h).scan.value.getD 0) (s.scanner.bowl.value.getD 0) s) := by
        refine .ite (fun _ => .ite (fun _ _ => ?_) fun _ => .of_state (by rw [modSeq_seq])) fun _ => id
        rw [burstConfirmed, abortCycle_state]
        decide
      cases hk : e.kind with
      | purge => exact .of_state (by rw [takeConversion_purge sound hs he hk])
      | pressurise =>
        rw [takeConversion_pressurise sound hs he hk]
        refine .ite (fun _ => .ite (fun _ hn => lives_goOn _ ?_) fun _ => .of_state (by rw [modSeq_seq])) fun _ => id
        rw [modSeq_seq, modSeq_seq]
        exact hn
      | snift =>
        rw [takeConversion_snift sound hs he hk]
        refine .ite (fun _ => .ite (fun _ hn => lives_sniftSucceeds _ ?_) fun _ => .of_state (by rw [modSeq_seq])) fun _ => id
        rw [modSeq_seq]
        exact hn
      | additive =>
        rw [takeConversion_burst sound hs he (by rw [hk]; decide)]
        exact burst
      | fill =>
        rw [takeConversion_burst sound hs he (by rw [hk]; decide)]
        exact burst
      | rest =>
        rw [takeConversion_burst sound hs he (by rw [hk]; decide)]
        exact burst
  · exact .of_state (by rw [takeConversion_idle sound (.inl (not_or.mp hs))])

/-! ### A cycle that ends well (R107) -/

theorem placeRecord_seq (r : Record) : (placeRecord h r s).seq h = { s.seq h with reserved := false } := by
  have freed : (s.modSeq h fun q => { q with reserved := false }).seq h = { s.seq h with reserved := false } := modSeq_seq s h _
  unfold placeRecord
  dsimp only
  split
  · rw [State.seq, State.head, enterUnreserved_heads]
    exact freed
  · exact freed

theorem recordFill_pending (b : Bool) : ((recordFill b h s).seq h).faultPending = (s.seq h).faultPending := by
  unfold recordFill
  split
  · rfl
  · dsimp only
    rw [State.seq, modHead_head, State.head, countFill_heads]
    exact (congrArg Sequencer.faultPending (placeRecord_seq (h := h) (s := s) _) :)

/-- What a SNIFT that holds leaves of the fault that is pending, and its FILL record. -/
theorem cycleRecorded_pending {how : CycleEnd} (hh : how ≠ .sniftFailed) :
    ((cycleRecorded how h s).seq h).faultPending = (s.seq h).faultPending := by
  have flags (a : State) : ((judgeFlags h a).seq h).faultPending = (a.seq h).faultPending := by
    unfold judgeFlags State.modFlags
    rw [modSeq_seq]
  rw [cycleRecorded, recordFill_pending, cycleJudged]
  rw [if_neg hh, flags, freezeBoth_seq, modSeq_seq, requestClose_seq]

theorem cycleRecorded_fill {how : CycleEnd} {c : CycleRecord} (hh : how ≠ .sniftFailed) (hc : (s.head h).cycle = some c)
    (hr : 0 < s.orq.reservations) :
    ∃ y ∈ (cycleRecorded how h s).orq.records, y.kind = .fill ∧ y.head = headByte h := by
  obtain ⟨a, ha⟩ : ∃ a, a = cycleJudged how h s := ⟨_, rfl⟩
  have judged : a = judgeFlags h (freezeBoth h ((requestClose h .snift s).modSeq h fun q => { q with timer := none })) := by
    rw [ha, cycleJudged]
    exact if_neg hh
  have orq : a.orq = s.orq := by
    rw [judged, (silent_judgeFlags _ h).orq, (silent_freezeBoth _ h).orq]
    exact (silent_requestClose s h .snift).orq
  have cycle : (a.head h).cycle = some c := by
    rw [judged, (work_judgeFlags _ h).cycle, (work_freezeBoth _ h).cycle,
      (work_modSeq _ h (fun q => { q with timer := none }) fun _ => rfl).cycle, (work_requestClose s h .snift).cycle, hc]
  have filled := (recordFill_filled (how == .stuckOpen) cycle (by rw [orq]; exact hr)).orq
  rw [cycleRecorded, ← ha, filled]
  refine ⟨_, List.mem_append_right _ (List.mem_singleton_self _), ?_⟩
  split
  · exact ⟨rfl, rfl⟩
  · exact ⟨rfl, rfl⟩

/-- R107: a cycle that ends with its SNIFT condition held. -/
structure SniftEnded (h : HeadId) (s t : State) : Prop where
  closed : (t.valve h .snift).closed
  entry : (t.seq h).entry = none
  planIndex : (t.seq h).planIndex = 0
  equalised : (t.seq h).equalised = false
  state : (t.seq h).state =
    if (s.seq h).faultPending = true then .fault
    else if s.ring.state = .locked ∨ s.ring.state = .holdover then .idle else .held
  record : 0 < s.orq.reservations → ∃ y ∈ t.orq.records, y.kind = .fill ∧ y.head = headByte h

theorem endCycle_sniftEnded {c : CycleRecord} (hc : (s.head h).cycle = some c) : SniftEnded h s (endCycle .sniftDone h s) := by
  have seq := endCycle_seq (s := s) (h := h) .sniftDone
  have pending := cycleRecorded_pending (s := s) (h := h) (how := .sniftDone) (by decide)
  refine ⟨endCycle_snift _, by rw [seq]; rfl, by rw [seq]; rfl, by rw [seq]; rfl, ?_, fun hr => ?_⟩
  · rw [seq, Sequencer.ended]
    dsimp only
    rw [pending, freeState_eq]
    simp
  · obtain ⟨y, hy, fill⟩ := cycleRecorded_fill (how := .sniftDone) (by decide) hc hr
    obtain ⟨l, hl⟩ := (work_endCycle_recorded (s := s) (h := h) .sniftDone).records
    exact ⟨y, by rw [hl]; exact List.mem_append_left _ hy, fill⟩

end

/-! ### An event that is announced: its alarm and its count (log 29) -/

section
variable {s : State} {h : HeadId} {c : CounterId}

/-- Where there is room, `r` joins the records of `s` first, unmarked. -/
@[reducible] def RecordedFirst (r : Record) (s t : State) : Prop :=
  s.orq.lost = false → s.orq.records.length + s.orq.reservations < 48 → ∃ l, t.orq.records = s.orq.records ++ r :: l

theorem RecordedFirst.append {r : Record} {t u : State} (a : RecordedFirst r s t)
    (b : ∃ l, u.orq.records = t.orq.records ++ l) : RecordedFirst r s u := by
  intro hl hr
  obtain ⟨l, hl⟩ := a hl hr
  obtain ⟨m, hm⟩ := b
  exact ⟨l ++ m, by rw [hm, hl]; simp⟩

theorem announced (hc : c ≠ .recordsLost) (hm : c ≠ .missingPitches) (code : AlarmCode) (head : Byte) (a b : Nat) :
    (countEvent c (raiseAlarm code head a b s)).counter c = s.counter c + 1#16 ∧
      RecordedFirst (alarmRecord code head a b s) s (countEvent c (raiseAlarm code head a b s)) := by
  refine ⟨by rw [countEvent_counter hc, raiseAlarm_counter _ _ _ _ hc], ?_⟩
  refine RecordedFirst.append (fun hl hr => ⟨[], ?_⟩) (event_countEvent _ c hm).records
  rw [raiseAlarm_room hr]
  show s.orq.records ++ [if s.orq.lost then _ else _] = _
  rw [hl]
  rfl

/-- R102: a confirmed burst. -/
theorem burstConfirmed_reports (p b : Nat) :
    let t := burstConfirmed h p b s
    t.counter .bursts = s.counter .bursts + 1#16 ∧ (t.seq h).faultPending = true ∧
      RecordedFirst (alarmRecord .burst (headByte h) p b s) s t ∧
      ((s.seq h).state = .running → (s.seq h).sniftBegun = false → (∃ e ∈ headPlan h s, e.kind = .snift) → Snifts h s t) := by
  obtain ⟨x, hx⟩ : ∃ x, x = closeProducts h s := ⟨_, rfl⟩
  obtain ⟨y, hy⟩ : ∃ y, y = countEvent .bursts (raiseAlarm .burst (headByte h) p b x) := ⟨_, rfl⟩
  obtain ⟨u, hu⟩ : ∃ u, u = y.modSeq h fun q => { q with faultPending := true } := ⟨_, rfl⟩
  have quiet : Silent s x := by rw [hx]; exact silent_closeProducts s h
  have work : HeadWork h s x := by rw [hx]; exact work_closeProducts s h
  have alarm : alarmRecord .burst (headByte h) p b x = alarmRecord .burst (headByte h) p b s := by
    rw [alarmRecord, alarmRecord, alarmSerial_eq, alarmSerial_eq, work.pitch]
  obtain ⟨count, recorded⟩ := announced (s := x) (c := .bursts) (by decide) (by decide) .burst (headByte h) p b
  rw [← hy] at count recorded
  rw [RecordedFirst, alarm, quiet.orq] at recorded
  rw [State.counter, State.counter, quiet.counters] at count
  have yhead : y.head h = x.head h := by rw [hy, countEvent_head, raiseAlarm_head]
  have seq : u.seq h = { s.seq h with faultPending := true } := by
    rw [hu, modSeq_seq, State.seq, yhead]
    show { x.seq h with faultPending := true } = _
    rw [hx, closeProducts_seq]
  have plan : headPlan h u = headPlan h s := by
    rw [hu, headPlan_modSeq, headPlan, yhead]
    exact work.plan
  have counters : u.counters = y.counters := by rw [hu]; rfl
  have orq : u.orq = y.orq := by rw [hu]; rfl
  have form : burstConfirmed h p b s = abortCycle h u := by rw [burstConfirmed, hu, hy, hx]
  intro t
  have ht : t = abortCycle h u := form
  have aborted : Silent u t ∧ (t.seq h).faultPending = (u.seq h).faultPending := by
    by_cases hf : (u.seq h).state = .forcedSnift
    · have still : t = u := by rw [ht, abortCycle, if_pos hf]
      rw [still]
      exact ⟨Silent.refl u, rfl⟩
    · obtain ⟨silent, -, -, pending⟩ := abortCycle_quiet u h hf
      rw [ht]
      exact ⟨silent, pending⟩
  obtain ⟨silent, pending⟩ := aborted
  refine ⟨?_, by rw [pending, seq], fun hl hr => ?_, fun hr hb hp => ?_⟩
  · rw [State.counter, silent.counters, counters]
    exact count
  · rw [silent.orq, orq]
    exact recorded hl hr
  · rw [ht]
    exact (abortCycle_aborted (s := u) (h := h) (by rw [seq]; exact hr) (by rw [seq]; exact hb) (by rw [plan]; exact hp)).1.snifts
      (by rw [seq])

end

/-! ### The next conversion (R134) -/

section
variable {s t : State}

/-- Only the scanner differs, and not its bowl channel. -/
theorem startNext_scanner (s : State) :
    startNext s = { s with scanner := (startNext s).scanner } ∧ (startNext s).scanner.bowl = s.scanner.bowl := by
  unfold startNext
  split
  · exact ⟨rfl, rfl⟩
  · exact ⟨rfl, rfl⟩

/-- What follows a conversion, seen from a state with the same scanner whose heads in service are the same. -/
theorem startNext_follows (hp : t.scanner.pointer = s.scanner.pointer) (hq : t.scanner.request = s.scanner.request)
    (hl : ∀ h, (t.seq h).state = .off ↔ (s.seq h).state = .off) :
    let x := (startNext t).scanner
    x.conversion.started = some t.now ∧ x.request = false ∧
      (s.scanner.request = true →
        x.conversion.channel = .bowl ∧ x.conversion.byRequest = true ∧ x.pointer = s.scanner.pointer) ∧
      (s.scanner.request = false →
        let c := x.conversion.channel
        let ahead := ScanId.ahead s.scanner.pointer
        x.conversion.byRequest = false ∧ x.pointer = c ∧
          (c = .bowl ∨ ∃ h : HeadId, c = .head h ∧ (s.seq h).state ≠ .off) ∧ ahead c ≤ ahead .bowl ∧
          ∀ h : HeadId, (s.seq h).state ≠ .off → ahead c ≤ ahead (.head h)) := by
  cases hr : s.scanner.request with
  | true =>
    have form : (startNext t).scanner = { t.scanner with conversion := ⟨.bowl, true, some t.now⟩, request := false } := by
      rw [startNext, if_pos (hq.trans hr)]
    rw [form]
    exact ⟨rfl, rfl, fun _ => ⟨rfl, rfl, hp⟩, fun h => absurd h (by decide)⟩
  | false =>
    have form : (startNext t).scanner =
        { t.scanner with conversion := ⟨nextChannel t, false, some t.now⟩, pointer := nextChannel t } := by
      rw [startNext, if_neg (by simp [hq, hr])]
    obtain ⟨enabled, first⟩ := nextChannel_first t
    rw [hp] at first
    rw [form]
    refine ⟨rfl, hq.trans hr, fun h => absurd h (by decide), fun _ => ⟨rfl, rfl, ?_, first .bowl rfl, fun h hh => ?_⟩⟩
    · dsimp only
      cases hc : nextChannel t with
      | bowl => exact .inl rfl
      | head h =>
        rw [hc] at enabled
        exact .inr ⟨h, rfl, fun e => of_decide_eq_true enabled ((hl h).mpr e)⟩
    · exact first (.head h) (decide_eq_true fun e => hh ((hl h).mp e))

end

/-! ### A tick of the traces (R167, R168) -/

section
variable {s : State} {c : ScanId} {d : Descriptor}

theorem takes_iff : d.takes c = true ↔
    d.state = .running ∧ c = if d.signal = .bowlPressure then ScanId.bowl else .head d.head := by
  rw [Descriptor.takes, Bool.and_eq_true, decide_eq_true_eq]
  cases d.signal <;> simp

theorem tick_waits {x : Half} (ht : d.ticks + 1 < d.divider) : d.tick x = { d with ticks := d.ticks + 1 } :=
  if_neg (Nat.not_le.mpr ht)

theorem tick_stores {x : Half} (k : Fin 512) (ht : d.divider ≤ d.ticks + 1) (hk : d.samples = k.val) :
    d.tick x =
      { d with
        ticks := 0
        buffer := d.buffer.set k.val x k.isLt
        samples := d.samples + 1
        state := if d.length ≤ d.samples + 1 then .done else .running } := by
  rw [Descriptor.tick, if_pos ht, storeSample]
  simp only [hk, k.isLt, dif_pos]

theorem tick_state {x : Half} (hd : d.state = .running) : (d.tick x).state ≠ .armed := by
  unfold Descriptor.tick
  split
  · dsimp only
    split
    · decide
    · decide
  · rw [hd]
    decide

/-- A descriptor that runs takes the tick by its own rule. -/
theorem traceTick_running (isB : Bool) (hd : (s.trace.get isB).state = .running) :
    (traceTick c s).trace.get isB =
      if (s.trace.get isB).takes c then (s.trace.get isB).tick (sampleOf (s.trace.get isB) s) else s.trace.get isB := by
  cases isB with
  | false => rfl
  | true =>
    have still : (if s.trace.b.takes c then s.trace.b.tick (sampleOf s.trace.b s) else s.trace.b).state ≠ .armed := by
      split
      · exact tick_state hd
      · rw [show s.trace.b.state = .running from hd]
        decide
    show (traceTick c s).trace.b = if s.trace.b.takes c then s.trace.b.tick (sampleOf s.trace.b s) else s.trace.b
    unfold traceTick
    dsimp only
    refine if_neg fun completed => still ?_
    rw [Bool.and_eq_true, Bool.and_eq_true] at completed
    exact of_decide_eq_true completed.1.2

/-- A linked B that waits starts when A completes. -/
theorem traceTick_linked (hs : s.trace.b.state = .armed) (hl : s.trace.b.link = true) (ht : s.trace.a.takes c = true)
    (hd : s.trace.a.divider ≤ s.trace.a.ticks + 1) (hn : s.trace.a.length ≤ s.trace.a.samples + 1) :
    (traceTick c s).trace.b = s.trace.b.start := by
  have waits : s.trace.b.takes c = false := by
    rw [Descriptor.takes, hs]
    rfl
  have done : (s.trace.a.tick (sampleOf s.trace.a s)).state = .done := by
    rw [Descriptor.tick, if_pos hd]
    exact if_pos hn
  unfold traceTick
  simp [ht, waits, done, hs, hl]

/-- Only the traces differ. -/
theorem traceTick_trace (c : ScanId) (s : State) : traceTick c s = { s with trace := (traceTick c s).trace } := rfl

end

/-! ### The conversion of a head (R137 to R142) -/

section
variable {s t u b : State} {h : HeadId} {raw : BitVec 12} {e : PhaseEntry}

/-- The judgement of a reading stands in its channel, and one forced reading is used. -/
def State.scanned (s : State) (h : HeadId) (raw : BitVec 12) : State :=
  s.modHead h fun x => { x with scan := (judgedHead h raw s).chan, forced := x.forced - 1 }

/-- A sensor fault that the reading sets is announced and reported. -/
def State.reported (s : State) (h : HeadId) (raw : BitVec 12) : State :=
  if (judgedHead h raw s).newFault then
    takeSensorFault h
      (announceSensorFault .sensorFault (headByte h) (judgedHead h raw s).chan (headReading h raw s) (s.scanned h raw))
  else s.scanned h raw

theorem completeHead_eq :
    completeHead h raw s =
      traceTick (.head h) (takeConversion h (soundConversion (judgedHead h raw s) s.scanner.bowl) (s.reported h raw)) := rfl

theorem scanned_head :
    (s.scanned h raw).head h =
      { s.head h with scan := (judgedHead h raw s).chan, forced := (s.head h).forced - 1 } := modHead_head s h _

/-- What stands behind the judgement of a head's reading, whatever work of that head follows it. -/
structure Scanned (h : HeadId) (raw : BitVec 12) (s t : State) : Prop where
  others : ∀ k, k ≠ h → t.head k = s.head k
  scan : (t.head h).scan = (judgedHead h raw s).chan
  forced : (t.head h).forced = (s.head h).forced - 1
  cycle : (t.head h).cycle = (s.head h).cycle
  scanner : t.scanner = s.scanner
  now : t.now = s.now
  running : ∀ b, (s.trace.get b).state = .running → t.trace.get b = s.trace.get b
  linked : ∀ b, (s.trace.get b).link = true → t.trace.get b = s.trace.get b

theorem Scanned.after (w : HeadWork h t u) (a : Scanned h raw s t) : Scanned h raw s u := by
  refine ⟨fun k hk => (w.others k hk).trans (a.others k hk), (w.scan h).trans a.scan, (w.forced h).trans a.forced,
    (w.cycle h).trans a.cycle, w.scanner.trans a.scanner, w.now.trans a.now, fun x hx => ?_, fun x hx => ?_⟩
  · have same := a.running x hx
    exact (w.running x (by rw [same]; exact hx)).trans same
  · have same := a.linked x hx
    exact (w.linked x (by rw [same]; exact hx)).trans same

theorem scanned_scanned : Scanned h raw s (s.scanned h raw) :=
  ⟨fun k hk => modHead_head_ne s h k _ hk, by rw [scanned_head], by rw [scanned_head], by rw [scanned_head], rfl, rfl,
    fun _ _ => rfl, fun _ _ => rfl⟩

theorem booked_announceSensorFault (code : AlarmCode) (head : Byte) (x : ScanChannel) (r : BitVec 12) (s : State) :
    Booked s (announceSensorFault code head x r s) := (booked_countEvent _ _).after (booked_enterUnreserved s _)

theorem Scanned.booked (b : Booked t u) (a : Scanned h raw s t) : Scanned h raw s u := by
  rw [b]
  exact ⟨a.others, a.scan, a.forced, a.cycle, a.scanner, a.now, a.running, a.linked⟩

theorem scanned_reported : Scanned h raw s (s.reported h raw) := by
  unfold State.reported
  split
  · exact ((scanned_scanned).booked (booked_announceSensorFault _ _ _ _ _)).after (work_takeSensorFault _ h)
  · exact scanned_scanned

theorem reported_plain (hn : (judgedHead h raw s).newFault = false) : s.reported h raw = s.scanned h raw :=
  if_neg (by rw [hn]; decide)

/-- A head whose PRESSURISE entry is not ACTIVE takes no notice of a sensor fault. -/
theorem reported_aside (hb : ¬s.breaks h) : (s.reported h raw).head h = (s.scanned h raw).head h := by
  unfold State.reported
  split
  · obtain ⟨y, hy⟩ : ∃ y, y = announceSensorFault .sensorFault (headByte h) (judgedHead h raw s).chan (headReading h raw s)
        (s.scanned h raw) := ⟨_, rfl⟩
    have yhead : y.head h = (s.scanned h raw).head h := by
      rw [State.head, State.head, hy, (booked_announceSensorFault _ _ _ _ _).heads]
    have seq : y.seq h = s.seq h := by rw [State.seq, yhead, scanned_head]; rfl
    have entry : currentEntry h y = currentEntry h s := by
      rw [currentEntry, currentEntry, seq, headPlan, headPlan, yhead, scanned_head]
    rw [← hy, takeSensorFault_aside, yhead]
    rw [State.breaks, seq, entry]
    exact hb
  · rfl

/-- A sensor fault that the reading of a head sets. -/
theorem reported_new (hn : (judgedHead h raw s).newFault = true) :
    let t := s.reported h raw
    t.counter .sensorFaults = s.counter .sensorFaults + 1#16 ∧
      RecordedFirst (alarmRecord .sensorFault (headByte h) (headReading h raw s).toNat ((s.head h).scan.value.getD 0) s) s t ∧
      (s.breaks h → (∀ e, currentEntry h s = some e → e.continues = false) → (s.seq h).sniftBegun = false →
        (∃ e ∈ headPlan h s, e.kind = .snift) → Snifts h s t) := by
  obtain ⟨x, hx⟩ : ∃ x, x = s.scanned h raw := ⟨_, rfl⟩
  obtain ⟨y, hy⟩ : ∃ y, y = announceSensorFault .sensorFault (headByte h) (judgedHead h raw s).chan (headReading h raw s) x :=
    ⟨_, rfl⟩
  have form : s.reported h raw = takeSensorFault h y := by rw [State.reported, if_pos hn, hy, hx]
  have xhead : x.head h = { s.head h with scan := (judgedHead h raw s).chan, forced := (s.head h).forced - 1 } := by
    rw [hx]; exact scanned_head
  have yhead : y.head h = x.head h := by rw [State.head, State.head, hy, (booked_announceSensorFault _ _ _ _ _).heads]
  have seq : y.seq h = s.seq h := by rw [State.seq, yhead, xhead]; rfl
  have plan : headPlan h y = headPlan h s := by rw [headPlan, headPlan, yhead, xhead]
  have entry : currentEntry h y = currentEntry h s := by rw [currentEntry, currentEntry, seq, plan]
  have w := work_takeSensorFault y h
  obtain ⟨fault, rail, -⟩ := judgeReading_newFault.mp hn
  have value : (judgedHead h raw s).chan.value = (s.head h).scan.value :=
    ((judgeReading_chan (p := scaled (s.head h).table.offset (s.head h).table.gain (headReading h raw s))).2.2.1 fault rail).1
  obtain ⟨count, recorded⟩ := announced (s := x) (c := .sensorFaults) (by decide) (by decide) .sensorFault (headByte h)
    (headReading h raw s).toNat ((s.head h).scan.value.getD 0)
  have shape : y = countEvent .sensorFaults (raiseAlarm .sensorFault (headByte h) (headReading h raw s).toNat
      ((s.head h).scan.value.getD 0) x) := by
    rw [hy, announceSensorFault, value]
  rw [← shape] at count recorded
  rw [hx] at count recorded
  intro t
  have ht : t = takeSensorFault h y := form
  refine ⟨?_, ?_, fun hb hc hq hp => ?_⟩
  · rw [ht, w.counters .sensorFaults (by decide) (by decide)]
    exact count
  · rw [ht]
    exact RecordedFirst.append recorded w.records
  · rw [ht]
    have snifts := takeSensorFault_snifts (s := y) (h := h) (by rw [State.breaks, seq, entry]; exact hb)
      (by rw [entry]; exact hc) (by rw [seq]; exact hq) (by rw [plan]; exact hp)
    exact { snifts with flags := snifts.flags.trans (by rw [seq]) }

/-- A reading that sets the sensor fault is not sound (R140). -/
theorem sound_newFault (hs : soundConversion (judgedHead h raw s) s.scanner.bowl = true) :
    (judgedHead h raw s).newFault = false := by
  rw [Bool.eq_false_iff]
  intro hn
  exact ((judgeReading_sound _).mp hs).1 (judgeReading_newFault.mp hn).2.1

/-! ### The cycle goes on behind PRESSURISE, or ends behind SNIFT -/

theorem goOn_rest {c : CycleRecord} (hn : Comes s h c e) (hk : e.kind = .rest) :
    (goOn h s).seq h = (s.seq h).begin e s.now := by
  rw [hn.rest hk, closeProducts_seq, (plumbing_requestOpen _ h .gas).seq, entered_seq]

theorem goOn_fill {c : CycleRecord} (hn : Comes s h c e) (hk : e.kind = .fill)
    (hd : (s.head h).table.learned.main < c.recipe.vMain) (hq : (s.seq h).equalised = true)
    (hr : (s.valve h .slow).request = false) (ho : (s.valve h .snift).output = false) :
    ((goOn h s).seq h).equalised = true ∧ ((goOn h s).valve h .slow).output = true := by
  obtain ⟨-, seq, slow, -⟩ := hn.fillDoses hk hd
  refine ⟨by rw [seq]; exact hq, ?_⟩
  rw [slow, State.dosed, if_pos ⟨hq, ho⟩, State.opened, if_neg (by simp [hr])]
  exact driven_output _

end

/-! ### The traces behind a conversion -/

section
variable {s u : State} {c : ScanId}

/-- R167, R168: what a tick leaves of a descriptor that work before it has kept; `n` is the value of its signal. -/
theorem traceTick_follows (isB : Bool) (hr : ∀ b, (s.trace.get b).state = .running → u.trace.get b = s.trace.get b)
    (hl : ∀ b, (s.trace.get b).link = true → u.trace.get b = s.trace.get b) (n : Nat)
    (hn : sampleOf (s.trace.get isB) u = BitVec.ofNat 16 n) :
    let d := s.trace.get isB
    let t := (traceTick c u).trace.get isB
    let place := fun y : Descriptor => if y.signal = .bowlPressure then ScanId.bowl else .head y.head
    let takes := fun y : Descriptor => y.state = .running ∧ c = place y
    let a := s.trace.a
    (d.state = .running → c ≠ place d → t = d) ∧
      (takes d → d.ticks + 1 < d.divider → t = { d with ticks := d.ticks + 1 }) ∧
      (∀ k : Fin 512, takes d → d.divider ≤ d.ticks + 1 → d.samples = k.val → t =
        { d with
          ticks := 0
          buffer := d.buffer.set k.val (BitVec.ofNat 16 n) k.isLt
          samples := d.samples + 1
          state := if d.length ≤ d.samples + 1 then .done else .running }) ∧
      (isB = true → d.state = .armed → d.link = true → takes a → a.divider ≤ a.ticks + 1 → a.length ≤ a.samples + 1 →
        t = { d with state := .running, ticks := 0, samples := 0 }) := by
  intro d t place takes a
  have ticked (hd : d.state = .running) : t = if d.takes c then d.tick (sampleOf d u) else d := by
    have same : u.trace.get isB = d := hr isB hd
    have := traceTick_running (s := u) (c := c) isB (by rw [same]; exact hd)
    rwa [same] at this
  refine ⟨fun hd hc => ?_, fun hd ht => ?_, fun k hd ht hk => ?_, fun hb hd hk ha ht hs => ?_⟩
  · rw [ticked hd, if_neg fun hx => hc (takes_iff.mp hx).2]
  · rw [ticked hd.1, if_pos (takes_iff.mpr hd), tick_waits ht]
  · rw [ticked hd.1, if_pos (takes_iff.mpr hd), hn, tick_stores k ht hk]
  · subst hb
    have sameB : u.trace.b = d := hl true hk
    have sameA : u.trace.a = a := hr false ha.1
    have started := traceTick_linked (s := u) (c := c) (by rw [sameB]; exact hd) (by rw [sameB]; exact hk)
      (by rw [sameA]; exact takes_iff.mpr ha) (by rw [sameA]; exact ht) (by rw [sameA]; exact hs)
    rw [sameB] at started
    exact started

end

/-! ### The statement -/

/-- R167: the value of a descriptor's signal. -/
theorem sampleOf_signal (d : Descriptor) (t : State) :
    sampleOf d t = BitVec.ofNat 16
      (match d.signal with
        | .mainRate => (t.chan d.head .main).standingRate
        | .addRate => (t.chan d.head .additive).standingRate
        | .headPressure => (t.head d.head).scan.value.getD 0
        | .bowlPressure => t.scanner.bowl.value.getD 0) := by
  unfold sampleOf
  cases d.signal <;> rfl

/-! ### A head's conversion reaches its cycle -/

section
variable {s b : State} {h : HeadId} {raw : BitVec 12} {e : PhaseEntry} {c : CycleRecord}

/-- The cycle's part of a head's conversion. -/
def State.converted (s : State) (h : HeadId) (raw : BitVec 12) : State :=
  takeConversion h (soundConversion (judgedHead h raw s) s.scanner.bowl) (s.reported h raw)

/-- The reading is sound (R140), as the statement puts it. -/
@[reducible] def State.soundly (s : State) (h : HeadId) (raw : BitVec 12) : Prop :=
  soundConversion (judgedHead h raw s) s.scanner.bowl = true

theorem scanned_converted : Scanned h raw s (s.converted h raw) := scanned_reported.after (work_takeConversion _ h _)

theorem same_cycle (hb : b.head h = (s.scanned h raw).head h) :
    b.seq h = s.seq h ∧ headPlan h b = headPlan h s ∧ currentEntry h b = currentEntry h s ∧
      (∀ v, b.valve h v = s.valve h v) ∧ (b.head h).table = (s.head h).table ∧
      (b.head h).scan.value = (judgedHead h raw s).chan.value := by
  rw [scanned_head] at hb
  have seq : b.seq h = s.seq h := by rw [State.seq, hb]; rfl
  have plan : headPlan h b = headPlan h s := by rw [headPlan, headPlan, hb]
  exact ⟨seq, plan, by rw [currentEntry, currentEntry, seq, plan], fun v => by rw [State.valve, hb]; rfl, by rw [hb], by rw [hb]⟩

theorem aside_of_kind (he : currentEntry h s = some e) (hk : e.kind ≠ .pressurise) : ¬s.breaks h := by
  rintro ⟨-, -, x, hx, kind⟩
  rw [he, Option.some.injEq] at hx
  exact hk (hx ▸ kind)

theorem converted_idle (hq : ((s.seq h).state ≠ .running ∧ (s.seq h).state ≠ .forcedSnift) ∨ currentEntry h s = none) :
    (s.converted h raw).seq h = s.seq h := by
  have aside : ¬s.breaks h := fun ⟨hs, _, e, he, _⟩ =>
    hq.elim (fun hn => hn.1 hs) fun hn => absurd (hn.symm.trans he) (Option.some_ne_none e).symm
  obtain ⟨seq, -, entry, -⟩ := same_cycle (reported_aside (raw := raw) aside)
  rw [State.converted, takeConversion_idle _ (by rw [seq, entry]; exact hq), seq]

section
variable (hs : (s.seq h).state = .running ∨ (s.seq h).state = .forcedSnift) (he : currentEntry h s = some e)
include hs he

theorem converted_purge (hk : e.kind = .purge) : (s.converted h raw).seq h = s.seq h := by
  obtain ⟨seq, -, entry, -⟩ := same_cycle (reported_aside (raw := raw) (aside_of_kind he (by rw [hk]; decide)))
  rw [State.converted, takeConversion_purge _ (by rw [seq]; exact hs) (entry.trans he) hk, seq]

/-- R95: where the condition has held, the flag is set and the cycle goes on, or holds. -/
theorem converted_pressurise (hk : e.kind = .pressurise) (ha : (s.seq h).progress = .active)
    (hn : (judgedHead h raw s).newFault = false) :
    let q := s.seq h
    let t := s.converted h raw
    let met := s.soundly h raw ∧ s.scanner.bowl.value.getD 0 - e.pressure ≤ (judgedHead h raw s).chan.value.getD 0
    (¬met → t.seq h = { q with condCount := 0 }) ∧
      (met → q.condCount + 1 < e.debounce → t.seq h = { q with condCount := q.condCount + 1 }) ∧
      (met → e.debounce ≤ q.condCount + 1 →
        (q.stepMode = true → q.state = .running → t.seq h =
          { q with equalised := true, condCount := q.condCount + 1, state := .stepHold, progress := .none, timer := none }) ∧
        ∀ n : PhaseEntry, (q.stepMode = false ∨ q.state ≠ .running) → (headPlan h s)[q.planIndex]? = some n →
          (n.kind = .rest → (t.seq h).equalised = true ∧ (t.seq h).planIndex = q.planIndex + 1 ∧
            (t.seq h).progress = .active ∧ (t.seq h).timer = some (s.now + 10000 * n.timeLimit)) ∧
          (n.kind = .fill →
            (s.head h).table.learned.main < (s.head h).cycle.elim 0 (fun c => c.recipe.vMain) →
            (s.valve h .slow).request = false → (s.valve h .snift).output = false →
            (t.seq h).equalised = true ∧ (t.valve h .slow).output = true)) := by
  have base := reported_plain hn
  have scan := scanned_reported (s := s) (h := h) (raw := raw)
  obtain ⟨seq, plan, entry, valve, table, value⟩ := same_cycle (raw := raw) (s := s) (h := h) (congrArg (State.head · h) base)
  obtain ⟨u, hu⟩ : ∃ u, u = s.reported h raw := ⟨_, rfl⟩
  rw [← hu] at scan seq plan entry valve table value
  obtain ⟨unmet, counted, held⟩ := pressurise_counts (s := u) (h := h)
    (sound := soundConversion (judgedHead h raw s) s.scanner.bowl) (by rw [seq]; exact hs) (entry.trans he) hk (by rw [seq]; exact ha)
  rw [value, scan.scanner, seq] at unmet counted held
  have form : s.converted h raw = takeConversion h (soundConversion (judgedHead h raw s) s.scanner.bowl) u := by
    rw [State.converted, hu]
  rw [← form] at unmet counted held
  refine ⟨unmet, counted, fun hm hd => ?_⟩
  obtain ⟨w, hw⟩ : ∃ w, w = u.modSeq h fun q => { q with condCount := q.condCount + 1, equalised := true } := ⟨_, rfl⟩
  have wseq : w.seq h = { s.seq h with condCount := (s.seq h).condCount + 1, equalised := true } := by rw [hw, modSeq_seq, seq]
  have whead : (w.head h).cycle = (s.head h).cycle ∧ (w.head h).table = (s.head h).table := by
    rw [hw, State.modSeq, modHead_head]
    exact ⟨scan.cycle, table⟩
  have wvalve (v : ValveId) : w.valve h v = s.valve h v := by rw [hw, modSeq_valve, valve]
  have went : s.converted h raw = goOn h w := by rw [hw]; exact held hm hd
  rw [went]
  refine ⟨fun hstep hrun => ?_, fun n hstep hnext => ?_⟩
  · rw [goOn_holds (by rw [wseq]; exact hstep) (by rw [wseq]; exact hrun), modSeq_seq, wseq]
  · obtain ⟨c, hc, hcn⟩ := headPlan_some hnext
    have comes : Comes w h c n := ⟨by rw [wseq]; exact hstep, whead.1.trans hc, by rw [wseq]; exact hcn⟩
    refine ⟨fun hr => ?_, fun hf hd hreq hout => ?_⟩
    · rw [goOn_rest comes hr, wseq, show w.now = s.now from (congrArg State.now hw).trans scan.now]
      exact ⟨rfl, rfl, rfl, rfl⟩
    · rw [hc] at hd
      exact goOn_fill comes hf (by rw [whead.2]; exact hd) (by rw [wseq]) (by rw [wvalve]; exact hreq) (by rw [wvalve]; exact hout)

/-- R99, R107: where the condition has held, SNIFT closes and the hold or the cycle end follows. -/
theorem converted_snift (hk : e.kind = .snift) (ha : (s.seq h).progress = .active) :
    let q := s.seq h
    let t := s.converted h raw
    let met := s.soundly h raw ∧ (judgedHead h raw s).chan.value.getD 0 ≤ e.pressure
    (¬met → t.seq h = { q with condCount := 0 }) ∧
      (met → q.condCount + 1 < e.debounce → t.seq h = { q with condCount := q.condCount + 1 }) ∧
      (met → e.debounce ≤ q.condCount + 1 →
        (q.planIndex < (headPlan h s).length → 0 < e.hold →
          (t.valve h .snift).closed ∧ t.seq h =
            { q with condCount := q.condCount + 1, progress := .holding, timer := some (s.now + 10000 * e.hold) }) ∧
        ((headPlan h s).length ≤ q.planIndex → SniftEnded h s t)) := by
  have base := reported_aside (raw := raw) (aside_of_kind he (by rw [hk]; decide))
  have scan := scanned_reported (s := s) (h := h) (raw := raw)
  obtain ⟨seq, plan, entry, -, -, value⟩ := same_cycle (raw := raw) (s := s) (h := h) base
  obtain ⟨u, hu⟩ : ∃ u, u = s.reported h raw := ⟨_, rfl⟩
  rw [← hu] at scan seq plan entry value
  obtain ⟨unmet, counted, held⟩ := snift_counts (s := u) (h := h)
    (sound := soundConversion (judgedHead h raw s) s.scanner.bowl) (by rw [seq]; exact hs) (entry.trans he) hk (by rw [seq]; exact ha)
  rw [value, seq] at unmet counted held
  have form : s.converted h raw = takeConversion h (soundConversion (judgedHead h raw s) s.scanner.bowl) u := by
    rw [State.converted, hu]
  rw [← form] at unmet counted held
  refine ⟨unmet, counted, fun hm hd => ?_⟩
  obtain ⟨w, hw⟩ : ∃ w, w = u.modSeq h fun q => { q with condCount := q.condCount + 1 } := ⟨_, rfl⟩
  have wseq : w.seq h = { s.seq h with condCount := (s.seq h).condCount + 1 } := by rw [hw, modSeq_seq, seq]
  have wplan : headPlan h w = headPlan h s := by rw [hw, headPlan_modSeq, plan]
  have wnow : w.now = s.now := (congrArg State.now hw).trans scan.now
  have went : s.converted h raw = sniftSucceeds h e w := by rw [hw]; exact held hm hd
  rw [went]
  refine ⟨fun hl hh => ?_, fun hl => ?_⟩
  · have holds := sniftSucceeds_holds (s := w) (h := h) (e := e) (by rw [wseq, wplan]; exact hl) hh
    rw [wseq, wnow] at holds
    exact holds
  · obtain ⟨c, hc, -⟩ := headPlan_some (currentEntry_iff.mp he).2
    have wcycle : (w.head h).cycle = some c := by
      rw [hw, State.modSeq, modHead_head]
      exact scan.cycle.trans hc
    have ended := endCycle_sniftEnded (s := requestClose h .snift w) (h := h) (c := c)
      (((work_requestClose w h .snift).cycle h).trans wcycle)
    have plain := reported_plain (sound_newFault hm.1)
    have uscanned : u = s.scanned h raw := hu.trans plain
    have ring : (requestClose h .snift w).ring = s.ring := by
      rw [(work_requestClose w h .snift).ring, hw, uscanned]
      rfl
    have orq : (requestClose h .snift w).orq = s.orq := by
      rw [(silent_requestClose w h .snift).orq, hw, uscanned]
      rfl
    rw [sniftSucceeds_ends (by rw [wseq, wplan]; exact hl)]
    refine ⟨ended.closed, ended.entry, ended.planIndex, ended.equalised, ?_, fun hr => ended.record (by rw [orq]; exact hr)⟩
    rw [ended.state, requestClose_seq, wseq, ring]

/-- R102, R141: a burst that has been confirmed. -/
theorem converted_burst (hk : e.kind ∈ [PhaseKind.additive, .fill, .rest])
    (ha : (s.seq h).progress = .active ∨ (s.seq h).progress = .settling) (hc : (s.head h).cycle = some c) :
    let q := s.seq h
    let t := s.converted h raw
    let p := (judgedHead h raw s).chan.value.getD 0
    let b := s.scanner.bowl.value.getD 0
    let met := s.soundly h raw ∧ q.equalised = true ∧ p < b - c.recipe.burstDelta
    (¬met → t.seq h = { q with burstCount := 0 }) ∧
      (met → q.burstCount + 1 < c.recipe.burstDebounce → t.seq h = { q with burstCount := q.burstCount + 1 }) ∧
      (met → c.recipe.burstDebounce ≤ q.burstCount + 1 →
        t.counter .bursts = s.counter .bursts + 1#16 ∧ (t.seq h).faultPending = true ∧
          RecordedFirst (alarmRecord .burst (headByte h) p b s) s t ∧
          (q.state = .running → q.sniftBegun = false → (∃ e ∈ headPlan h s, e.kind = .snift) → Snifts h s t)) := by
  have kind : e.kind ≠ .pressurise := fun hp => by rw [hp] at hk; exact absurd hk (by decide)
  have base := reported_aside (raw := raw) (aside_of_kind he kind)
  have scan := scanned_reported (s := s) (h := h) (raw := raw)
  obtain ⟨seq, plan, entry, -, -, value⟩ := same_cycle (raw := raw) (s := s) (h := h) base
  obtain ⟨u, hu⟩ : ∃ u, u = s.reported h raw := ⟨_, rfl⟩
  rw [← hu] at scan seq plan entry value
  obtain ⟨unmet, counted, held⟩ := burst_counts (s := u) (h := h)
    (sound := soundConversion (judgedHead h raw s) s.scanner.bowl) (by rw [seq]; exact hs) (entry.trans he) hk
    (by rw [seq]; exact ha) (scan.cycle.trans hc)
  rw [value, seq, scan.scanner] at unmet counted held
  have form : s.converted h raw = takeConversion h (soundConversion (judgedHead h raw s) s.scanner.bowl) u := by
    rw [State.converted, hu]
  rw [← form] at unmet counted held
  refine ⟨unmet, counted, fun hm hd => ?_⟩
  obtain ⟨w, hw⟩ : ∃ w, w = u.modSeq h fun q => { q with burstCount := q.burstCount + 1 } := ⟨_, rfl⟩
  have wseq : w.seq h = { s.seq h with burstCount := (s.seq h).burstCount + 1 } := by rw [hw, modSeq_seq, seq]
  have wplan : headPlan h w = headPlan h s := by rw [hw, headPlan_modSeq, plan]
  have uscanned : u = s.scanned h raw := hu.trans (reported_plain (sound_newFault hm.1))
  have went : s.converted h raw = burstConfirmed h ((judgedHead h raw s).chan.value.getD 0) (s.scanner.bowl.value.getD 0) w := by
    rw [hw]; exact held hm hd
  obtain ⟨count, pending, recorded, snifts⟩ := burstConfirmed_reports (s := w) (h := h)
    ((judgedHead h raw s).chan.value.getD 0) (s.scanner.bowl.value.getD 0)
  rw [← went] at count pending recorded snifts
  rw [wseq, wplan] at snifts
  have counters : w.counters = s.counters := by rw [hw, uscanned]; rfl
  have orq : w.orq = s.orq := by rw [hw, uscanned]; rfl
  have alarm (p b : Nat) : alarmRecord .burst (headByte h) p b w = alarmRecord .burst (headByte h) p b s := by
    rw [hw, uscanned]
    rfl
  rw [RecordedFirst, alarm, orq] at recorded
  rw [show w.counter .bursts = s.counter .bursts by rw [State.counter, State.counter, counters]] at count
  refine ⟨count, pending, recorded, fun hr hb hp => ?_⟩
  have n := snifts hr hb hp
  exact { n with flags := n.flags.trans (by rw [wseq]) }

end

end

/-! ### The conversion of the bowl (R139, R140) -/

section
variable {s t u : State} {h : HeadId} {raw : BitVec 12}

/-- The head is as another state has it. -/
theorem Snifts.of_head (n : Snifts h s t) (hs : u.head h = t.head h) : Snifts h s u := by
  have seq : u.seq h = t.seq h := congrArg Head.seq hs
  have valve (v : ValveId) : u.valve h v = t.valve h v := congrArg (fun x : Head => x.valves.get v) hs
  exact ⟨by rw [seq]; exact n.state, by rw [seq]; exact n.flags, by rw [seq]; exact n.progress, by rw [seq]; exact n.equalised,
    by rw [valve]; exact n.opened, fun v hv => by rw [valve]; exact n.closed v hv⟩

/-- The bowl's reading has been judged, and a sensor fault that it sets announced and reported to every head. -/
def State.bowlReported (s : State) (raw : BitVec 12) : State :=
  let a := { s with scanner := { s.scanner with bowl := (judgedBowl raw s).chan } }
  if (judgedBowl raw s).newFault then
    forHeads takeSensorFault (announceSensorFault .bowlSensorFault nodeByte (judgedBowl raw s).chan raw a)
  else a

theorem completeBowl_eq : completeBowl raw s = traceTick .bowl (s.bowlReported raw) := rfl

theorem bowlReported_plain (hn : (judgedBowl raw s).newFault = false) :
    s.bowlReported raw = { s with scanner := { s.scanner with bowl := (judgedBowl raw s).chan } } :=
  if_neg (by rw [hn]; decide)

/-- A sensor fault that the reading of the bowl sets: what the reports leave of the node, and of each head. -/
theorem bowlReported_new (hn : (judgedBowl raw s).newFault = true) :
    let a := { s with scanner := { s.scanner with bowl := (judgedBowl raw s).chan } }
    let t := s.bowlReported raw
    t.counter .sensorFaults = s.counter .sensorFaults + 1#16 ∧
      RecordedFirst (alarmRecord .bowlSensorFault nodeByte raw.toNat (s.scanner.bowl.value.getD 0) s) s t ∧
      (∃ y, Booked a y ∧ NodeWork y t) ∧
      ∀ h, ∃ u, u.head h = s.head h ∧ t.head h = (takeSensorFault h u).head h := by
  intro a t
  obtain ⟨y, hy⟩ : ∃ y, y = announceSensorFault .bowlSensorFault nodeByte (judgedBowl raw s).chan raw a := ⟨_, rfl⟩
  have ht : t = forHeads takeSensorFault y := by rw [hy]; exact if_pos hn
  have booked : Booked a y := by rw [hy]; exact booked_announceSensorFault _ _ _ _ _
  obtain ⟨work, heads⟩ := forHeads_heads (f := takeSensorFault) (fun h s => work_takeSensorFault s h) y
  rw [← ht] at work heads
  obtain ⟨fault, rail, -⟩ := judgeReading_newFault.mp hn
  have value : (judgedBowl raw s).chan.value = s.scanner.bowl.value :=
    ((judgeReading_chan (p := scaled s.settings.bowlOffset s.settings.bowlGain raw)).2.2.1 fault rail).1
  obtain ⟨count, recorded⟩ := announced (s := a) (c := .sensorFaults) (by decide) (by decide) .bowlSensorFault nodeByte
    raw.toNat (s.scanner.bowl.value.getD 0)
  have shape : y = countEvent .sensorFaults (raiseAlarm .bowlSensorFault nodeByte raw.toNat (s.scanner.bowl.value.getD 0) a) := by
    rw [hy, announceSensorFault, value]
  rw [← shape] at count recorded
  refine ⟨?_, RecordedFirst.append recorded work.records, ⟨y, booked, work⟩, fun h => ?_⟩
  · rw [work.counters .sensorFaults (by decide) (by decide)]
    exact count
  · obtain ⟨u, head, -, after⟩ := heads h
    exact ⟨u, head.trans (by rw [State.head, booked.heads]; rfl), after⟩

/-- What the report of a bowl sensor fault does at one head. -/
theorem takeSensorFault_of_head (hu : u.head h = s.head h) (ht : t.head h = (takeSensorFault h u).head h) :
    (¬s.breaks h → t.head h = s.head h) ∧
      (s.breaks h → (∀ e, currentEntry h s = some e → e.continues = false) → (s.seq h).sniftBegun = false →
        (∃ e ∈ headPlan h s, e.kind = .snift) → Snifts h s t) := by
  have seq : u.seq h = s.seq h := congrArg Head.seq hu
  have plan : headPlan h u = headPlan h s := by rw [headPlan, headPlan, hu]
  have entry : currentEntry h u = currentEntry h s := by rw [currentEntry, currentEntry, seq, plan]
  have same : u.breaks h ↔ s.breaks h := by rw [State.breaks, State.breaks, seq, entry]
  refine ⟨fun hb => ?_, fun hb hc hq hp => ?_⟩
  · rw [ht, takeSensorFault_aside (mt same.mp hb), hu]
  · have n := takeSensorFault_snifts (same.mpr hb) (by rw [entry]; exact hc) (by rw [seq]; exact hq) (by rw [plan]; exact hp)
    exact Snifts.of_head { n with flags := n.flags.trans (by rw [seq]) } ht

end

/-! ### The statement (O54) -/

section
variable {s t u : State} {h : HeadId} {raw : BitVec 12}

theorem headReading_eq : headReading h raw s = if (s.head h).forced = 0 then raw else 0#12 := by
  rw [headReading]
  by_cases hf : (s.head h).forced = 0
  · rw [if_neg (by rw [hf]; exact Nat.lt_irrefl 0), if_pos hf]
  · rw [if_pos (Nat.pos_of_ne_zero hf), if_neg hf]

theorem converted_off : ((s.converted h raw).seq h).state = .off ↔ (s.seq h).state = .off := by
  refine ⟨fun ht => ?_, fun hs => ?_⟩
  · by_contra hs
    refine lives_takeConversion _ ?_ ht
    unfold State.reported
    split
    · refine lives_takeSensorFault _ ?_
      rw [State.seq, State.head, (booked_announceSensorFault _ _ _ _ _).heads]
      show ((s.scanned h raw).head h).seq.state ≠ .off
      rw [scanned_head]
      exact hs
    · rw [State.seq, scanned_head]
      exact hs
  · rw [converted_idle (.inl ⟨by rw [hs]; decide, by rw [hs]; decide⟩), hs]

theorem takeSensorFault_off (hu : u.head h = s.head h) (ht : t.head h = (takeSensorFault h u).head h) :
    (t.seq h).state = .off ↔ (s.seq h).state = .off := by
  have seq : u.seq h = s.seq h := congrArg Head.seq hu
  have after : t.seq h = (takeSensorFault h u).seq h := congrArg Head.seq ht
  refine ⟨fun hx => ?_, fun hs => ?_⟩
  · by_contra hs
    exact lives_takeSensorFault u (by rw [seq]; exact hs) (by rw [← after]; exact hx)
  · rw [after, takeSensorFault_aside, seq, hs]
    rintro ⟨running, -⟩
    rw [seq, hs] at running
    exact absurd running (by decide)

/-- What stands behind the tick of the traces and the start of the next conversion. -/
structure FollowedBy (c : ScanId) (u t : State) : Prop where
  heads : t.heads = u.heads
  now : t.now = u.now
  orq : t.orq = u.orq
  counters : t.counters = u.counters
  trace : t.trace = (traceTick c u).trace
  bowl : t.scanner.bowl = u.scanner.bowl

theorem followedBy (c : ScanId) (u : State) : FollowedBy c u (startNext (traceTick c u)) := by
  obtain ⟨node, bowl⟩ := startNext_scanner (traceTick c u)
  have of {α : Type} (f : State → α) (hf : ∀ x y, f { x with scanner := y } = f x) :
      f (startNext (traceTick c u)) = f (traceTick c u) := by rw [node, hf]
  exact ⟨of State.heads fun _ _ => rfl, of State.now fun _ _ => rfl, of State.orq fun _ _ => rfl,
    of State.counters fun _ _ => rfl, of State.trace fun _ _ => rfl, bowl⟩

theorem FollowedBy.head {c : ScanId} (f : FollowedBy c u t) (k : HeadId) : t.head k = u.head k := by
  rw [State.head, State.head, f.heads]

theorem FollowedBy.seq {c : ScanId} (f : FollowedBy c u t) (k : HeadId) : t.seq k = u.seq k := congrArg Head.seq (f.head k)

theorem FollowedBy.valve {c : ScanId} (f : FollowedBy c u t) (k : HeadId) (v : ValveId) : t.valve k v = u.valve k v :=
  congrArg (fun x : Head => x.valves.get v) (f.head k)

theorem FollowedBy.counter {c : ScanId} (f : FollowedBy c u t) (k : CounterId) : t.counter k = u.counter k := by
  rw [State.counter, State.counter, f.counters]

/-- R167: the signals that the traces take stand behind them. -/
theorem FollowedBy.sampleOf {c : ScanId} (f : FollowedBy c u t) (d : Descriptor) : Machine.sampleOf d u = Machine.sampleOf d t := by
  have chan (k : HeadId) (m : Meter) : t.chan k m = u.chan k m := congrArg (fun x : Head => x.chan.get m) (f.head k)
  unfold Machine.sampleOf
  rw [chan, chan, f.head, f.bowl]

end

section
variable {s t u : State} {h : HeadId} {raw : BitVec 12}

theorem currentEntry_elim : currentEntry h s =
    if (s.seq h).planIndex = 0 then none else ((s.head h).cycle.elim [] CycleRecord.plan)[(s.seq h).planIndex - 1]? := by
  rw [currentEntry, headPlan_elim]

theorem completeConversion_at {start : Ticks} (hs : s.scanner.conversion.started = some start) :
    completeConversion raw s = startNext
      (match s.scanner.conversion.channel with
        | .head h => completeHead h raw (s.advance (start + 250))
        | .bowl => completeBowl raw (s.advance (start + 250))) := by
  unfold completeConversion
  rw [hs]
  dsimp only
  cases hc : s.scanner.conversion.channel <;> simp only [advance_scanner, hc, Config.conversionTicks]

/-- What a bowl conversion leaves ahead of the traces and of the next conversion. -/
structure BowlTaken (raw : BitVec 12) (s u : State) : Prop where
  scanner : u.scanner = { s.scanner with bowl := (judgedBowl raw s).chan }
  now : u.now = s.now
  scan : ∀ k, (u.head k).scan = (s.head k).scan
  off : ∀ k, (u.seq k).state = .off ↔ (s.seq k).state = .off
  running : ∀ b, (s.trace.get b).state = .running → u.trace.get b = s.trace.get b
  linked : ∀ b, (s.trace.get b).link = true → u.trace.get b = s.trace.get b

theorem bowlTaken_bowlReported : BowlTaken raw s (s.bowlReported raw) := by
  cases hn : (judgedBowl raw s).newFault with
  | false =>
    rw [bowlReported_plain hn]
    exact ⟨rfl, rfl, fun _ => rfl, fun _ => Iff.rfl, fun _ _ => rfl, fun _ _ => rfl⟩
  | true =>
    obtain ⟨-, -, ⟨y, booked, work⟩, heads⟩ := bowlReported_new hn
    have scan (k : HeadId) : (y.head k).scan = (s.head k).scan := by rw [State.head, booked.heads]; rfl
    have scanner : y.scanner = { s.scanner with bowl := (judgedBowl raw s).chan } := by rw [booked]
    have now : y.now = s.now := booked.now
    have trace : y.trace = s.trace := by rw [booked]
    refine ⟨work.scanner.trans scanner, work.now.trans now, fun k => (work.scan k).trans (scan k), fun k => ?_, fun x hx => ?_,
      fun x hx => ?_⟩
    · obtain ⟨u, before, after⟩ := heads k
      exact takeSensorFault_off before after
    · rw [work.running x (by rw [trace]; exact hx), trace]
    · rw [work.linked x (by rw [trace]; exact hx), trace]

end

theorem alarmRecord_eq (code : AlarmCode) (head : Byte) (a b : Nat) (s : State) :
    alarmRecord code head a b s =
      ⟨.alarm, head, s.pitch.sequence.elim 0#16 PitchSequence.serial, 255#8, BitVec.ofNat 8 code.code, 0#8, BitVec.ofNat 32 a,
        BitVec.ofNat 24 b⟩ := by
  rw [alarmRecord, alarmSerial_eq]

/-- A head's conversion that sets the sensor fault, and one that does not. -/
theorem converted_faults {s : State} {h : HeadId} {raw : BitVec 12} :
    let t := s.converted h raw
    ((judgedHead h raw s).newFault = true →
      t.counter .sensorFaults = s.counter .sensorFaults + 1#16 ∧
        RecordedFirst (alarmRecord .sensorFault (headByte h) (headReading h raw s).toNat ((s.head h).scan.value.getD 0) s) s t) ∧
      ((judgedHead h raw s).newFault = true → s.breaks h → (∀ e, currentEntry h s = some e → e.continues = false) →
        (s.seq h).sniftBegun = false → (∃ e ∈ headPlan h s, e.kind = .snift) → Snifts h s t) ∧
      ((judgedHead h raw s).newFault = false → t.counter .sensorFaults = s.counter .sensorFaults) := by
  intro t
  have w : HeadWork h (s.reported h raw) t := work_takeConversion _ h _
  have count := w.counters .sensorFaults (by decide) (by decide)
  refine ⟨fun hn => ?_, fun hn hb he hq hp => ?_, fun hn => ?_⟩
  · obtain ⟨counted, recorded, -⟩ := reported_new hn
    exact ⟨count.trans counted, recorded.append w.records⟩
  · obtain ⟨-, -, snifts⟩ := reported_new hn
    have unsound : soundConversion (judgedHead h raw s) s.scanner.bowl = false :=
      Bool.eq_false_iff.mpr fun hs => absurd hn (by rw [sound_newFault hs]; decide)
    obtain ⟨c, b, counts⟩ := takeConversion_unsound (s := s.reported h raw) (h := h)
    have form : t = (s.reported h raw).modSeq h fun q => { q with condCount := c, burstCount := b } := by
      rw [← counts, ← unsound]
      rfl
    rw [form]
    exact (snifts hb he hq hp).modSeq c b
  · rw [count, reported_plain hn]
    rfl

/-- Settles O54, from what the reading makes of its channel (`judgeReading_chan`), of the faults (`reported_new`,
`bowlReported_new`), of the cycle (`converted_pressurise`, `converted_snift`, `converted_burst`), of the scanner
(`startNext_follows`) and of the traces (`traceTick_follows`). -/
theorem conversionIsJudgedAndFollowed : Obligations.ConversionIsJudgedAndFollowed := by
  intro raw s
  have step : exec (.conversionComplete raw) s = .next (completeConversion raw s) := rfl
  refine ⟨fun hn => ?_, fun start hs => ?_⟩
  · rw [step, completeConversion, hn]
  rw [completeConversion_at hs] at step
  cases hc : s.scanner.conversion.channel with
  | bowl =>
    rw [hc] at step
    obtain ⟨u, hu⟩ : ∃ u, u = (s.advance (start + 250)).bowlReported raw := ⟨_, rfl⟩
    obtain ⟨t, ht⟩ : ∃ t, t = startNext (traceTick .bowl u) := ⟨_, rfl⟩
    have follows : FollowedBy .bowl u t := by rw [ht]; exact followedBy .bowl u
    have taken : BowlTaken raw (s.advance (start + 250)) u := by rw [hu]; exact bowlTaken_bowlReported
    obtain ⟨started, request, requested, turn⟩ := startNext_follows (t := traceTick .bowl u) (s := s)
      (congrArg Scanner.pointer taken.scanner :) (congrArg Scanner.request taken.scanner :) taken.off
    rw [← ht] at started request requested turn
    refine ⟨t, by rw [step, completeBowl_eq, ← hu, ← ht], follows.now.trans taken.now,
      ⟨fun _ => ⟨?_, fun k => ?_⟩, fun h hh => absurd hh (by simp)⟩, ?_, request, requested, turn,
      ⟨fun _ => ⟨fun hn => ?_, fun hn => ?_⟩, fun h hh => absurd hh (by simp), fun isB => ?_⟩⟩
    · have chan : t.scanner.bowl = (judgedBowl raw (s.advance (start + 250))).chan :=
        follows.bowl.trans (congrArg Scanner.bowl taken.scanner)
      dsimp only
      rw [chan, ← scaled_eq]
      exact judgeReading_chan
    · rw [follows.head]
      exact taken.scan k
    · rw [started]
      exact congrArg some taken.now
    · obtain ⟨count, recorded, -, heads⟩ := bowlReported_new (s := s.advance (start + 250)) (judgeReading_newFault.mpr hn)
      rw [← hu] at count recorded heads
      refine ⟨(follows.counter _).trans count, fun hl hr => ?_, fun k => ?_⟩
      · rw [follows.orq]
        rw [alarmRecord_eq] at recorded
        exact recorded hl hr
      · obtain ⟨v, before, after⟩ := heads k
        obtain ⟨aside, breaks⟩ := takeSensorFault_of_head (s := s) before ((follows.head k).trans after)
        rw [State.breaks, currentEntry_elim, headPlan_elim] at breaks
        rw [State.breaks, currentEntry_elim] at aside
        refine ⟨aside, fun hb he hr hq hp => ?_⟩
        have n := breaks hb he hq hp
        exact ⟨n.state, n.flags, n.progress, n.equalised, n.opened, n.closed⟩
    · have plain := bowlReported_plain (s := s.advance (start + 250))
        (Bool.eq_false_iff.mpr fun hx => hn (judgeReading_newFault.mp hx))
      rw [← hu] at plain
      rw [follows.heads, follows.orq, follows.counters, plain]
      exact ⟨rfl, rfl, rfl⟩
    · rw [follows.trace]
      exact traceTick_follows isB taken.running taken.linked _ ((follows.sampleOf _).trans (sampleOf_signal _ t))
  | head h =>
    rw [hc] at step
    obtain ⟨u, hu⟩ : ∃ u, u = (s.advance (start + 250)).converted h raw := ⟨_, rfl⟩
    obtain ⟨t, ht⟩ : ∃ t, t = startNext (traceTick (.head h) u) := ⟨_, rfl⟩
    have follows : FollowedBy (.head h) u t := by rw [ht]; exact followedBy (.head h) u
    have taken : Scanned h raw (s.advance (start + 250)) u := by rw [hu]; exact scanned_converted
    have off (k : HeadId) : (u.seq k).state = .off ↔ (s.seq k).state = .off := by
      by_cases hk : k = h
      · rw [hk, hu]
        exact converted_off
      · rw [State.seq, taken.others k hk]
        rfl
    obtain ⟨started, request, requested, turn⟩ := startNext_follows (t := traceTick (.head h) u) (s := s)
      (congrArg Scanner.pointer taken.scanner :) (congrArg Scanner.request taken.scanner :) off
    rw [← ht] at started request requested turn
    have scan : (t.head h).scan = (judgedHead h raw (s.advance (start + 250))).chan := by rw [follows.head, taken.scan]
    have reading : headReading h raw (s.advance (start + 250)) = if (s.head h).forced = 0 then raw else 0#12 := headReading_eq
    have done : completeHead h raw (s.advance (start + 250)) = traceTick (.head h) u := by
      rw [hu]
      exact completeHead_eq
    refine ⟨t, step.trans (congrArg _ ((congrArg startNext done).trans ht.symm)), follows.now.trans taken.now,
      ⟨fun hh => absurd hh (by simp), fun k hk => ?_⟩, ?_, request, requested, turn,
      ⟨fun hh => absurd hh (by simp), fun k hk => ?_, fun isB => ?_⟩⟩
    · obtain rfl : h = k := ScanId.head.inj hk
      refine ⟨?_, by rw [follows.head, taken.forced]; rfl, follows.bowl.trans (congrArg Scanner.bowl taken.scanner)⟩
      dsimp only
      rw [scan, ← reading, ← scaled_eq]
      exact judgeReading_chan
    · rw [started]
      exact congrArg some taken.now
    · obtain rfl : h = k := ScanId.head.inj hk
      have fault : (judgedHead h raw (s.advance (start + 250))).newFault = true ↔ _ := judgeReading_newFault
      have sound : (s.advance (start + 250)).soundly h raw ↔ _ := judgeReading_sound _
      rw [reading] at fault sound
      obtain ⟨reports, snifts, plain⟩ := converted_faults (s := s.advance (start + 250)) (h := h) (raw := raw)
      rw [← hu] at reports snifts plain
      dsimp only
      rw [follows.seq, scan]
      refine ⟨fun k hk => by rw [follows.head]; exact taken.others k hk, fun hn => ⟨?_, ?_, ?_⟩, fun hn => ?_, fun hq => ?_,
        fun e hq he => ⟨fun hk => ?_, fun hk ha hn => ?_, fun hk ha => ?_, fun hk ha c hcyc => ?_⟩⟩
      · exact (follows.counter _).trans (reports (fault.mpr hn)).1
      · have recorded := (reports (fault.mpr hn)).2
        rw [alarmRecord_eq, RecordedFirst, reading] at recorded
        rw [follows.orq]
        exact recorded
      · intro hb he hr hq hp
        rw [State.breaks, currentEntry_elim, headPlan_elim] at snifts
        have n := (snifts (fault.mpr hn) hb he hq hp).of_head (follows.head h)
        exact ⟨(congrArg Sequencer.state (follows.seq h)).symm.trans n.state,
          (congrArg Sequencer.flags (follows.seq h)).symm.trans n.flags,
          (congrArg Sequencer.progress (follows.seq h)).symm.trans n.progress,
          (congrArg Sequencer.equalised (follows.seq h)).symm.trans n.equalised, n.opened, n.closed⟩
      · exact (follows.counter _).trans (plain (Bool.eq_false_iff.mpr fun hx => hn (fault.mp hx)))
      · rw [← currentEntry_elim] at hq
        rw [hu]
        exact converted_idle (s := s.advance (start + 250)) hq
      · rw [← currentEntry_elim] at he
        rw [hu]
        exact converted_purge (s := s.advance (start + 250)) hq he hk
      · rw [← currentEntry_elim] at he
        have rule := converted_pressurise (s := s.advance (start + 250)) (raw := raw) hq he hk ha
          (Bool.eq_false_iff.mpr fun hx => hn (fault.mp hx))
        dsimp only at rule
        rw [sound, ← hu, headPlan_elim] at rule
        simp only [follows.valve]
        exact rule
      · rw [← currentEntry_elim] at he
        have rule := converted_snift (s := s.advance (start + 250)) (raw := raw) hq he hk ha
        dsimp only at rule
        rw [sound, ← hu, headPlan_elim] at rule
        obtain ⟨unmet, counted, held⟩ := rule
        simp only [follows.valve, follows.orq]
        refine ⟨unmet, counted, fun hm hd => ⟨fun hl hh => ?_, fun hl => ?_⟩⟩
        · obtain ⟨closed, seq⟩ := (held hm hd).1 hl hh
          exact ⟨closed.1, closed.2, seq⟩
        · have ended := (held hm hd).2 hl
          exact ⟨ended.closed.1, ended.closed.2, ended.entry, ended.planIndex, ended.equalised, ended.state, ended.record⟩
      · rw [← currentEntry_elim] at he
        have rule := converted_burst (s := s.advance (start + 250)) (raw := raw) hq he hk ha hcyc
        dsimp only at rule
        rw [sound, ← hu, headPlan_elim, alarmRecord_eq] at rule
        obtain ⟨unmet, counted, held⟩ := rule
        simp only [follows.valve, follows.orq, follows.counter]
        refine ⟨unmet, counted, fun hm hd => ?_⟩
        obtain ⟨count, pending, recorded, snifts⟩ := held hm hd
        refine ⟨count, pending, recorded, fun hr hb hp => ?_⟩
        have n := snifts hr hb hp
        exact ⟨n.state, n.flags, n.progress, n.equalised, n.opened, n.closed⟩
    · rw [follows.trace]
      exact traceTick_follows isB taken.running taken.linked _ ((follows.sampleOf _).trans (sampleOf_signal _ t))

end Sys2Proof.Machine
end

section
/-! Proofs about the Resolver: what the words of a record say and which record fixes a field (R79, R184; the statement O49), the
steps of a chain (R78 to R82; O48), and how a resolution completes (R87; O50). -/

namespace Sys2Proof.Machine

open Sys2Proof

/-! ### The fields of a record (R75, R79, R184) -/

section
variable {α : Type} {old : Option α} {flag : Bool} {x y : α}

theorem fix_fixed (h : old = some y) : fix old flag x = some y := by rw [h]; rfl

theorem fix_open (h : old = none) : fix old flag x = if flag then some x else none := by rw [h]; rfl

theorem bits_low (w : Word) (hi : Nat) : bits w hi 0 = w.toNat % 2 ^ (hi + 1) := by
  rw [bits, pow_zero, Nat.div_one, Nat.sub_zero]

/-- The topmost bits of a word. -/
theorem bits_high (w : Word) : bits w 31 23 = w.toNat / 2 ^ 23 := by
  have := w.isLt
  rw [bits, Nat.mod_eq_of_lt]
  omega

theorem lowerHalf_eq (w : Word) : lowerHalf w = w.setWidth 16 := by
  rw [lowerHalf]
  apply BitVec.eq_of_toNat_eq
  rw [BitVec.extractLsb'_toNat, BitVec.toNat_setWidth, Nat.shiftRight_zero]

theorem upperHalf_eq (w : Word) : upperHalf w = BitVec.ofNat 16 (w.toNat / 2 ^ 16 % 2 ^ 16) := by
  rw [upperHalf]
  apply BitVec.eq_of_toNat_eq
  rw [BitVec.extractLsb'_toNat, BitVec.toNat_ofNat, Nat.shiftRight_eq_div_pow, Nat.mod_mod]

theorem upperHalf_toNat (w : Word) : (upperHalf w).toNat = w.toNat / 65536 := by
  have := w.isLt
  rw [upperHalf, BitVec.extractLsb'_toNat, Nat.shiftRight_eq_div_pow, Nat.mod_eq_of_lt]
  omega

/-- A bit of a word, read as a number. -/
theorem getLsbD_decide (w : Word) (i : Nat) : w.getLsbD i = decide (w.toNat / 2 ^ i % 2 ^ 1 = 1) := by
  rw [BitVec.getLsbD, Nat.testBit_eq_decide_div_mod_eq, pow_one]

/-- The kind of a code in range. -/
theorem phaseKindOf_code {n : Nat} (h1 : 1 ≤ n) (h6 : n ≤ 6) : ∃ k, phaseKindOf n = some k ∧ phaseKindCode k = n := by
  interval_cases n <;> exact ⟨_, rfl, rfl⟩

/-- R184: entry `i` of a plan, from 1 on. -/
theorem rawEntryOf_eq (ws : List Word) (i : Nat) :
    let b := fun i lo width => (ws.getD i 0#32).toNat / 2 ^ lo % 2 ^ width
    rawEntryOf ws (i + 1) =
      ⟨b (12 + 2 * i) 29 3, decide (b (12 + 2 * i) 28 1 = 1), b (12 + 2 * i) 25 3, b (12 + 2 * i) 0 14, b (13 + 2 * i) 16 14,
        b (13 + 2 * i) 0 10⟩ := by
  have h1 : 10 + 2 * (i + 1) = 12 + 2 * i := by omega
  have h2 : 11 + 2 * (i + 1) = 13 + 2 * i := by omega
  unfold rawEntryOf
  rw [h1, h2]
  dsimp only [wordAt]
  rw [getLsbD_decide]
  rfl

/-- Where every kind is defined, the plan of the cycle holds each entry under its kind. -/
theorem planOf_entries {m : Merged} (hk : ∀ e ∈ m.plan, 1 ≤ e.kindCode ∧ e.kindCode ≤ 6) {i : Nat} {e : RawEntry}
    (he : m.plan[i]? = some e) :
    ∃ k : PhaseKind, phaseKindCode k = e.kindCode ∧
      (planOf m)[i]? = some ⟨k, e.continues, e.debounce, e.timeLimit, e.pressure, e.hold⟩ := by
  unfold planOf
  generalize m.plan = l at hk he
  induction l generalizing i with
  | nil => simp at he
  | cons a l ih =>
    obtain ⟨h1, h6⟩ := hk a List.mem_cons_self
    obtain ⟨k, hk1, hk2⟩ := phaseKindOf_code h1 h6
    have entry : phaseEntryOf a = some ⟨k, a.continues, a.debounce, a.timeLimit, a.pressure, a.hold⟩ := by
      rw [phaseEntryOf, hk1]; rfl
    rw [List.filterMap_cons_some entry]
    cases i with
    | zero =>
      obtain rfl : a = e := by simpa using he
      exact ⟨k, hk2, rfl⟩
    | succ i => exact ih (fun x hx => hk x (List.mem_cons_of_mem a hx)) (by simpa using he)

end

/-- Settles O49: a field at a time, `fix_fixed` and `fix_open` for the VARIANT record, `bits` for the FULL record. -/
theorem nearestRecordFixesEachField : Obligations.NearestRecordFixesEachField := by
  intro ws full fx flag got w b merged
  have plan : merged.plan = (List.range (min (b 3 28 4) 10)).map fun i => rawEntryOf full (i + 1) := rfl
  refine ⟨fun x => fix_fixed, fix_open, fun x => fix_fixed, fun hn => ?_, fun x => fix_fixed, fun hn => ?_, fun x => fix_fixed,
    fun hn => ?_, fun x => fix_fixed, fun hn => ?_, fun x => fix_fixed, fun hn => ?_, ?_, rfl, ?_, fun i hi => ?_,
    fun hk i e he => planOf_entries hk he⟩
  · exact (fix_open hn).trans (by rw [bits_low]; rfl)
  · exact (fix_open hn).trans (by rw [bits_low]; rfl)
  · exact (fix_open hn).trans (by rw [bits_low]; rfl)
  · exact (fix_open hn).trans (by rw [lowerHalf_eq]; rfl)
  · exact (fix_open hn).trans (by rw [bits_high, bits_low]; rfl)
  · have factor : (upperHalf (wordAt full 8)).toInt = (BitVec.ofNat 16 (b 8 16 16)).toInt := by rw [upperHalf_eq]; rfl
    rw [← factor]
    rfl
  · rw [plan, List.length_map, List.length_range]
  · rw [plan, List.getElem?_map, List.getElem?_range hi, Option.map_some, rawEntryOf_eq]

/-! ### One step of a resolution (R78, R85, R88) -/

section
variable {s a : State} {r : Resolution} {f : ResFault} {d : Nat} {time : Ticks}

/-- A step that passes leaves the resolution `r'`, and all else but the time. -/
@[reducible] def State.stepsTo (s : State) (time : Ticks) (r' : Resolution) : Prop :=
  exec (.resolutionStep time) s =
    .next { s with now := max s.now time, resolver := { s.resolver with current := some r' } }

/-- A step that fails ends as RESOLUTION_COMPLETE does at the failed stage, with the head free and the read set empty. -/
@[reducible] def State.stepFails (s : State) (time : Ticks) (r : Resolution) (f : ResFault) (d : Nat) : Prop :=
  ∃ t : State, exec (.resolutionStep time) s = .next t ∧
    exec (.resolutionComplete time)
      { s with resolver := { s.resolver with current := some { r with stage := .failed f d } } } = .next t ∧
    (t.seq r.head).state = (if s.ring.state = .locked ∨ s.ring.state = .holdover then .idle else .held) ∧
    ∀ x ∈ t.resolver.current, x.readSet = []

/-- A resolution that begins has read nothing. -/
theorem beginResolution_readSet (hs : s.resolver.current = none) : ∀ x ∈ (beginResolution s).resolver.current, x.readSet = [] := by
  intro x hx
  unfold beginResolution at hx
  split at hx
  · obtain rfl : _ = x := by simpa using hx
    rfl
  · rw [hs] at hx
    exact absurd hx (by simp)

theorem stepsTo_of_step (hc : s.resolver.current = some r) {r' : Resolution} (hs : stageStep r (s.advance time) = r')
    (hf : ∀ f d, r'.stage ≠ .failed f d) : s.stepsTo time r' := by
  show Host.Outcome.next (stepResolution (s.advance time)) = _
  rw [stepResolution_goes (s.advance time) r r' hc hs hf]
  rfl

theorem stepFails_of_step (hc : s.resolver.current = some r) {r' : Resolution} (hs : stageStep r (s.advance time) = r')
    (hf : r'.stage = .failed f d) (hh : r'.head = r.head) : s.stepFails time r f d := by
  have step := stepResolution_failed (s.advance time) r r' f d hc hs hf hh
  have complete := completeResolution_failed (s.advance time) { r with stage := .failed f d } f d rfl
  refine ⟨_, congrArg Host.Outcome.next step, congrArg Host.Outcome.next complete, ?_, beginResolution_readSet rfl⟩
  rw [beginResolution_seq]
  show ((resolutionNotServed r.head .recipeFault (resFaultCode f) d (s.advance time)).seq r.head).state = _
  rw [resolutionNotServed_state, freeState_eq]
  rfl

theorem stepFails_of_fail (hc : s.resolver.current = some r) {r' : Resolution} (hs : stageStep r (s.advance time) = r'.fail f d)
    (hh : r'.head = r.head) : s.stepFails time r f d := stepFails_of_step hc hs rfl hh

/-! ### A record of the chain (R78, R79) -/

section
variable {n : Nat} {k : Fin 128} {e : DirEntry}

theorem stageStep_following (hr : r.stage = .following n) : stageStep r s = followStep n r s := by
  rw [stageStep, hr]

theorem lookupRecipe_none (h : 128 ≤ n ∨ ∃ k : Fin 128, n = k.val ∧ s.directory[k] = none) : lookupRecipe n s = none := by
  unfold lookupRecipe
  rcases h with h | ⟨k, rfl, hk⟩
  · exact dif_neg (Nat.not_lt.mpr h)
  · rw [dif_pos k.isLt]
    exact hk

theorem followStep_none (h : 128 ≤ n ∨ ∃ k : Fin 128, n = k.val ∧ s.directory[k] = none) :
    followStep n r s = r.fail .noRecipe n := by
  rw [followStep, lookupRecipe_none h]

theorem followStep_some (hn : n = k.val) (hd : s.directory[k] = some e) :
    followStep n r s =
      let g := s.segment e.segment
      if g.state = .undefined ∨ g.kind ≠ some .recipe then r.fail .wrongKind n
      else if g.state ≠ .valid then r.fail .segmentNotReady n
      else if g.length < 32 * (e.index + 1) then r.fail .indexRange n
      else Resolution.takeRecord n (recordWords g e.index 32 s) { r with readSet := joinReadSet e.segment r.readSet } := by
  have found : lookupRecipe n s = some e := by
    subst hn
    rw [lookupRecipe, dif_pos k.isLt]
    exact hd
  rw [followStep, found]
  rfl

theorem joinReadSet_eq (g : Fin 32) (l : List (Fin 32)) : joinReadSet g l = if g ∈ l then l else l ++ [g] := by
  unfold joinReadSet
  exact if_congr List.contains_iff_mem rfl rfl

/-- R72: the kind of a record and the parent of a VARIANT record. -/
theorem recordKindOf_eq (ws : List Word) : recordKindOf ws = (ws.getD 0 0#32).toNat / 2 ^ 30 := by
  have := (ws.getD 0 0#32).isLt
  unfold recordKindOf bits wordAt
  rw [Nat.mod_eq_of_lt]
  omega

theorem parentOf_eq (ws : List Word) : parentOf ws = (ws.getD 0 0#32).toNat / 65536 % 256 := rfl

end

/-- R78, R79: a step along the chain, by directory entry, segment, index and record. -/
theorem following_judged {n : Nat} {k : Fin 128} {e : DirEntry} (hc : s.resolver.current = some r) (hr : r.stage = .following n)
    (hn : n = k.val) (hd : s.directory[k] = some e) :
    let reads := fun g : Fin 32 => if g ∈ r.readSet then r.readSet else r.readSet ++ [g]
    let g := s.segment e.segment
    let ws := (List.range 32).map fun j => Memory.read s.tables.words (g.base + 32 * e.index + j)
    let kind := (ws.getD 0 0#32).toNat / 2 ^ 30
    let parent := (ws.getD 0 0#32).toNat / 65536 % 256
    let taken := { r with readSet := reads e.segment, chainLength := r.chainLength + 1, wordsRead := r.wordsRead + 32 }
    if g.state = .undefined ∨ g.kind ≠ some .recipe then s.stepFails time r .wrongKind n
    else if g.state ≠ .valid then s.stepFails time r .segmentNotReady n
    else if g.length < 32 * (e.index + 1) then s.stepFails time r .indexRange n
    else if kind = 1 then s.stepsTo time { taken with stage := .merged (mergeFull r.fixed (fullOf ws)) }
    else if kind = 2 ∧ 4 ≤ r.chainLength + 1 then s.stepFails time r .chainTooLong parent
    else if kind = 2 then s.stepsTo time { taken with fixed := fixVariant ws r.fixed, stage := .following parent }
    else s.stepFails time r .fieldRange n := by
  intro reads g ws kind parent taken
  have step := (stageStep_following (s := s.advance time) hr).trans (followStep_some (s := s.advance time) (r := r) hn hd)
  have reading : (s.advance time).segment e.segment = g := rfl
  have words : recordWords g e.index 32 (s.advance time) = ws := rfl
  dsimp only at step
  rw [reading, words, joinReadSet_eq] at step
  by_cases hk : g.state = .undefined ∨ g.kind ≠ some .recipe
  · rw [if_pos hk] at step ⊢
    exact stepFails_of_fail hc step rfl
  rw [if_neg hk] at step ⊢
  by_cases hv : g.state ≠ .valid
  · rw [if_pos hv] at step ⊢
    exact stepFails_of_fail hc step rfl
  rw [if_neg hv] at step ⊢
  by_cases hl : g.length < 32 * (e.index + 1)
  · rw [if_pos hl] at step ⊢
    exact stepFails_of_fail hc step rfl
  rw [if_neg hl] at step ⊢
  unfold Resolution.takeRecord at step
  dsimp only at step
  rw [recordKindOf_eq] at step
  by_cases h1 : kind = 1
  · rw [if_pos h1] at step ⊢
    exact stepsTo_of_step hc step fun f d hf => Stage.noConfusion hf
  rw [if_neg h1] at step ⊢
  by_cases h2 : kind = 2
  · rw [if_pos h2] at step
    by_cases hx : 4 ≤ r.chainLength + 1
    · rw [if_pos (show Config.maxChain ≤ r.chainLength + 1 from hx)] at step
      rw [if_pos ⟨h2, hx⟩]
      exact stepFails_of_fail hc step rfl
    · rw [if_neg (show ¬Config.maxChain ≤ r.chainLength + 1 from hx)] at step
      rw [if_neg fun hh => hx hh.2, if_pos h2]
      exact stepsTo_of_step hc step fun f d hf => Stage.noConfusion hf
  · rw [if_neg h2] at step
    rw [if_neg fun hh => h2 hh.1, if_neg h2]
    exact stepFails_of_fail hc step rfl

/-! ### Validation (R80 to R82) -/

theorem inRange_iff {lo hi x : Nat} : inRange lo hi x = true ↔ lo ≤ x ∧ x ≤ hi := by
  rw [inRange, Bool.and_eq_true, decide_eq_true_eq, decide_eq_true_eq]

/-- Every value lies between its bounds. -/
@[reducible] def Within (l : List (Nat × Nat × Nat)) : Prop := ∀ b ∈ l, b.1 ≤ b.2.1 ∧ b.2.1 ≤ b.2.2

theorem within_cons (lo x hi : Nat) (l : List (Nat × Nat × Nat)) :
    Within ((lo, x, hi) :: l) ↔ inRange lo hi x = true ∧ Within l := by
  rw [inRange_iff]
  exact List.forall_mem_cons

theorem within_nil : Within [] ↔ True := iff_true_intro fun _ hb => absurd hb List.not_mem_nil

theorem entryInRange_iff (e : RawEntry) :
    entryInRange e = true ↔
      Within [(1, e.kindCode, 6), (1, e.timeLimit, 10000), (0, e.pressure, 16000), (1, e.debounce, 4), (0, e.hold, 1000)] := by
  simp only [within_cons, within_nil, and_true, entryInRange, Bool.and_eq_true, and_assoc]

/-- R80: the field ranges. -/
theorem fieldsInRange_iff (m : Merged) :
    let y := m.recipe
    fieldsInRange m = true ↔
      Within
          [(50000000, y.vMain, 3000000000), (0, y.tolUnder, 100000000), (0, y.tolOver, 100000000),
            (0, y.startBand, y.vMain), (0, y.slowBand, y.vMain), (0, y.ratio, 2000), (0, y.addTol, 100000000),
            (0, y.smoothing, 4), (1, y.gain, 6), (0, y.seed.main, 50000000), (0, y.seed.additive, 50000000),
            (5, y.settleWindow, 500), (20, y.settleLimit, 5000), (0, y.bowlMin, 16000), (y.bowlMin, y.bowlMax, 16000),
            (0, y.burstDelta, 16000), (1, y.burstDebounce, 4), (1, m.planCount, 10)] ∧
        -20000 ≤ y.factor ∧ y.factor ≤ 20000 ∧
        ∀ e ∈ m.plan, Within
          [(1, e.kindCode, 6), (1, e.timeLimit, 10000), (0, e.pressure, 16000), (1, e.debounce, 4), (0, e.hold, 1000)] := by
  dsimp only
  have plan : (∀ e ∈ m.plan, Within
      [(1, e.kindCode, 6), (1, e.timeLimit, 10000), (0, e.pressure, 16000), (1, e.debounce, 4), (0, e.hold, 1000)]) ↔
      m.plan.all entryInRange = true := by
    rw [List.all_eq_true]
    exact forall₂_congr fun e _ => (entryInRange_iff e).symm
  rw [plan, fieldsInRange, recipeInRange]
  simp only [within_cons, within_nil, and_true, Bool.and_eq_true, decide_eq_true_eq]
  refine Iff.of_eq ?_
  ac_rfl

/-- R81: the plan rules, said of the codes of a plan whose kinds are all defined. -/
theorem planRules_iff {m : Merged} (hk : ∀ e ∈ m.plan, 1 ≤ e.kindCode ∧ e.kindCode ≤ 6) (ratio : Nat) :
    let ks := m.plan.map RawEntry.kindCode
    planRules ratio ((planOf m).map PhaseEntry.kind) = true ↔
      ks.count 4 = 1 ∧ ks.count 3 = (if ratio = 0 then 0 else 1) ∧
        (∃ j : Nat, ks[j]? = some 2 ∧ ∀ k : Nat, k < j → ks[k]? ≠ some 3 ∧ ks[k]? ≠ some 4) ∧ 6 ∈ ks ∧
        ∀ (j k x : Nat), j ≤ k → ks[j]? = some 6 → ks[k]? = some x → x = 6 := by
  intro ks
  have codes : ((planOf m).map PhaseEntry.kind).map phaseKindCode = ks := planOf_codes m hk
  have snift (l : List PhaseKind) : PhaseKind.snift ∈ l ↔ 6 ∈ l.map phaseKindCode := by
    rw [List.mem_map]
    exact ⟨fun h => ⟨_, h, rfl⟩, fun ⟨a, ha, hc⟩ => phaseKindCode_injective (b := .snift) hc ▸ ha⟩
  simp only [planRules, Bool.and_eq_true, decide_eq_true_eq]
  rw [countKind_codes, countKind_codes, pressuriseFirst_iff, sniftsLast_iff, List.contains_iff_mem, snift, codes]
  simp only [and_assoc]
  rfl

/-- R80 to R82: the first group of rules that fails. -/
theorem validate_fields {n : Nat} {m : Merged} (hf : fieldsInRange m = false) : validate n m = some .fieldRange := by
  rw [validate, hf]; rfl

theorem validate_plan {n : Nat} {m : Merged} (hf : fieldsInRange m = true)
    (hp : planRules m.recipe.ratio ((planOf m).map PhaseEntry.kind) = false) : validate n m = some .planInvalid := by
  rw [validate, hf, hp]; rfl

theorem validate_deadlines {n : Nat} {m : Merged} (hf : fieldsInRange m = true)
    (hp : planRules m.recipe.ratio ((planOf m).map PhaseEntry.kind) = true) :
    validate n m = if deadlinesInOrder n m.recipe.deadlines then none else some .deadlinesInvalid := by
  rw [validate, hf, hp]
  cases deadlinesInOrder n m.recipe.deadlines <;> rfl

theorem deadlinesInOrder_iff {n : Nat} {d : Deadlines} :
    deadlinesInOrder n d = true ↔ d.dFill < d.dSnift ∧ d.dSnift < d.dRelease ∧ d.dRelease ≤ n - 1 := by
  simp only [deadlinesInOrder, Bool.and_eq_true, decide_eq_true_eq, and_assoc]

/-! ### A curve (R76, R82) -/

/-- The points of a curve record whose words are `word 0`, `word 1` and so on. -/
theorem curvePointsOf_eq (word : Nat → Word) :
    let ws := (List.range 16).map word
    let count := (word 0).toNat % 16
    curveCountOf ws = count ∧
      curvePointsOf ws =
        (List.range count).map fun j => ⟨(word (1 + j)).toNat / 65536, ((word (1 + j)).setWidth 16).toInt⟩ := by
  intro ws count
  have at_ {j : Nat} (hj : j < 16) : wordAt ws j = word j := by
    rw [wordAt, List.getD_eq_getElem?_getD, List.getElem?_map, List.getElem?_range hj]
    rfl
  have counted : curveCountOf ws = count := by
    rw [curveCountOf, at_ (by decide), bits_low]
    rfl
  refine ⟨counted, ?_⟩
  rw [curvePointsOf, counted]
  refine List.map_congr_left fun j hj => ?_
  have hlt : j < count := List.mem_range.mp hj
  have bound : count < 16 := Nat.mod_lt _ (by decide)
  rw [curvePointOf, at_ (by omega), lowerHalf_eq, upperHalf_toNat]

theorem curveOf_eq (ws : List Word) :
    curveOf ws = if 2 ≤ curveCountOf ws ∧ curveCountOf ws ≤ 8 ∧ ratesRise (curvePointsOf ws) = true then
      some (curvePointsOf ws) else none := by
  rw [curveOf]
  refine if_congr ?_ rfl rfl
  rw [Bool.and_eq_true, inRange_iff, and_assoc]

theorem curveSegment_at {c : CurveRef} {g : Fin 32} (hg : c.segment = g.val) :
    curveSegment c s =
      if (s.segment g).state = .valid ∧ (s.segment g).kind = some .curve ∧ 16 * (c.index + 1) ≤ (s.segment g).length then
        some (g, s.segment g) else none := by
  obtain ⟨_, index⟩ := c
  subst hg
  rw [curveSegment, dif_pos g.isLt]
  exact if_congr ⟨fun ⟨a, b, c⟩ => ⟨b, a, c⟩, fun ⟨a, b, c⟩ => ⟨b, a, c⟩⟩ rfl rfl

section
variable {m : Meter} {next : List CurvePoint → Stage} {g : Fin 32}

theorem readCurve_unplaced (h : curveSegment ((s.head r.head).table.curve.get m) s = none) :
    readCurve m next r s = r.fail .curveInvalid (meterCode m) := by
  unfold readCurve
  dsimp only
  rw [h]

theorem readCurve_invalid (hg : curveSegment ((s.head r.head).table.curve.get m) s = some (g, s.segment g))
    (hp : curveOf (recordWords (s.segment g) ((s.head r.head).table.curve.get m).index 16 s) = none) :
    readCurve m next r s = r.fail .curveInvalid (meterCode m) := by
  unfold readCurve
  dsimp only
  rw [hg]
  dsimp only [Config.curveWords]
  rw [hp]

theorem readCurve_read {ps : List CurvePoint}
    (hg : curveSegment ((s.head r.head).table.curve.get m) s = some (g, s.segment g))
    (hp : curveOf (recordWords (s.segment g) ((s.head r.head).table.curve.get m).index 16 s) = some ps) :
    readCurve m next r s =
      { r with
        stage := next ps, readSet := if g ∈ r.readSet then r.readSet else r.readSet ++ [g], wordsRead := r.wordsRead + 16 } := by
  unfold readCurve
  dsimp only
  rw [hg]
  dsimp only [Config.curveWords]
  rw [hp, ← joinReadSet_eq]

end

/-- R82: a curve that is needed, by its four tests. -/
theorem curve_judged {m : Meter} {next : List CurvePoint → Stage} (hc : s.resolver.current = some r)
    (hs : stageStep r (s.advance time) = readCurve m next r (s.advance time)) (hn : ∀ ps f d, next ps ≠ .failed f d) :
    let c := (s.head r.head).table.curve.get m
    let reads := fun g : Fin 32 => if g ∈ r.readSet then r.readSet else r.readSet ++ [g]
    (32 ≤ c.segment → s.stepFails time r .curveInvalid (meterCode m)) ∧
      ∀ g : Fin 32, c.segment = g.val →
        let x := s.segment g
        let word := fun j => Memory.read s.tables.words (x.base + 16 * c.index + j)
        let count := (word 0).toNat % 16
        let points := (List.range count).map fun j =>
          (⟨(word (1 + j)).toNat / 65536, ((word (1 + j)).setWidth 16).toInt⟩ : CurvePoint)
        let rising := ∀ (j : Nat) (a b : CurvePoint), points[j]? = some a → points[j + 1]? = some b → a.rate < b.rate
        let placed := x.state = .valid ∧ x.kind = some .curve ∧ 16 * (c.index + 1) ≤ x.length
        (¬placed ∨ count < 2 ∨ 8 < count ∨ ¬rising → s.stepFails time r .curveInvalid (meterCode m)) ∧
          (placed → 2 ≤ count → count ≤ 8 → rising →
            s.stepsTo time { r with stage := next points, readSet := reads g, wordsRead := r.wordsRead + 16 }) := by
  intro c reads
  refine ⟨fun hl => ?_, fun g hg => ?_⟩
  · exact stepFails_of_fail hc (hs.trans (readCurve_unplaced (dif_neg (Nat.not_lt.mpr hl)))) rfl
  intro x word count points rising placed
  have segment : curveSegment c (s.advance time) = if placed then some (g, x) else none := curveSegment_at hg
  have judged : curveOf (recordWords x c.index 16 (s.advance time)) =
      if 2 ≤ count ∧ count ≤ 8 ∧ ratesRise points = true then some points else none := by
    obtain ⟨counted, pointed⟩ := curvePointsOf_eq word
    refine (curveOf_eq ((List.range 16).map word)).trans ?_
    rw [counted, pointed]
  refine ⟨fun hb => ?_, fun hp h2 h8 hr => ?_⟩
  · by_cases hp : placed
    · have shape : ¬(2 ≤ count ∧ count ≤ 8 ∧ ratesRise points = true) := by
        rintro ⟨h2, h8, hr⟩
        rcases hb with hb | hb | hb | hb
        · exact hb hp
        · exact absurd hb (Nat.not_lt.mpr h2)
        · exact absurd hb (Nat.not_lt.mpr h8)
        · exact hb ((ratesRise_iff points).mp hr)
      exact stepFails_of_fail hc
        (hs.trans (readCurve_invalid (segment.trans (if_pos hp)) (judged.trans (if_neg shape)))) rfl
    · exact stepFails_of_fail hc (hs.trans (readCurve_unplaced (segment.trans (if_neg hp)))) rfl
  · have passes : 2 ≤ count ∧ count ≤ 8 ∧ ratesRise points = true := ⟨h2, h8, (ratesRise_iff points).mpr hr⟩
    exact stepsTo_of_step hc (hs.trans (readCurve_read (segment.trans (if_pos hp)) (judged.trans (if_pos passes))))
      fun f d => hn points f d

end

/-- Settles O48, by the stage of the resolution: `following_judged`, the groups of `validate`, and `curve_judged`. -/
theorem resolutionStepFollowsTheChain : Obligations.ResolutionStepFollowsTheChain := by
  intro time s i
  refine ⟨fun hn => ?_, fun r hc => ?_⟩
  · show Host.Outcome.next (stepResolution (s.advance time)) = _
    rw [stepResolution, show (s.advance time).resolver.current = none from hn]
    rfl
  intro goes fails reads curve
  refine ⟨fun n hr => ⟨fun hn => ?_, fun k hn => ⟨fun hd => ?_, fun d hd => following_judged hc hr hn hd⟩⟩, fun m hr => ?_,
    fun m ps hr => ⟨fun h0 => ?_, fun h0 => ?_⟩, fun m ps qs hr => ?_, fun f d hr => ?_⟩
  · exact stepFails_of_fail hc ((stageStep_following hr).trans (followStep_none (.inl hn))) rfl
  · exact stepFails_of_fail hc ((stageStep_following hr).trans (followStep_none (.inr ⟨k, hn, hd⟩))) rfl
  · intro y d ks within ranges rules ordered
    have fields : fieldsInRange m = true ↔ ranges := fieldsInRange_iff m
    have stage : stageStep r (s.advance time) =
        match validate s.settings.nPos m with
        | some f => r.fail f 0
        | none => readCurve .main (fun ps => .mainRead m ps) r (s.advance time) := by
      rw [stageStep, hr]
      rfl
    have fault {f : ResFault} (hv : validate s.settings.nPos m = some f) : fails f 0 := by
      rw [hv] at stage
      exact stepFails_of_fail hc stage rfl
    have plan (hx : ranges) : planRules y.ratio ((planOf m).map PhaseEntry.kind) = true ↔ rules :=
      planRules_iff (fun e he => (hx.2.2.2 e he (1, e.kindCode, 6) List.mem_cons_self)) y.ratio
    refine ⟨fun hx => fault (validate_fields (Bool.eq_false_iff.mpr (mt fields.mp hx))), fun hx hy => ?_, fun hx hy hz => ?_,
      fun hx hy hz => ?_⟩
    · exact fault (validate_plan (fields.mpr hx) (Bool.eq_false_iff.mpr (mt (plan hx).mp hy)))
    · exact fault ((validate_deadlines (fields.mpr hx) ((plan hx).mpr hy)).trans (if_neg (mt deadlinesInOrder_iff.mp hz)))
    · have valid : validate s.settings.nPos m = none :=
        (validate_deadlines (fields.mpr hx) ((plan hx).mpr hy)).trans (if_pos (deadlinesInOrder_iff.mpr hz))
      rw [valid] at stage
      exact curve_judged (next := fun ps => .mainRead m ps) hc stage fun ps f d hf => Stage.noConfusion hf
  · refine stepsTo_of_step hc ?_ fun f d hf => Stage.noConfusion hf
    rw [stageStep, hr]
    exact if_pos h0
  · refine curve_judged (m := .additive) (next := fun qs => .curvesRead m ps (some qs)) hc ?_ fun ps f d hf => Stage.noConfusion hf
    rw [stageStep, hr]
    exact if_neg h0
  · refine stepsTo_of_step hc ?_ fun f d hf => by rw [hr] at hf; exact Stage.noConfusion hf
    rw [stageStep, hr]
  · refine stepFails_of_step hc ?_ hr rfl
    rw [stageStep, hr]

end Sys2Proof.Machine
end

section
/-! Proofs about the completion of a resolution (R77, R83, R84, R87, R92, R115): its NOT_SERVED record, the outcome that its tests
choose, the cycle that starts, and the statement O50. -/

namespace Sys2Proof.Machine

open Sys2Proof

/-! ### A resolution that ends NOT_SERVED (R87, R92, R163) -/

section
variable {s t : State} {h : HeadId} {e : QueueEntry}

theorem placeRecord_eq (hr : 0 < s.orq.reservations) (r : Record) :
    placeRecord h r s =
      appendRecord r
        { s.modSeq h fun q => { q with reserved := false } with
          orq := { s.orq with reservations := s.orq.reservations - 1 } } := by
  unfold placeRecord
  dsimp only
  rw [if_neg (Nat.pos_iff_ne_zero.mp hr)]
  rfl

/-- What a NOT_SERVED outcome leaves at its head and of the node. -/
structure NotServed (h : HeadId) (reason : NotServedReason) (a b : Nat) (e : QueueEntry) (s t : State) : Prop where
  resolver : t.resolver = s.resolver
  orq : t.orq =
    ⟨s.orq.records ++ [notServedRecord (headByte h) e.serial e.recipe reason a b], s.orq.reservations - 1, false⟩
  head : t.head h = { s.head h with seq := { s.seq h with entry := none, reserved := false, state := freeState s } }
  totals : reason ≠ .unassignedContainer → ∀ n : Fin 128, t.totals[n] =
    if n.val = e.recipe then { s.totals[n] with unservedCount := min 4294967295 (s.totals[n].unservedCount + 1) }
    else s.totals[n]

theorem resolutionNotServed_notServed (reason : NotServedReason) (a b : Nat) (he : (s.seq h).entry = some e)
    (hl : s.orq.lost = false) (hr : 0 < s.orq.reservations) :
    NotServed h reason a b e s (resolutionNotServed h reason a b s) := by
  have recipe : entryRecipe h s = e.recipe := by rw [entryRecipe, he]
  have serial : entrySerial h s = e.serial := by rw [entrySerial, he]
  obtain ⟨r, hrec⟩ : ∃ r, r = notServedRecord (headByte h) e.serial e.recipe reason a b := ⟨_, rfl⟩
  obtain ⟨p, hp⟩ : ∃ p, p = placeRecord h r s := ⟨_, rfl⟩
  obtain ⟨c, hc⟩ : ∃ c, c = countNotServed e.recipe reason p := ⟨_, rfl⟩
  have booked : Booked p c := by rw [hc]; exact booked_countNotServed p _ _
  have orq : c.orq = p.orq := by
    rw [hc, countNotServed]
    split
    · rfl
    · exact (modTotals_orq _ _).1
  have phead : p.head h = { s.head h with seq := { s.seq h with reserved := false } } := by
    rw [hp, placeRecord_eq hr]
    exact modHead_head s h fun x => { x with seq := { x.seq with reserved := false } }
  have pnode : p.ring = s.ring ∧ p.resolver = s.resolver ∧ p.totals = s.totals := by
    rw [hp, placeRecord_eq hr]
    exact ⟨rfl, rfl, rfl⟩
  have porq : p.orq = ⟨s.orq.records ++ [r], s.orq.reservations - 1, false⟩ := by
    rw [hp, (placeRecord_reserved hr r).1, hl]
    rfl
  have chead : c.head h = p.head h := by rw [State.head, State.head, booked.heads]
  have free : freeState c = freeState s := by
    rw [freeState_eq, freeState_eq, booked, pnode.1]
  have form : resolutionNotServed h reason a b s = c.modSeq h fun q => { q with entry := none, state := freeState c } := by
    rw [hc, hp, hrec, resolutionNotServed, recipe, serial]
  rw [form]
  refine ⟨?_, orq.trans (porq.trans (by rw [hrec])), ?_, fun hn n => ?_⟩
  · show c.resolver = _
    rw [booked]
    exact pnode.2.1
  · rw [State.modSeq, modHead_head, chead, phead, free]
  · show c.totals[n] = _
    have row := modTotals_row (s := p) e.recipe (fun t => { t with unservedCount := satAdd Config.maxVolume t.unservedCount 1 }) n
    rw [hc, countNotServed, if_neg hn, countUnserved, row, pnode.2.2]
    exact if_congr eq_comm rfl rfl

/-! ### The next resolution (R77) -/

/-- The Resolver after a resolution: the oldest request that waits, or none. -/
def resolverAfter : List ResRequest → Resolver
  | [] => ⟨[], none⟩
  | x :: rest =>
    ⟨rest, some ⟨x.head, x.recipe, 0, ⟨none, none, none, none, none, none⟩, .following x.recipe, [], 0, x.overtaken⟩⟩

theorem nextResolution_eq {l : List ResRequest} (hl : t.resolver.requests = l) :
    beginResolution (clearResolution t) = { t with resolver := resolverAfter l } := by
  obtain ⟨u, hu⟩ : ∃ u, u = clearResolution t := ⟨_, rfl⟩
  have node : u = { t with resolver := ⟨l, none⟩ } := by rw [hu, ← hl]; rfl
  have current : u.resolver.current = none := by rw [node]
  have requests : u.resolver.requests = l := by rw [node]
  rw [← hu]
  unfold beginResolution
  cases l with
  | nil =>
    rw [current, requests]
    exact node
  | cons x rest =>
    rw [current, requests]
    dsimp only
    rw [node]
    rfl

/-! ### The stages that remain (R87) -/

theorem finishStages_failed {r : Resolution} {f : ResFault} {d : Nat}
    (hr : r.stage = .failed f d ∨ d = 0 ∧ ∃ m, r.stage = .merged m ∧ validate s.settings.nPos m = some f) :
    (finishStages r s).stage = .failed f d ∧ (finishStages r s).head = r.head := by
  have settled {x : Resolution} {g : ResFault} {n : Nat} (hx : x.stage = .failed g n) : stageStep x s = x := by
    rw [stageStep, hx]
  rcases hr with hr | ⟨rfl, m, hr, hv⟩
  · have form : finishStages r s = r := by
      rw [finishStages, hr]
      dsimp only
      rw [settled hr, settled hr]
    rw [form]
    exact ⟨hr, rfl⟩
  · have first : stageStep r s = r.fail f 0 := by
      rw [stageStep, hr]
      dsimp only
      rw [hv]
    have form : finishStages r s = r.fail f 0 := by
      rw [finishStages, hr]
      dsimp only
      rw [first, settled (x := r.fail f 0) rfl]
    rw [form]
    exact ⟨rfl, rfl⟩

theorem finishStages_read {r : Resolution} {m : Merged} {ps : List CurvePoint} {qs : Option (List CurvePoint)}
    (hr : r.stage = .curvesRead m ps qs) : finishStages r s = r := by
  have settled : stageStep r s = r := by rw [stageStep, hr]
  rw [finishStages, hr]
  dsimp only
  rw [settled, settled]

theorem completeResolution_fault {r : Resolution} {f : ResFault} {d : Nat} (hc : s.resolver.current = some r)
    (hr : r.stage = .failed f d ∨ d = 0 ∧ ∃ m, r.stage = .merged m ∧ validate s.settings.nPos m = some f) :
    completeResolution s =
      beginResolution (clearResolution (resolutionNotServed r.head .recipeFault (resFaultCode f) d s)) := by
  obtain ⟨stage, head⟩ := finishStages_failed hr
  unfold completeResolution
  rw [hc]
  dsimp only
  rw [stage, head]

theorem completeResolution_read {r : Resolution} {m : Merged} {ps : List CurvePoint} {qs : Option (List CurvePoint)}
    (hc : s.resolver.current = some r) (hr : r.stage = .curvesRead m ps qs) :
    completeResolution s =
      beginResolution
        (clearResolution (startOrDecline r.head r.overtaken (writeCycle r.head r.named (cycleRecordOf m ps qs) s))) := by
  unfold completeResolution
  rw [hc]
  dsimp only
  rw [finishStages_read hr, hr]

/-! ### The tests of R87 -/

section
variable {c : CycleRecord} {named : Nat} {overtaken : Bool}

theorem writeCycle_head :
    (writeCycle h named c s).head h = { s.head h with table := (s.head h).table.reseed named c.recipe.seed, cycle := some c } :=
  modHead_head s h _

/-- R87: the elapsed count is at or past D_fill of the cycle record. -/
theorem late_written : reached h (headDeadlines h (writeCycle h named c s)).dFill (writeCycle h named c s) = true ↔
    ∃ n, (s.seq h).elapsed = some n ∧ c.recipe.deadlines.dFill ≤ n := by
  have elapsed : ((writeCycle h named c s).seq h).elapsed = (s.seq h).elapsed := by rw [State.seq, writeCycle_head]; rfl
  rw [reached, headDeadlines, writeCycle_head, elapsed]
  cases (s.seq h).elapsed <;> simp

theorem declineReason_lost : declineReason h true s = some .ringLoss := rfl

section
variable (u : State) (hu : u = writeCycle h named c s)
include hu

theorem declineReason_late (hl : ∃ n, (s.seq h).elapsed = some n ∧ c.recipe.deadlines.dFill ≤ n) :
    declineReason h false u = some .late := by
  subst hu
  rw [declineReason, if_neg (by decide), if_pos (late_written.mpr hl)]

theorem declineReason_sensor (hl : ¬∃ n, (s.seq h).elapsed = some n ∧ c.recipe.deadlines.dFill ≤ n)
    (hb : s.scanner.bowl.fault = true ∨ s.scanner.bowl.value = none) : declineReason h false u = some .bowlSensor := by
  have bowl : u.scanner = s.scanner := by rw [hu]; rfl
  rw [declineReason, if_neg (by decide), hu, if_neg (mt late_written.mp hl), ← hu, bowl]
  cases hv : s.scanner.bowl.value with
  | none => rfl
  | some b => exact if_pos (hb.resolve_right (by rw [hv]; exact Option.some_ne_none b))

theorem declineReason_pressure (hl : ¬∃ n, (s.seq h).elapsed = some n ∧ c.recipe.deadlines.dFill ≤ n)
    (hf : s.scanner.bowl.fault = false) {b : Nat} (hb : s.scanner.bowl.value = some b) :
    declineReason h false u = if b < c.recipe.bowlMin ∨ c.recipe.bowlMax < b then some .bowlPressure else none := by
  have bowl : u.scanner = s.scanner := by rw [hu]; rfl
  have field (f : Recipe → Nat) : cycleField h f u = f c.recipe := by rw [cycleField, hu, writeCycle_head]
  rw [declineReason, if_neg (by decide), hu, if_neg (mt late_written.mp hl), ← hu, bowl, hb, field, field]
  exact if_neg (by rw [hf]; decide)

end

end

end

/-! ### A cycle that starts with PURGE (R87, R115) -/

section
variable {s : State} {h : HeadId} {c : CycleRecord} {x : PhaseEntry} {rest : List PhaseEntry}

/-- What a cycle that starts with PURGE leaves at its head. -/
structure Purges (h : HeadId) (x : PhaseEntry) (s t : State) : Prop where
  seq : t.seq h =
    { (s.seq h).begin x s.now with
      state := .running
      planIndex := 1
      flags := { (s.seq h).flags with stepMode := (s.seq h).flags.stepMode || (s.seq h).stepMode }
      equalised := false }
  gas : (t.valve h .gas).request = true
  snift : (t.valve h .snift).request = true
  cycle : (t.head h).cycle = (s.head h).cycle
  table : (t.head h).table = (s.head h).table
  chan : ∀ k, t.chan h k = (s.chan h k).idle

/-- PURGE opens GAS and SNIFT and clears the equalised flag; channels and head table stay. -/
theorem purge_head (s : State) :
    let t := clearEqualised h (requestOpen h .snift (requestOpen h .gas s))
    (t.head h).table = (s.head h).table ∧ ∀ k, t.chan h k = s.chan h k := by
  have opened : Plumbing h s (requestOpen h .snift (requestOpen h .gas s)) :=
    (plumbing_requestOpen s h .gas).trans (plumbing_requestOpen _ h .snift)
  intro t
  have cleared (u : State) : ((clearEqualised h u).head h).table = (u.head h).table ∧ ∀ k, (clearEqualised h u).chan h k = u.chan h k := by
    unfold clearEqualised
    split
    · have closed := plumbing_interlockClose (u.modSeq h fun q => { q with equalised := false }) h 0
      refine ⟨closed.table.trans (by rw [State.modSeq, modHead_head]), fun k => (closed.chan h k).trans (modSeq_chan u h h k _)⟩
    · exact ⟨rfl, fun _ => rfl⟩
  exact ⟨(cleared _).1.trans opened.table, fun k => ((cleared _).2 k).trans (opened.chan h k)⟩

theorem startCycle_purges (hc : (s.head h).cycle = some c) (hp : c.plan = x :: rest) (hk : x.kind = .purge) :
    Purges h x s (startCycle h s) := by
  obtain ⟨u, hu⟩ : ∃ u, u = (resetChannels h s).modSeq h fun q =>
    { q with state := .running, planIndex := 0, flags := { q.flags with stepMode := q.flags.stepMode || q.stepMode } } := ⟨_, rfl⟩
  have rhead : (resetChannels h s).head h =
      { s.head h with chan := ⟨(s.head h).chan.main.idle, (s.head h).chan.additive.idle⟩ } := modHead_head s h _
  have seq : u.seq h =
      { s.seq h with
        state := .running, planIndex := 0
        flags := { (s.seq h).flags with stepMode := (s.seq h).flags.stepMode || (s.seq h).stepMode } } := by
    rw [hu, modSeq_seq, State.seq, rhead]
    rfl
  have uhead : (u.head h).cycle = (s.head h).cycle ∧ (u.head h).table = (s.head h).table := by
    rw [hu, State.modSeq, modHead_head, rhead]
    exact ⟨rfl, rfl⟩
  have chan (k : Meter) : u.chan h k = (s.chan h k).idle := by
    rw [hu, modSeq_chan, State.chan, rhead]
    cases k with
    | main => rfl
    | additive => rfl
  have now : u.now = s.now := by rw [hu]; rfl
  have start := startEntry_purge (s := u.entered h x) (h := h) hk
  have form : startCycle h s = clearEqualised h (requestOpen h .snift (requestOpen h .gas (u.entered h x))) := by
    rw [startCycle, ← hu, nextEntry_waits (c := c) (uhead.1.trans hc) (by rw [seq, hp]; rfl) (by rw [start]), start]
  obtain ⟨table, chans⟩ := purge_head (h := h) (u.entered h x)
  rw [form]
  refine ⟨?_, opened_request purge_gas, opened_request purge_snift, ?_, ?_, fun k => ?_⟩
  · rw [purge_seq, entered_seq, seq, now]
    rfl
  · rw [← form, (work_startCycle s h).cycle]
  · rw [table, entered_head, uhead.2]
  · rw [chans, entered_chan, chan]

end

/-- Settles O50: a fault and the four tests by `resolutionNotServed_notServed`, the start by `startCycle_purges`, and the
Resolver by `nextResolution_eq`. -/
theorem resolutionEndsWithItsOutcome : Obligations.ResolutionEndsWithItsOutcome := by
  intro time l r e s hres he hl ho next free stands record
  have step : exec (.resolutionComplete time) s = .next (completeResolution (s.advance time)) := rfl
  have current : (s.advance time).resolver.current = some r := congrArg Resolver.current hres
  have waiting : (s.advance time).resolver.requests = l := congrArg Resolver.requests hres
  have after : resolverAfter l = next := by
    cases l with
    | nil => rfl
    | cons x rest => rfl
  refine ⟨fun f d hr => ?_, fun m ps qs hr => ?_⟩
  · have complete := completeResolution_fault (s := s.advance time) current hr
    have ended := resolutionNotServed_notServed (s := s.advance time) .recipeFault (resFaultCode f) d he hl ho
    rw [nextResolution_eq (l := l) ((congrArg Resolver.requests ended.resolver).trans waiting), after] at complete
    refine ⟨_, step.trans (congrArg _ complete), rfl, ended.orq, ?_, ?_, ?_, ?_, ?_⟩
    · exact (congrArg (fun x : Head => x.seq.state) ended.head :).trans freeState_eq
    · exact (congrArg (fun x : Head => x.seq.entry) ended.head :)
    · exact (congrArg (fun x : Head => x.seq.reserved) ended.head :)
    · exact (congrArg Head.table ended.head :)
    · exact (congrArg Head.cycle ended.head :)
  intro old record2 table2 declined early
  obtain ⟨u, hu⟩ : ∃ u, u = writeCycle r.head r.named record2 (s.advance time) := ⟨_, rfl⟩
  have uhead : u.head r.head = { s.head r.head with table := table2, cycle := some record2 } := by
    rw [hu]
    exact writeCycle_head
  have unode : u.orq = s.orq ∧ u.totals = s.totals ∧ u.ring = s.ring ∧ u.now = max s.now time ∧
      u.resolver = ⟨l, some r⟩ := by
    rw [hu, ← hres]
    exact ⟨rfl, rfl, rfl, rfl, rfl⟩
  obtain ⟨orq, totals, ring, now, resolver⟩ := unode
  have entry : (u.seq r.head).entry = some e := by
    rw [State.seq, uhead]
    exact he
  have complete : completeResolution (s.advance time) = beginResolution (clearResolution (startOrDecline r.head r.overtaken u)) := by
    rw [hu]
    exact completeResolution_read current hr
  have decline (reason : NotServedReason) (hd : declineReason r.head r.overtaken u = some reason)
      (hn : reason ≠ .unassignedContainer) : declined (BitVec.ofNat 8 reason.code) := by
    have ended := resolutionNotServed_notServed (s := u) reason 0 0 entry (by rw [orq]; exact hl) (by rw [orq]; exact ho)
    rw [startOrDecline, hd] at complete
    dsimp only at complete
    rw [nextResolution_eq (l := l) (by rw [ended.resolver, resolver]), after] at complete
    refine ⟨_, step.trans (congrArg _ complete), rfl, ?_, ?_, ?_, ?_, ?_, ?_, ?_, fun n => ?_⟩
    · refine ended.orq.trans ?_
      rw [orq]
      rfl
    · refine (congrArg (fun x : Head => x.seq.state) ended.head :).trans (freeState_eq.trans ?_)
      rw [ring]
    · exact (congrArg (fun x : Head => x.seq.entry) ended.head :)
    · exact (congrArg (fun x : Head => x.seq.reserved) ended.head :)
    · exact (congrArg Head.cycle ended.head :).trans (congrArg Head.cycle uhead)
    · exact (congrArg Head.table ended.head :).trans (congrArg Head.table uhead)
    · exact (congrArg Head.valves ended.head :).trans (congrArg Head.valves uhead :)
    · refine (ended.totals hn n).trans ?_
      rw [totals]
  have notLate (hx : early) : ¬∃ n, (s.seq r.head).elapsed = some n ∧ record2.recipe.deadlines.dFill ≤ n :=
    fun ⟨n, hn, hle⟩ => absurd (hx n hn) (Nat.not_lt.mpr hle)
  refine ⟨fun hv => ?_, fun hv n hn hle => ?_, fun hv hx hb => ?_, fun hv hx hf b hb hr => ?_,
    fun b x rest hv hx hf hb hmin hmax hp hk => ?_⟩
  · exact decline .ringLoss (by rw [hv]; rfl) (by decide)
  · exact decline .late (by rw [hv]; exact declineReason_late u hu ⟨n, hn, hle⟩) (by decide)
  · refine decline .bowlSensor ?_ (by decide)
    rw [hv, declineReason_sensor (s := s.advance time) u hu (notLate hx) hb]
  · refine decline .bowlPressure ?_ (by decide)
    rw [hv, declineReason_pressure (s := s.advance time) u hu (notLate hx) hf hb]
    exact if_pos hr
  · have starts : declineReason r.head r.overtaken u = none := by
      rw [hv, declineReason_pressure (s := s.advance time) u hu (notLate hx) hf hb]
      exact if_neg (not_or.mpr ⟨Nat.not_lt.mpr hmin, Nat.not_lt.mpr hmax⟩)
    have purges := startCycle_purges (s := u) (h := r.head) (c := record2) (congrArg Head.cycle uhead) hp hk
    rw [startOrDecline, starts] at complete
    dsimp only at complete
    rw [nextResolution_eq (l := l) (by rw [(work_startCycle u r.head).resolver, resolver]), after] at complete
    refine ⟨_, step.trans (congrArg _ complete), rfl, ?_, ?_, ?_, ?_, ?_, ?_, purges.gas, purges.snift, ?_, ?_, fun k => ?_⟩
    · exact (congrArg Sequencer.state purges.seq :)
    · exact (congrArg Sequencer.planIndex purges.seq :)
    · exact (congrArg Sequencer.progress purges.seq :)
    · refine (congrArg Sequencer.timer purges.seq :).trans ?_
      rw [now]
      rfl
    · exact (congrArg Sequencer.entry purges.seq :).trans entry
    · exact (congrArg Sequencer.equalised purges.seq :)
    · exact purges.cycle.trans (congrArg Head.cycle uhead)
    · exact purges.table.trans (congrArg Head.table uhead)
    · refine (purges.chan k).trans ?_
      rw [show u.chan r.head k = s.chan r.head k from
        (congrArg (fun x : Head => x.chan.get k) uhead :)]
      rfl

end Sys2Proof.Machine
end

section
/-! Proofs about a frame that passes the node (R2 to R10, R158): how it leaves, which content is used, its attention bit and its
result slots; the statements O12 to O15. -/

namespace Sys2Proof.Machine

open Sys2Proof

/-! ### A frame arrives (R1, R10) -/

section
variable {s : State} {f : Frame} {i : Instr} {time : Ticks}

theorem exec_frame (hi : i ∈ [Instr.pitchFrame time f, .serviceFrame time f, .frameOfUndefinedKind time f]) :
    exec i s = .next (receiveFrame f (s.advance time)) := by
  simp only [List.mem_cons, List.not_mem_nil, or_false] at hi
  rcases hi with rfl | rfl | rfl
  · rfl
  · rfl
  · rfl

theorem exec_usable (hi : i ∈ [Instr.pitchFrame time f, .serviceFrame time f]) :
    exec i s = .next (receiveFrame f (s.advance time)) :=
  exec_frame (by
    rcases List.mem_cons.mp hi with rfl | hi
    · exact List.mem_cons_self
    · exact List.mem_cons_of_mem _ (List.mem_cons.mpr (.inl (List.mem_singleton.mp hi))))

theorem receiveFrame_through (h : s.ring.state = .bypass ∨ s.resetHeld = true) :
    receiveFrame f s = { s with frameOut := some f } := if_pos h.symm

theorem receiveFrame_passes (hr : s.resetHeld = false) (hb : s.ring.state ≠ .bypass) (hs : s.resetScheduled = false) :
    receiveFrame f s = passFrame f s := by
  rw [receiveFrame, if_neg (by rw [hr]; exact fun h => h.elim (by decide) hb), takeScheduled_of_none hs]

/-! ### A frame leaves (R6, R7, R185) -/

/-- The state behind a frame that leaves, `x` being the frame and the state that its processing has left. -/
def State.sends (insert : Bool) (x : Frame × State) : State :=
  { x.2 with
    ring := { x.2.ring with damagePending := x.2.ring.damagePending && !insert }
    frameOut := some (forwarded insert x.1) }

theorem passFrame_sends : passFrame f s = State.sends s.ring.damagePending (processFrame f s) := by
  obtain ⟨x, hx⟩ : ∃ x, x = processFrame f s := ⟨_, rfl⟩
  unfold passFrame State.sends
  rw [← hx]
  dsimp only
  generalize forwarded s.ring.damagePending x.1 = g
  cases s.ring.damagePending with
  | false => rw [if_neg (by decide), Bool.not_false, Bool.and_true]
  | true => rw [if_pos rfl, Bool.not_true, Bool.and_false]; rfl

theorem raisedHop_eq (hop : Byte) : raisedHop hop = BitVec.ofNat 8 (min 255 (hop.toNat + 1)) := by
  unfold raisedHop
  split
  · subst hop
    rfl
  · have := hop.isLt
    apply BitVec.eq_of_toNat_eq
    rw [BitVec.toNat_ofNat]
    bv_omega

theorem raisedHop_toNat (hop : Byte) : (raisedHop hop).toNat = min 255 (hop.toNat + 1) := by
  rw [raisedHop_eq, BitVec.toNat_ofNat]
  exact Nat.mod_eq_of_lt ((min_le_left _ _).trans_lt (by decide))

/-- The check covers the raised hop count and no check. -/
theorem forwarded_eq (insert : Bool) :
    forwarded insert f =
      { f with
        hop := raisedHop f.hop
        check := if insert then ~~~checkOf (frameContent { f with hop := raisedHop f.hop })
          else checkOf (frameContent { f with hop := raisedHop f.hop }) } := by
  unfold forwarded freshCheck
  dsimp only
  generalize checkOf (frameContent { f with hop := raisedHop f.hop }) = c
  cases insert with
  | false => rfl
  | true => rfl

theorem frameContent_check (x : Half) : frameContent { f with check := x } = frameContent f := rfl

theorem forwarded_check (insert : Bool) :
    (forwarded insert f).check =
      if insert then ~~~checkOf (frameContent (forwarded insert f)) else checkOf (frameContent (forwarded insert f)) := by
  have content : frameContent (forwarded insert f) = frameContent { f with hop := raisedHop f.hop } := by
    rw [forwarded_eq]
    exact frameContent_check (f := { f with hop := raisedHop f.hop }) _
  rw [content, forwarded_eq]

/-! ### Processing keeps the hop count -/

theorem offered_hop (g : Frame) : (resultStep g s).1.hop = g.hop := by
  unfold resultStep
  split
  · rfl
  · rfl

theorem attentionStep_eq : attentionStep f s =
    { f with
      attention := match s.ring.address with
        | some a => writeAttention f.attention a (attentionOn s)
        | none => f.attention } := by
  unfold attentionStep
  cases s.ring.address with
  | none => rfl
  | some a => rfl

theorem attentionStep_hop : (attentionStep f s).hop = f.hop := by rw [attentionStep_eq]

theorem managementStep_hop : (managementStep f s).1.hop = f.hop := rfl

theorem assignmentStep_hop : (assignmentStep f s).1.hop = f.hop := rfl

theorem useFrame_hop : (useFrame f s).1.hop = f.hop := by
  unfold useFrame
  dsimp only
  rw [attentionStep_hop, offered_hop, managementStep_hop, assignmentStep_hop]

theorem processFrame_hop : (processFrame f s).1.hop = f.hop := by
  unfold processFrame
  split
  · rfl
  · split
    · rfl
    · exact useFrame_hop

end

/-- Settles O12: `receiveFrame_through`, and `passFrame_sends` with `forwarded_check`. -/
theorem framesAreForwarded : Obligations.FramesAreForwarded := by
  intro time f i s hi
  have step := exec_frame (s := s) hi
  refine ⟨fun hb => ?_, fun hr hb hs => ?_⟩
  · rw [step, receiveFrame_through (s := s.advance time) hb]
    rfl
  · obtain ⟨x, hx⟩ : ∃ x, x = processFrame f (s.advance time) := ⟨_, rfl⟩
    rw [receiveFrame_passes (s := s.advance time) hr hb hs, passFrame_sends, ← hx] at step
    have check := forwarded_check (f := x.1) s.ring.damagePending
    refine ⟨_, forwarded s.ring.damagePending x.1, step, rfl, ?_, fun hd => ?_, fun hd => ⟨?_, ?_⟩⟩
    · rw [forwarded_eq]
      show (raisedHop x.1.hop).toNat = _
      rw [raisedHop_toNat, hx, processFrame_hop]
    · rw [hd] at check ⊢
      exact check
    · rw [hd] at check ⊢
      exact check
    · show (x.2.ring.damagePending && !s.ring.damagePending) = false
      rw [hd, Bool.not_true, Bool.and_false]

/-! ### A frame whose content is not used (R3, R4) -/

section
variable {s : State} {f : Frame}

theorem goodFrame_iff : goodFrame f = true ↔ checkOf (frameContent f) = f.check := beq_iff_eq

theorem processFrame_bad (h : checkOf (frameContent f) ≠ f.check) :
    processFrame f s = ({ f with damage := 1#8 }, countEvent .damagedFrames s) :=
  if_pos (by rw [Bool.eq_false_iff.mpr (mt goodFrame_iff.mp h)]; rfl)

theorem usableFrame_iff : usableFrame f = true ↔ f.damage = 0#8 ∧ f.kind ∈ [1#8, 2#8] ∧ f.carousel ∈ [1#8, 2#8, 3#8] := by
  have carousel : (carouselOf f.carousel).isSome = true ↔ f.carousel ∈ [1#8, 2#8, 3#8] := by
    unfold carouselOf
    simp only [List.mem_cons, List.not_mem_nil, or_false]
    split_ifs with h1 h2 h3
    · simp [h1]
    · simp [h2]
    · simp [h3]
    · simp [h1, h2, h3]
  rw [usableFrame, Bool.and_eq_true, Bool.and_eq_true, carousel, damageMarked, definedFrameKind]
  simp [and_assoc]

theorem processFrame_unused (hg : checkOf (frameContent f) = f.check) (hu : usableFrame f = false) : processFrame f s = (f, s) := by
  rw [processFrame, if_neg (by rw [goodFrame_iff.mpr hg]; decide), if_pos (by rw [hu]; rfl)]

theorem processFrame_used (hg : goodFrame f = true) (hu : usableFrame f = true) : processFrame f s = useFrame f s := by
  rw [processFrame, if_neg (by rw [hg]; decide), if_neg (by rw [hu]; decide)]

theorem countEvent_totals (c : CounterId) (s : State) : (countEvent c s).totals = s.totals := by
  unfold countEvent
  split
  · exact enterUnreserved_totals _
  · rfl

end

/-- Settles O13: `processFrame_bad` and `processFrame_unused`. -/
theorem unusedFramesAreForwarded : Obligations.UnusedFramesAreForwarded := by
  intro time f i s hi hr hb hs sent hop
  have step := exec_frame (s := s) hi
  rw [receiveFrame_passes (s := s.advance time) hr hb hs, passFrame_sends] at step
  have out (g : Frame) (hg : g.hop = f.hop) : some (forwarded s.ring.damagePending g) = sent { g with hop := hop } := by
    rw [forwarded_eq, hg, raisedHop_eq]
  refine ⟨fun hc => ?_, fun hc hu => ?_⟩
  · rw [processFrame_bad hc] at step
    obtain ⟨t, ht⟩ : ∃ t, t = countEvent .damagedFrames (s.advance time) := ⟨_, rfl⟩
    have booked : Booked (s.advance time) t := by rw [ht]; exact booked_countEvent _ _
    have totals : t.totals = s.totals := by rw [ht]; exact countEvent_totals _ _
    have ring : t.ring = s.ring := by rw [booked]; rfl
    rw [← ht] at step
    refine ⟨_, step, ?_, out { f with damage := 1#8 } rfl, ?_, ?_, ?_, fun hn => ?_⟩
    · show t.counter .damagedFrames = _
      rw [ht, countEvent_counter (by decide), State.counter, advance_counters, State.counter]
    · show { t with counters := s.counters, orq := s.orq, frameOut := s.frameOut, now := s.now, ring := s.ring } = s
      rw [booked, totals]
      rfl
    · show { t.ring with damagePending := t.ring.damagePending && !s.ring.damagePending } = _
      rw [ring, Bool.and_not_self]
    · show t.now = _
      rw [booked]
      rfl
    · have plain : t = setCounter .damagedFrames (s.counter .damagedFrames + 1#16) (s.advance time) := by
        rw [ht]
        exact countEvent_eq hn
      refine ⟨by rw [plain]; rfl, fun c hne => ?_⟩
      show t.counter c = _
      rw [plain]
      exact setCounter_counter_ne _ _ _ _ hne
  · have unused : usableFrame f = false := by
      rw [Bool.eq_false_iff]
      intro h
      obtain ⟨hd, hk, ha⟩ := usableFrame_iff.mp h
      exact hu.elim (fun h => h hd) fun h => h.elim (fun h => h hk) fun h => h ha
    rw [processFrame_unused hc unused] at step
    rw [step]
    refine congrArg Host.Outcome.next ?_
    have ring : ({ s.ring with damagePending := s.ring.damagePending && !s.ring.damagePending } : RingPort) =
        { s.ring with damagePending := false } := by rw [Bool.and_not_self]
    rw [← out f rfl, ← ring]
    rfl

/-! ### Result slots (R158) -/

section
variable {s : State} {f : Frame} {node : Byte} {rs : List Record} {r : ResultSlot} {ins : List ResultSlot} {e k : Nat}

/-- How many of the first `k` slots are EMPTY. -/
def emptyBefore (ins : List ResultSlot) (k : Nat) : Nat := ((ins.take k).filter fun x => x.kind == 0#8).length

theorem emptyBefore_succ (hk : ins[k]? = some r) : emptyBefore ins (k + 1) = emptyBefore ins k + if r.kind = 0#8 then 1 else 0 := by
  rw [emptyBefore, emptyBefore, List.take_add_one, hk, List.filter_append, List.length_append]
  by_cases h : r.kind = 0#8
  · simp [h]
  · simp [h]

theorem emptyBefore_mono {j : Nat} (h : j ≤ k) : emptyBefore ins j ≤ emptyBefore ins k := by
  have sub : (ins.take j).Sublist (ins.take k) := List.take_sublist_take_left h
  exact (sub.filter _).length_le

/-- The offers that are left once `e` EMPTY slots have been offered `rs`: how many are written, and the records that remain. -/
def offered (rs : List Record) (e : Nat) : Nat × List Record :=
  (min 2 (min e rs.length), rs.drop (min 2 (min e rs.length)))

/-- The next slot takes record `e` when it is EMPTY and fewer than two are written. -/
theorem offerSlot_offered :
    offerSlot node r (offered rs e) =
      (match rs[e]? with
        | some y => if r.kind = 0#8 ∧ e < 2 then slotOfRecord node y else r
        | none => r,
       offered rs (e + if r.kind = 0#8 then 1 else 0)) := by
  by_cases hl : e < rs.length
  · have here : rs[e]? = some rs[e] := List.getElem?_eq_getElem hl
    rw [here]
    dsimp only
    by_cases h2 : e < 2
    · have count : min 2 (min e rs.length) = e := by omega
      have rest : rs.drop e = rs[e] :: rs.drop (e + 1) := List.drop_eq_getElem_cons hl
      unfold offerSlot offered
      rw [count]
      rw [rest]
      dsimp only
      by_cases hr : r.kind = 0#8
      · have next : min 2 (min (e + 1) rs.length) = e + 1 := by omega
        rw [if_pos ⟨hr, h2⟩, if_pos ⟨hr, h2⟩, if_pos hr, next]
      · rw [if_neg fun h => hr h.1, if_neg fun h => hr h.1, if_neg hr, show min 2 (min (e + 0) rs.length) = e from count, rest]
    · have count : min 2 (min e rs.length) = 2 := by omega
      have next (n : Nat) : min 2 (min (e + n) rs.length) = 2 := by omega
      unfold offerSlot offered
      rw [count, next, if_neg fun h => h2 h.2]
      dsimp only
      split
      · rfl
      · rename_i heq
        rw [if_neg fun h => absurd h.2 (by decide), heq]
  · have none : rs[e]? = none := List.getElem?_eq_none (Nat.le_of_not_lt hl)
    rw [none]
    dsimp only
    have count (n : Nat) : min 2 (min (e + n) rs.length) = min 2 rs.length := by omega
    unfold offerSlot offered
    have count0 := count 0
    rw [Nat.add_zero] at count0
    rw [count, count0]
    dsimp only
    split
    · rfl
    · rename_i x rest heq
      have two : ¬min 2 rs.length < 2 := by
        have := congrArg List.length heq
        rw [List.length_drop, List.length_cons] at this
        omega
      rw [if_neg fun h => two h.2, heq]

end

section
variable {s : State} {f : Frame}

/-- What a result slot shows behind the frame: record `e` of the queue where the slot was EMPTY and fewer than `n` stand before. -/
def filledSlot (node : Byte) (n : Nat) (rs : List Record) (x : ResultSlot) (e : Nat) : ResultSlot :=
  match rs[e]? with
  | some y => if x.kind = 0#8 ∧ e < n then slotOfRecord node y else x
  | none => x

/-- How many records a frame takes. -/
def recordsWritten (f : Frame) (s : State) : Nat :=
  if s.ring.state = .locked ∨ s.ring.state = .holdover then
    min 2 (min (emptyBefore [f.r0, f.r1, f.r2, f.r3] 4) s.orq.records.length)
  else 0

theorem ringServes_iff : ringServes s = true ↔ s.ring.state = .locked ∨ s.ring.state = .holdover := by
  rw [ringServes, Bool.or_eq_true, beq_iff_eq, beq_iff_eq]

/-- R158: the oldest records fill the EMPTY slots in slot order. -/
theorem resultStep_fills (f : Frame) (s : State) :
    let ins := [f.r0, f.r1, f.r2, f.r3]
    let n := recordsWritten f s
    let out := fun x k => filledSlot (nodeField s) n s.orq.records x (emptyBefore ins k)
    resultStep f s =
      ({ f with r0 := out f.r0 0, r1 := out f.r1 1, r2 := out f.r2 2, r3 := out f.r3 3 },
       { s with orq := { s.orq with records := s.orq.records.drop n } }) := by
  intro ins n out
  by_cases hs : s.ring.state = .locked ∨ s.ring.state = .holdover
  · have written : n = min 2 (min (emptyBefore ins 4) s.orq.records.length) := if_pos hs
    have e1 : emptyBefore ins 1 = emptyBefore ins 0 + if f.r0.kind = 0#8 then 1 else 0 := emptyBefore_succ rfl
    have e2 : emptyBefore ins 2 = emptyBefore ins 1 + if f.r1.kind = 0#8 then 1 else 0 := emptyBefore_succ rfl
    have e3 : emptyBefore ins 3 = emptyBefore ins 2 + if f.r2.kind = 0#8 then 1 else 0 := emptyBefore_succ rfl
    have e4 : emptyBefore ins 4 = emptyBefore ins 3 + if f.r3.kind = 0#8 then 1 else 0 := emptyBefore_succ rfl
    have filled {x : ResultSlot} {k : Nat} (hk : emptyBefore ins (k + 1) = emptyBefore ins k + if x.kind = 0#8 then 1 else 0)
        (h4 : k + 1 ≤ 4) :
        offerSlot (nodeField s) x (offered s.orq.records (emptyBefore ins k)) =
          (out x k, offered s.orq.records (emptyBefore ins (k + 1))) := by
      have last : emptyBefore ins (k + 1) ≤ emptyBefore ins 4 := emptyBefore_mono h4
      rw [offerSlot_offered, hk]
      refine Prod.ext ?_ rfl
      show _ = filledSlot _ _ _ _ _
      unfold filledSlot
      cases hy : s.orq.records[emptyBefore ins k]? with
      | none => rfl
      | some y =>
        have inside := (List.getElem?_eq_some_iff.mp hy).1
        refine if_congr (and_congr_right fun hx => ?_) rfl rfl
        rw [if_pos hx] at hk
        rw [written]
        omega
    have start : ((0, s.orq.records) : Nat × List Record) = offered s.orq.records (emptyBefore ins 0) := by
      rw [offered, show emptyBefore ins 0 = 0 from rfl]
      simp
    unfold resultStep
    rw [if_pos (ringServes_iff.mpr hs)]
    dsimp only
    rw [start, filled e1 (by decide), filled e2 (by decide), filled e3 (by decide), filled e4 (by decide), written]
    rfl
  · have none : n = 0 := if_neg hs
    have same (x : ResultSlot) (k : Nat) : out x k = x := by
      show filledSlot _ _ _ _ _ = _
      unfold filledSlot
      rw [none]
      split
      · exact if_neg fun h => absurd h.2 (Nat.not_lt_zero _)
      · rfl
    rw [resultStep, if_neg (mt ringServes_iff.mp hs), same, same, same, same, none, List.drop_zero]

/-! ### A frame whose content is used (R5) -/

/-- The frame ahead of its result slots, and the state: behind the six assignment slots and the management slot. -/
def frameServed (f : Frame) (s : State) : Frame × State :=
  let x := assignmentStep f (headerStep f (addressStep f.hop s))
  managementStep x.1 x.2

theorem frameServed_state : (frameServed f s).2 = served f s := by
  rw [frameServed, managementStep, served, ← assignmentStep_state, assignmentStep_mgmt]

theorem useFrame_eq :
    useFrame f s =
      (attentionStep (resultStep (frameServed f s).1 (served f s)).1 (resultStep (frameServed f s).1 (served f s)).2,
       (resultStep (frameServed f s).1 (served f s)).2) := by
  rw [← frameServed_state]
  rfl

/-- What the frame leaves when it is sent behind its result slots: of `v`, only the records that left, the pending damage insertion
and the frame on ring OUT differ. -/
def sentServed (insert : Bool) (g : Frame) (v : State) : State :=
  State.sends insert (attentionStep (resultStep g v).1 (resultStep g v).2, (resultStep g v).2)

theorem sentServed_eq (insert : Bool) (g : Frame) (v : State) :
    sentServed insert g v =
      { v with
        orq := { v.orq with records := v.orq.records.drop (recordsWritten g v) }
        ring := { v.ring with damagePending := v.ring.damagePending && !insert }
        frameOut := some (forwarded insert (attentionStep (resultStep g v).1 (resultStep g v).2)) } := by
  have left : (resultStep g v).2 = { v with orq := { v.orq with records := v.orq.records.drop (recordsWritten g v) } } :=
    congrArg Prod.snd (resultStep_fills g v)
  obtain ⟨x, hx⟩ : ∃ x, x = attentionStep (resultStep g v).1 (resultStep g v).2 := ⟨_, rfl⟩
  rw [sentServed, ← hx, State.sends]
  dsimp only
  rw [left]

theorem exec_used {time : Ticks} {i : Instr} (hi : i ∈ [Instr.pitchFrame time f, .serviceFrame time f]) (hu : s.usesFrame f)
    (hb : s.ring.state ≠ .bypass) :
    exec i s = .next
      (sentServed s.ring.damagePending (frameServed f (s.advance time)).1 (served f (s.advance time))) := by
  obtain ⟨held, scheduled, good, usable⟩ := hu
  rw [exec_usable hi, receiveFrame_passes (s := s.advance time) held hb scheduled, passFrame_sends,
    processFrame_used good usable, useFrame_eq, sentServed]
  rfl

end

section
variable {s v : State} {f g : Frame} {insert : Bool}

theorem forwarded_attention : (forwarded insert f).attention = f.attention := by rw [forwarded_eq]

theorem writeAttention_bit (w : Word) (a b : Fin 32) (on : Bool) :
    (writeAttention w a on).getLsbD b.val = if b = a then on else w.getLsbD b.val := by
  have single : (attentionBit a).getLsbD b.val = decide (b = a) := by
    have hb := b.isLt
    have ha := a.isLt
    rw [attentionBit, BitVec.getLsbD_shiftLeft, BitVec.getLsbD_one]
    by_cases h : b = a
    · subst h
      simp [hb]
    · have : b.val ≠ a.val := fun e => h (Fin.ext e)
      simp only [h, decide_false, Bool.and_eq_false_iff, decide_eq_false_iff_not, Bool.not_eq_false']
      by_cases hlt : b.val < a.val
      · left; right
        simp [hlt]
      · right
        right
        omega
  unfold writeAttention
  cases on with
  | true =>
    rw [if_pos rfl, BitVec.getLsbD_or, single]
    by_cases h : b = a <;> simp [h]
  | false =>
    rw [if_neg (by decide), BitVec.getLsbD_and, BitVec.getLsbD_not, single]
    have hb := b.isLt
    by_cases h : b = a <;> simp [h, hb]

theorem attentionOn_iff : attentionOn s = true ↔
    s.ring.state = .failed ∨ (∃ r ∈ s.orq.records, r.kind = .alarm) ∨ ∃ h : HeadId, (s.seq h).state = .fault := by
  rw [attentionOn, Bool.or_eq_true, Bool.or_eq_true, beq_iff_eq, List.any_eq_true, any_allHeads, or_assoc]
  simp only [beq_iff_eq]

/-- R8: only the latched address's bit is written. -/
theorem sentServed_attention {out : Frame} (ho : (sentServed insert g v).frameOut = some out) :
    let t := sentServed insert g v
    out.attention =
      match t.ring.address with
      | some a => writeAttention g.attention a (attentionOn t)
      | none => g.attention := by
  intro t
  have same : t.frameOut = some (forwarded insert (attentionStep (resultStep g v).1 (resultStep g v).2)) :=
    congrArg State.frameOut (sentServed_eq insert g v)
  rw [ho, Option.some.injEq] at same
  have kept : (resultStep g v).1.attention = g.attention := by rw [resultStep_fills]
  have node : attentionOn t = attentionOn (resultStep g v).2 ∧ t.ring.address = (resultStep g v).2.ring.address := ⟨rfl, rfl⟩
  rw [same, forwarded_attention, attentionStep_eq]
  dsimp only
  rw [node.1, node.2, kept]

end

/-- Settles O14: `sentServed_attention`, bit by bit. -/
theorem attentionBitShowsTheNode : Obligations.AttentionBitShowsTheNode := by
  intro time f i s hi hu hb
  have step := exec_used hi hu hb
  obtain ⟨t, ht⟩ : ∃ t, t = sentServed s.ring.damagePending (frameServed f (s.advance time)).1 (served f (s.advance time)) := ⟨_, rfl⟩
  have sent : t.frameOut = some _ := (congrArg State.frameOut ht).trans (congrArg State.frameOut (sentServed_eq _ _ _))
  obtain ⟨out, hout⟩ : ∃ g, t.frameOut = some g := ⟨_, sent⟩
  have bits := sentServed_attention (out := out) (by rw [← ht]; exact hout)
  have kept : (frameServed f (s.advance time)).1.attention = f.attention := rfl
  rw [← ht, kept] at bits
  refine ⟨t, out, by rw [step, ht], hout, fun ha => ?_, fun a ha => ⟨?_, fun b hb => ?_⟩⟩
  · rw [bits, ha]
  · rw [bits, ha]
    dsimp only
    rw [writeAttention_bit, if_pos rfl]
    exact attentionOn_iff
  · rw [bits, ha]
    dsimp only
    rw [writeAttention_bit, if_neg hb]

section
variable {v : State} {g : Frame} {insert : Bool}

/-- The slots that a frame shows behind `filledSlot`, as the statement puts them. -/
theorem filledSlots_get (f : Frame) (rs : List Record) (node : Byte) (n : Nat) (k : Fin 4) :
    let ins := [f.r0, f.r1, f.r2, f.r3]
    let out := fun x k => filledSlot node n rs x (emptyBefore ins k)
    [out f.r0 0, out f.r1 1, out f.r2 2, out f.r3 3][k.val]? =
      match ins[k.val]?, rs[emptyBefore ins k.val]? with
      | some x, some y => if x.kind = 0#8 ∧ emptyBefore ins k.val < n then some (slotOfRecord node y) else some x
      | x, _ => x := by
  intro ins out
  have shown (x : ResultSlot) (j : Nat) : some (out x j) =
      match (some x : Option ResultSlot), rs[emptyBefore ins j]? with
      | some x, some y => if x.kind = 0#8 ∧ emptyBefore ins j < n then some (slotOfRecord node y) else some x
      | x, _ => x := by
    show some (filledSlot _ _ _ _ _) = _
    unfold filledSlot
    cases rs[emptyBefore ins j]? with
    | none => rfl
    | some y => exact apply_ite some _ _ _
  obtain ⟨k, hk⟩ := k
  match k, hk with
  | 0, _ => exact shown f.r0 0
  | 1, _ => exact shown f.r1 1
  | 2, _ => exact shown f.r2 2
  | 3, _ => exact shown f.r3 3

theorem resultStep_slots (f : Frame) (s : State) :
    [(resultStep f s).1.r0, (resultStep f s).1.r1, (resultStep f s).1.r2, (resultStep f s).1.r3] =
      (let out := fun x k => filledSlot (nodeField s) (recordsWritten f s) s.orq.records x
        (emptyBefore [f.r0, f.r1, f.r2, f.r3] k)
       [out f.r0 0, out f.r1 1, out f.r2 2, out f.r3 3]) := by rw [resultStep_fills]

/-- A frame that is sent shows the slots that its steps have left. -/
structure Shows (g : Frame) (v : State) (t : State) (out : Frame) : Prop where
  sent : t.frameOut = some out
  assign : [out.a0, out.a1, out.a2, out.a3, out.a4, out.a5] = [g.a0, g.a1, g.a2, g.a3, g.a4, g.a5]
  mgmt : out.mgmt = g.mgmt
  results : [out.r0, out.r1, out.r2, out.r3] =
    [(resultStep g v).1.r0, (resultStep g v).1.r1, (resultStep g v).1.r2, (resultStep g v).1.r3]

theorem sentServed_shows : ∃ out, Shows g v (sentServed insert g v) out := by
  obtain ⟨z, hz⟩ : ∃ z, z = resultStep g v := ⟨_, rfl⟩
  have kept : z.1.a0 = g.a0 ∧ z.1.a1 = g.a1 ∧ z.1.a2 = g.a2 ∧ z.1.a3 = g.a3 ∧ z.1.a4 = g.a4 ∧ z.1.a5 = g.a5 ∧
      z.1.mgmt = g.mgmt := by
    rw [hz, resultStep_fills]
    exact ⟨rfl, rfl, rfl, rfl, rfl, rfl, rfl⟩
  obtain ⟨a0, a1, a2, a3, a4, a5, mgmt⟩ := kept
  have sent : (sentServed insert g v).frameOut = some (forwarded insert (attentionStep z.1 z.2)) := by rw [sentServed, hz]; rfl
  rw [forwarded_eq, attentionStep_eq] at sent
  refine ⟨_, sent, ?_, mgmt, by rw [hz]⟩
  rw [← a0, ← a1, ← a2, ← a3, ← a4, ← a5]

/-- The six assignment slots in slot order, then the management slot (R5). -/
theorem slotsInOrder (f : Frame) (header : State) :
    let x0 := takeSlot f.a0 header
    let x1 := takeSlot f.a1 x0.2
    let x2 := takeSlot f.a2 x1.2
    let x3 := takeSlot f.a3 x2.2
    let x4 := takeSlot f.a4 x3.2
    let x5 := takeSlot f.a5 x4.2
    let y := handleSlot f.mgmt x5.2
    managementStep (assignmentStep f header).1 (assignmentStep f header).2 =
      ({ f with a0 := x0.1, a1 := x1.1, a2 := x2.1, a3 := x3.1, a4 := x4.1, a5 := x5.1, mgmt := y.1 }, y.2) := by
  simp only [managementStep, assignmentStep]

/-- What a frame shows whose slots are those of `f` but for the ones that `v` has answered. -/
theorem shows_slots {f : Frame} {t : State} {out : Frame} (w : Shows g v t out)
    (hr : g.r0 = f.r0 ∧ g.r1 = f.r1 ∧ g.r2 = f.r2 ∧ g.r3 = f.r3) (k : Fin 4) :
    let ins := [f.r0, f.r1, f.r2, f.r3]
    let n := if v.ring.state = .locked ∨ v.ring.state = .holdover then
      min 2 (min (emptyBefore ins 4) v.orq.records.length) else 0
    recordsWritten g v = n ∧
      [out.r0, out.r1, out.r2, out.r3][k.val]? =
        match ins[k.val]?, v.orq.records[emptyBefore ins k.val]? with
        | some x, some y => if x.kind = 0#8 ∧ emptyBefore ins k.val < n then some (slotOfRecord (nodeField v) y) else some x
        | x, _ => x := by
  obtain ⟨h0, h1, h2, h3⟩ := hr
  intro ins n
  have written : recordsWritten g v = n := by rw [recordsWritten, h0, h1, h2, h3]
  refine ⟨written, ?_⟩
  rw [w.results, resultStep_slots, written, h0, h1, h2, h3]
  exact filledSlots_get f v.orq.records (nodeField v) n k

theorem nodeField_latched {a : Fin 32} (ha : v.ring.address = some a) : nodeField v = BitVec.ofNat 8 a.val := by
  rw [nodeField, ha]
  rfl

end

/-- Settles O15: `resultStep_fills`, and `exec_used` with `slotsInOrder` for the order of the steps. -/
theorem oldestRecordsFillEmptySlots : Obligations.OldestRecordsFillEmptySlots := by
  refine ⟨fun f s => ?_, fun time f i s hi hu hb => ?_⟩
  · intro ins r shown before n
    have fills : r = _ := resultStep_fills f s
    refine ⟨by rw [fills]; rfl, by rw [fills], fun k => ?_⟩
    rw [show shown = _ from resultStep_slots f s]
    exact filledSlots_get f s.orq.records (nodeField s) n k
  · have step := exec_used hi hu hb
    rw [← frameServed_state] at step
    intro header x0 x1 x2 x3 x4 x5 y v ins before n
    have order : frameServed f (s.advance time) =
        ({ f with a0 := x0.1, a1 := x1.1, a2 := x2.1, a3 := x3.1, a4 := x4.1, a5 := x5.1, mgmt := y.1 }, v) :=
      slotsInOrder f (headerStep f (addressStep f.hop (s.advance time)))
    rw [order] at step
    obtain ⟨g, hg⟩ : ∃ g : Frame,
      g = { f with a0 := x0.1, a1 := x1.1, a2 := x2.1, a3 := x3.1, a4 := x4.1, a5 := x5.1, mgmt := y.1 } := ⟨_, rfl⟩
    rw [← hg] at step
    dsimp only at step
    have same : g.r0 = f.r0 ∧ g.r1 = f.r1 ∧ g.r2 = f.r2 ∧ g.r3 = f.r3 := by rw [hg]; exact ⟨rfl, rfl, rfl, rfl⟩
    have assign : [g.a0, g.a1, g.a2, g.a3, g.a4, g.a5] = [x0.1, x1.1, x2.1, x3.1, x4.1, x5.1] := by rw [hg]
    have mgmt : g.mgmt = y.1 := by rw [hg]
    clear_value v
    clear order hg
    have node := sentServed_eq s.ring.damagePending g v
    obtain ⟨out, w⟩ := sentServed_shows (g := g) (v := v) (insert := s.ring.damagePending)
    refine ⟨_, out, step, w.sent, w.assign.trans assign, w.mgmt.trans mgmt, ?_, ?_, ?_, fun a ha k => ?_⟩
    · rw [node, (shows_slots w same 0).1]
      rfl
    · rw [node]
    · rw [node]
    · rw [(shows_slots w same k).2, nodeField_latched ha]
      rfl

end Sys2Proof.Machine
end

section
/-! Proofs about a used frame behind its header: what its assignment slots, its request and its result slots leave of the state
(R5, R39, R158, R172). -/

namespace Sys2Proof.Machine

open Sys2Proof

/-! ### Assignment slots -/

/-- What assignment slots leave of the state: all but the queue, the records and the counters. -/
structure SlotWork (s t : State) : Prop where
  node : t = { s with queue := t.queue, orq := t.orq, counters := t.counters }
  missing : t.counter .missingPitches = s.counter .missingPitches
  unlocked : s.ring.state ≠ .locked → t = s

section

variable {s t u : State}

theorem SlotWork.refl (s : State) : SlotWork s s := ⟨rfl, rfl, fun _ => rfl⟩

theorem SlotWork.trans (a : SlotWork s t) (b : SlotWork t u) : SlotWork s u := by
  refine ⟨?_, b.missing.trans a.missing, fun h => ?_⟩
  · have hb := b.node
    have ha := a.node
    rw [ha] at hb
    exact hb
  · have e := a.unlocked h
    exact (b.unlocked (by rw [e]; exact h)).trans e

theorem slotConsidered_unlocked {a : AssignSlot} (h : s.ring.state ≠ .locked) : slotConsidered a s = false := by
  simp [slotConsidered, h]

theorem slotConsidered_empty {a : AssignSlot} (h : a.kind = 0#8) : slotConsidered a s = false := by
  simp [slotConsidered, h]

theorem takeSlot_unconsidered {a : AssignSlot} (h : slotConsidered a s = false) : takeSlot a s = (a, s) := by
  rw [takeSlot, h]
  rfl

/-- Only the queue differs, and the books (`Booked`). -/
theorem appendEntry_node (e : QueueEntry) (s : State) :
    ∃ q, Booked { s with queue := q } (appendEntry e s) := by
  unfold appendEntry
  dsimp only
  split_ifs
  · exact ⟨_, booked_enterUnreserved _ _⟩
  · exact ⟨_, Booked.refl _⟩

theorem takeSlot_node (a : AssignSlot) (s : State) : ∃ q, Booked { s with queue := q } (takeSlot a s).2 := by
  unfold takeSlot
  split_ifs
  · split
    · exact ⟨s.queue, booked_countEvent s _⟩
    · exact appendEntry_node _ s
  · exact ⟨s.queue, Booked.refl s⟩

theorem takeSlot_totals (a : AssignSlot) (s : State) : (takeSlot a s).2.totals = s.totals := by
  unfold takeSlot appendEntry
  split_ifs
  · split
    · exact countEvent_totals _ s
    · dsimp only
      split_ifs
      · exact enterUnreserved_totals _
      · rfl
  · rfl

theorem slot_takeSlot (a : AssignSlot) (s : State) : SlotWork s (takeSlot a s).2 := by
  refine ⟨?_, (event_takeSlot s a).missing, fun h => by rw [takeSlot_unconsidered (slotConsidered_unlocked h)]⟩
  obtain ⟨q, b⟩ := takeSlot_node a s
  have e := b
  have queue : (takeSlot a s).2.queue = q := b.queue
  have totals : (takeSlot a s).2.totals = s.totals := takeSlot_totals a s
  rw [Booked, totals] at e
  rw [queue]
  exact e

theorem slot_slotsTaken (f : Frame) (s : State) : SlotWork s (slotsTaken f s) := by
  unfold slotsTaken
  generalize [f.a0, f.a1, f.a2, f.a3, f.a4, f.a5] = slots
  induction slots generalizing s with
  | nil => exact SlotWork.refl s
  | cons a slots ih => exact (slot_takeSlot a s).trans (ih _)

/-- A frame whose assignment slots are EMPTY leaves the queue as its header does. -/
theorem slotsTaken_empty {f : Frame} (h : ∀ x ∈ [f.a0, f.a1, f.a2, f.a3, f.a4, f.a5], x.kind = 0#8) (s : State) :
    slotsTaken f s = s := by
  unfold slotsTaken
  generalize [f.a0, f.a1, f.a2, f.a3, f.a4, f.a5] = slots at h
  induction slots with
  | nil => rfl
  | cons a slots ih =>
    rw [List.foldl_cons, takeSlot_unconsidered (slotConsidered_empty (h a List.mem_cons_self))]
    exact ih fun x hx => h x (List.mem_cons_of_mem _ hx)

/-- A management slot that holds no request passes unhandled (R172). -/
theorem handleSlot_noRequest {m : MgmtSlot} (h : m.state ≠ 1#2) (s : State) : handleSlot m s = (m, s) :=
  handleSlot_unhandled (by simp [slotHandled, h])

end

/-! ### A used frame behind its header -/

/-- What a used frame `f` leaves of the state `s` behind its header (R5 steps 3 to 7). -/
structure FrameWork (f : Frame) (s t : State) : Prop where
  now : t.now = s.now
  ring : t.ring = { s.ring with damagePending := t.ring.damagePending }
  pitch : t.pitch = { s.pitch with lastBeyond := t.pitch.lastBeyond }
  elapsed : ∀ h, (t.seq h).elapsed = (s.seq h).elapsed
  queue : s.ring.state ≠ .locked → s.queue = ⟨[], true⟩ → t.queue = ⟨[], true⟩
  records : s.ring.state ≠ .locked → s.ring.state ≠ .holdover → ∃ l, t.orq.records = s.orq.records ++ l
  quiet : f.mgmt.state ≠ 1#2 →
    t =
      { s with
        queue := t.queue, orq := t.orq, counters := t.counters, frameOut := t.frameOut
        ring := { s.ring with damagePending := t.ring.damagePending } } ∧
    t.counter .missingPitches = s.counter .missingPitches
  plain : f.mgmt.state ≠ 1#2 → (∀ x ∈ [f.a0, f.a1, f.a2, f.a3, f.a4, f.a5], x.kind = 0#8) →
    t.queue = s.queue ∧ t.counters = s.counters ∧ ((∀ x ∈ [f.r0, f.r1, f.r2, f.r3], x.kind ≠ 0#8) → t.orq = s.orq)

namespace FrameWork

variable {f : Frame} {s t : State}

theorem state (w : FrameWork f s t) : t.ring.state = s.ring.state := by rw [w.ring]

theorem address (w : FrameWork f s t) : t.ring.address = s.ring.address := by rw [w.ring]

theorem run (w : FrameWork f s t) : t.ring.run = s.ring.run := by rw [w.ring]

theorem badCount (w : FrameWork f s t) : t.ring.badCount = s.ring.badCount := by rw [w.ring]

theorem sequence (w : FrameWork f s t) : t.pitch.sequence = s.pitch.sequence := by rw [w.pitch]

theorem estimate (w : FrameWork f s t) : t.pitch.estimate = s.pitch.estimate := by rw [w.pitch]

theorem window (w : FrameWork f s t) : t.pitch.window = s.pitch.window := by rw [w.pitch]

theorem joinRef (w : FrameWork f s t) : t.pitch.joinRef = s.pitch.joinRef := by rw [w.pitch]

theorem carousel (w : FrameWork f s t) : t.pitch.carousel = s.pitch.carousel := by rw [w.pitch]

variable (w : FrameWork f s t) (hm : f.mgmt.state ≠ 1#2)
include w hm

theorem heads : t.heads = s.heads := by rw [(w.quiet hm).1]

theorem head (h : HeadId) : t.head h = s.head h := congrArg (fun v : Vector Head 8 => v[h]) (w.heads hm)

theorem seq (h : HeadId) : t.seq h = s.seq h := congrArg Head.seq (w.head hm h)

theorem scanner : t.scanner = s.scanner := by rw [(w.quiet hm).1]

theorem resolver : t.resolver = s.resolver := by rw [(w.quiet hm).1]

theorem wholePitch : t.pitch = s.pitch := by rw [(w.quiet hm).1]

end FrameWork

section

variable {s t : State} {f : Frame} {i : Instr} {time : Ticks}

/-- What leaves with the frame takes records alone, and none outside LOCKED and HOLDOVER (R5, R158). -/
theorem recordsWritten_idle (g : Frame) (h : s.ring.state ≠ .locked) (h' : s.ring.state ≠ .holdover) : recordsWritten g s = 0 :=
  if_neg fun e => e.elim h h'

/-- No record leaves where no result slot is EMPTY (R158). -/
theorem recordsWritten_full {g : Frame} (h : ∀ x ∈ [g.r0, g.r1, g.r2, g.r3], x.kind ≠ 0#8) (s : State) :
    recordsWritten g s = 0 := by
  have none : emptyBefore [g.r0, g.r1, g.r2, g.r3] 4 = 0 := by
    rw [emptyBefore, List.length_eq_zero_iff, List.filter_eq_nil_iff]
    exact fun x hx => by simpa using h x (List.mem_of_mem_take hx)
  rw [recordsWritten, none]
  simp

theorem frameServed_results (f : Frame) (s : State) :
    [(frameServed f s).1.r0, (frameServed f s).1.r1, (frameServed f s).1.r2, (frameServed f s).1.r3] =
      [f.r0, f.r1, f.r2, f.r3] := by
  have order := slotsInOrder f (headerStep f (addressStep f.hop s))
  rw [frameServed]
  dsimp only at order ⊢
  rw [order]

theorem frameWork_sent (insert : Bool) {g f : Frame} (hg : [g.r0, g.r1, g.r2, g.r3] = [f.r0, f.r1, f.r2, f.r3]) (s : State) :
    FrameWork f s (sentServed insert g (handleSlot f.mgmt (slotsTaken f s)).2) := by
  have w := slot_slotsTaken f s
  obtain ⟨u, hu⟩ : ∃ u, u = slotsTaken f s := ⟨_, rfl⟩
  have r := request_handleSlot u f.mgmt
  have quiet : f.mgmt.state ≠ 1#2 → (handleSlot f.mgmt u).2 = u := fun h => by rw [handleSlot_noRequest h]
  have event := event_slotsTaken s f
  rw [← hu] at w event ⊢
  obtain ⟨v, hv⟩ : ∃ v, v = (handleSlot f.mgmt u).2 := ⟨_, rfl⟩
  rw [← hv] at r quiet ⊢
  have state : v.ring.state = s.ring.state := by rw [r.ring, event.ring]
  rw [sentServed_eq]
  obtain ⟨out, ho⟩ : ∃ x, x = some (forwarded insert (attentionStep (resultStep g v).1 (resultStep g v).2)) := ⟨_, rfl⟩
  rw [← ho]
  refine ⟨r.now.trans event.now, ?_, ?_, fun h => (r.elapsed h).trans (event.elapsed h), fun h hq => ?_, fun h h' => ?_, fun hm => ?_,
    fun hm ha => ?_⟩
  · have e := r.ring
    rw [event.ring] at e
    dsimp only
    rw [e]
  · have e := r.pitch
    rw [event.pitch] at e
    exact e
  · rw [w.unlocked h] at r
    exact r.queue hq
  · rw [w.unlocked h] at r
    rw [recordsWritten_idle g (by rw [state]; exact h) (by rw [state]; exact h')]
    exact r.records
  · rw [quiet hm]
    refine ⟨?_, w.missing⟩
    have e := w.node
    rw [e]
  · rw [quiet hm, hu, slotsTaken_empty ha]
    refine ⟨rfl, rfl, fun hr => ?_⟩
    rw [recordsWritten_full (by rw [hg]; exact hr)]
    rfl

/-- A used frame is its header's work, and what the frame does behind it. -/
theorem exec_frameWork (hi : i ∈ [Instr.pitchFrame time f, .serviceFrame time f]) (hu : s.usesFrame f)
    (hb : s.ring.state ≠ .bypass) :
    ∃ t, exec i s = .next t ∧ FrameWork f (headerStep f (addressStep f.hop (s.advance time))) t :=
  ⟨_, exec_used hi hu hb, frameWork_sent _ (frameServed_results f _) _⟩

end

end Sys2Proof.Machine
end

section
/-! Proofs about what a ring loss leaves of each head (R49, R108). -/

namespace Sys2Proof.Machine

open Sys2Proof

/-! ### What a ring loss leaves of the node -/

/-- Every request of head `h` is marked overtaken (R86). -/
def State.overtaken (s : State) (h : HeadId) : Prop :=
  (∀ r ∈ s.resolver.current, r.head = h → r.overtaken = true) ∧ ∀ r ∈ s.resolver.requests, r.head = h → r.overtaken = true

/-- What a ring loss of the heads leaves: what an event leaves, the queue, and the overtaken marks. -/
structure LossWork (s t : State) : Prop where
  event : EventWork s t
  queue : t.queue = s.queue
  marks : ∀ h, s.overtaken h → t.overtaken h

section

variable {s t u : State}

theorem LossWork.refl (s : State) : LossWork s s := ⟨EventWork.refl s, rfl, fun _ => id⟩

theorem LossWork.trans (a : LossWork s t) (b : LossWork t u) : LossWork s u :=
  ⟨a.event.trans b.event, b.queue.trans a.queue, fun h m => b.marks h (a.marks h m)⟩

theorem HeadWork.loss {h : HeadId} (w : HeadWork h s t) : LossWork s t :=
  ⟨w.event, w.queue, fun k m => by rw [State.overtaken, w.resolver]; exact m⟩

theorem loss_markOvertaken (h : HeadId) (s : State) : LossWork s (markOvertaken h s) := by
  refine ⟨event_markOvertaken s h, rfl, fun k m => ⟨fun r hr hk => ?_, fun r hr hk => ?_⟩⟩
  · simp only [markOvertaken, Option.mem_def, Option.map_eq_some_iff] at hr
    obtain ⟨a, ha, rfl⟩ := hr
    by_cases ha' : a.head = h
    · simp [ha']
    · rw [if_neg ha'] at hk ⊢
      exact m.1 a ha hk
  · simp only [markOvertaken, List.mem_map] at hr
    obtain ⟨a, ha, rfl⟩ := hr
    by_cases ha' : a.head = h
    · simp [ha']
    · rw [if_neg ha'] at hk ⊢
      exact m.2 a ha hk

theorem work_takeRingLoss (h : HeadId) (hs : (s.seq h).state ≠ .resolving) : HeadWork h s (takeRingLoss h s) := by
  unfold takeRingLoss
  split
  · exact work_modSeq s h _ fun _ => rfl
  · exact absurd ‹_› hs
  · exact HeadWork.after (work_cutToSnift _ h) (work_modFlags s h _)
  · exact HeadWork.after (work_cutToSnift _ h) (work_modFlags s h _)
  · exact work_modFlags s h _
  · exact HeadWork.refl h s
  · exact HeadWork.refl h s
  · exact HeadWork.refl h s

theorem takeRingLoss_resolving (h : HeadId) (hs : (s.seq h).state = .resolving) : takeRingLoss h s = markOvertaken h s := by
  unfold takeRingLoss
  rw [hs]

theorem loss_takeRingLoss (h : HeadId) (s : State) : LossWork s (takeRingLoss h s) := by
  by_cases hs : (s.seq h).state = .resolving
  · rw [takeRingLoss_resolving h hs]
    exact loss_markOvertaken h s
  · exact (work_takeRingLoss h hs).loss

theorem takeRingLoss_others (h k : HeadId) (s : State) (hk : k ≠ h) : (takeRingLoss h s).head k = s.head k := by
  by_cases hs : (s.seq h).state = .resolving
  · rw [takeRingLoss_resolving h hs]
    rfl
  · exact (work_takeRingLoss h hs).others k hk

end

/-! ### What a ring loss leaves of a head (R108) -/

/-- What head `h` of `s` has become in `t`, once a ring loss has reached it. -/
structure State.lostAt (s t : State) (h : HeadId) : Prop where
  idle : (s.seq h).state = .idle → t.head h = { s.head h with seq := { s.seq h with state := .held } }
  free : (s.seq h).state ∈ [HeadState.off, .fault, .held] → t.head h = s.head h
  resolving : (s.seq h).state = .resolving → t.head h = s.head h ∧ t.overtaken h
  forced : (s.seq h).state = .forcedSnift →
    t.head h = { s.head h with seq := { s.seq h with flags := { (s.seq h).flags with ringLoss := true } } }
  underWay : (s.seq h).state = .running → (s.seq h).sniftBegun = true →
    t.seq h = { s.seq h with state := .forcedSnift, flags := { (s.seq h).flags with ringLoss := true } } ∧
      (t.head h).valves = (s.head h).valves ∧ ∀ m, t.chan h m = (s.chan h m).cut s.now
  between : ∀ e, (s.seq h).state = .stepHold → (s.seq h).sniftBegun = true → (headPlan h s)[(s.seq h).planIndex]? = some e →
    e.kind = .snift →
    s.cutInto t h { (s.seq h).flags with ringLoss := true } ∧ (t.seq h).planIndex = (s.seq h).planIndex + 1
  before : s.beforeSnift h → s.cutInto t h { (s.seq h).flags with ringLoss := true }

section

variable {s t u v : State} {h : HeadId}

theorem State.cutInto.congr {flags : CycleFlags} (c : u.cutInto t h flags) (hu : u.head h = s.head h) (hn : u.now = s.now)
    (hv : v.head h = t.head h) : s.cutInto v h flags := by
  have seqV : v.seq h = t.seq h := congrArg Head.seq hv
  have valveV : ∀ x, v.valve h x = t.valve h x := fun x => congrArg (fun y : Head => y.valves.get x) hv
  have chanV : ∀ m, v.chan h m = t.chan h m := fun m => congrArg (fun y : Head => y.chan.get m) hv
  have chanU : ∀ m, u.chan h m = s.chan h m := fun m => congrArg (fun y : Head => y.chan.get m) hu
  have seqU : u.seq h = s.seq h := congrArg Head.seq hu
  obtain ⟨c1, c2, c3, c4, c5, c6, c7, c8, c9⟩ := c
  rw [seqU] at c6
  simp only [chanU, hn] at c9
  rw [← seqV] at c1 c2 c3 c4 c5 c6
  simp only [← valveV] at c7 c8
  simp only [← chanV] at c9
  exact ⟨c1, c2, c3, c4, c5, c6, c7, c8, c9⟩

theorem headPlan_congr (hu : u.head h = s.head h) : headPlan h u = headPlan h s := by
  rw [headPlan_elim, headPlan_elim, hu]

theorem State.beforeSnift.congr (b : s.beforeSnift h) (hu : u.head h = s.head h) : u.beforeSnift h := by
  have seqU : u.seq h = s.seq h := congrArg Head.seq hu
  obtain ⟨b1, b2, b3⟩ := b
  rw [← seqU] at b1 b2
  rw [← headPlan_congr hu] at b3
  exact ⟨b1, b2, b3⟩

theorem State.lostAt.congr (l : u.lostAt t h) (hu : u.head h = s.head h) (hn : u.now = s.now) (hv : v.head h = t.head h)
    (hm : t.overtaken h → v.overtaken h) : s.lostAt v h := by
  have seqU : u.seq h = s.seq h := congrArg Head.seq hu
  have seqV : v.seq h = t.seq h := congrArg Head.seq hv
  have chanV : ∀ m, v.chan h m = t.chan h m := fun m => congrArg (fun y : Head => y.chan.get m) hv
  have chanU : ∀ m, u.chan h m = s.chan h m := fun m => congrArg (fun y : Head => y.chan.get m) hu
  have plan := headPlan_congr hu
  refine ⟨fun e => ?_, fun e => ?_, fun e => ?_, fun e => ?_, fun e b => ?_, fun x e b hx hk => ?_, fun b => ?_⟩
  · rw [hv, ← hu, ← seqU]
    exact l.idle (by rw [seqU]; exact e)
  · rw [hv, ← hu]
    exact l.free (by rw [seqU]; exact e)
  · obtain ⟨same, marks⟩ := l.resolving (by rw [seqU]; exact e)
    exact ⟨by rw [hv, same, hu], hm marks⟩
  · rw [hv, ← hu, ← seqU]
    exact l.forced (by rw [seqU]; exact e)
  · obtain ⟨x, y, z⟩ := l.underWay (by rw [seqU]; exact e) (by rw [seqU]; exact b)
    refine ⟨by rw [seqV, x, seqU], by rw [hv, y, hu], fun m => by rw [chanV, z, chanU, hn]⟩
  · obtain ⟨y, z⟩ := l.between x (by rw [seqU]; exact e) (by rw [seqU]; exact b) (by rw [plan, seqU]; exact hx) hk
    rw [seqU] at y z
    exact ⟨y.congr hu hn hv, by rw [seqV, z]⟩
  · have y := l.before (b.congr hu)
    rw [seqU] at y
    exact y.congr hu hn hv

theorem cutChannel_valves (h : HeadId) (m : Meter) (s : State) : ((cutChannel h m s).head h).valves = (s.head h).valves := by
  unfold cutChannel
  split
  · rw [State.modChan, modHead_head]
  · rfl

/-- A cut leaves the valves of the head. -/
theorem cutBoth_valves (h : HeadId) (s : State) : ((cutBoth h s).head h).valves = (s.head h).valves :=
  (cutChannel_valves h _ _).trans (cutChannel_valves h _ s)

theorem takeRingLoss_lostAt (s : State) (h : HeadId) : s.lostAt (takeRingLoss h s) h := by
  refine ⟨fun e => ?_, fun e => ?_, fun e => ?_, fun e => ?_, fun e b => ?_, fun x e b hx hk => ?_, takeRingLoss_cutInto s h⟩
  · have taken : takeRingLoss h s = s.modSeq h fun q => { q with state := .held } := by
      unfold takeRingLoss
      rw [e]
    rw [taken, modSeq_head]
  · have taken : takeRingLoss h s = s := by
      unfold takeRingLoss
      rcases List.mem_cons.mp e with e | e
      · rw [e]
      · rcases List.mem_cons.mp e with e | e
        · rw [e]
        · rw [List.mem_singleton.mp e]
    rw [taken]
  · rw [takeRingLoss_resolving h e]
    exact ⟨rfl, markOvertaken_overtakes s h⟩
  · rw [takeRingLoss_forced s h e, State.modFlags, modSeq_head]
  · rw [takeRingLoss_underWay s h e b]
    refine ⟨by simp [State.modFlags], ?_, fun m => ?_⟩
    · rw [modSeq_head, cutBoth_valves, State.modFlags, modSeq_head]
    · rw [modSeq_chan, cutBoth_chan]
      simp [State.modFlags]
  · exact takeRingLoss_between s h e b hx hk

/-- A ring loss: the queue is left empty, and every head has taken it. -/
theorem ringLoss_leaves (s : State) :
    EventWork s (ringLoss s) ∧ (ringLoss s).queue = ⟨[], true⟩ ∧
      LossWork (clearQueue .ringLoss s) (ringLoss s) ∧ ∀ h, s.lostAt (ringLoss s) h := by
  obtain ⟨work, heads⟩ := forHeads_inTurn (f := takeRingLoss) LossWork.refl LossWork.trans loss_takeRingLoss
    takeRingLoss_others (clearQueue .ringLoss s)
  refine ⟨event_ringLoss s, work.queue.trans (clearQueue_queue s _), work, fun h => ?_⟩
  have booked : Booked { s with queue := ⟨[], true⟩ } (clearQueue .ringLoss s) := booked_discardRecords _ _ _
  have head : (clearQueue .ringLoss s).head h = s.head h := congrArg (fun v : Vector Head 8 => v[h]) booked.heads
  obtain ⟨u, hu, before, taken, behind⟩ := heads h
  exact (takeRingLoss_lostAt u h).congr (hu.trans head) (before.event.now.trans booked.now) taken (behind.marks h)

end

end Sys2Proof.Machine
end

section
/-! Proofs about the header of a used frame: its address (R11 to R13, R20), its carousel state (R16, R24, R110), and a PITCH
frame in JOINING that issues no event (R15, R26). -/

namespace Sys2Proof.Machine

open Sys2Proof

/-! ### Step 1: the address (R11 to R13, R20) -/

section

variable {s : State} {hop : Byte} {a : Fin 32}

theorem addressOf_of_eq (h : hop.toNat = a.val) : addressOf hop = some a := by
  have lt : hop.toNat < 32 := h ▸ a.isLt
  rw [addressOf, dif_pos lt]
  exact congrArg some (Fin.ext h)

theorem addressOf_of_le (h : 32 ≤ hop.toNat) : addressOf hop = none := dif_neg (Nat.not_lt.mpr h)

theorem addressOf_ne (h : hop.toNat ≠ a.val) : addressOf hop ≠ some a := by
  intro e
  unfold addressOf at e
  split at e
  · exact h (congrArg Fin.val (Option.some.inj e))
  · exact absurd e (by simp)

theorem latchAddress_eq :
    latchAddress hop s =
      { s with
        ring :=
          { s.ring with
            address := addressOf hop
            run := if addressOf hop = s.ring.address then s.ring.run else { s.ring.run with length := 0 } } } := by
  unfold latchAddress
  split
  · rename_i h
    rw [h]
  · rfl

/-- The node that stands at its latched address goes on. -/
theorem addressStep_same (hs : s.ring.state = .joining ∨ s.ring.state = .locked ∨ s.ring.state = .holdover)
    (ha : s.ring.address = some a) (hh : hop.toNat = a.val) : addressStep hop s = s := by
  have e : addressOf hop = s.ring.address := (addressOf_of_eq hh).trans ha.symm
  have latch : latchAddress hop s = s := if_pos e
  have compare : compareAddress hop s = s := if_pos ⟨e, by rw [ha]; rfl⟩
  rcases hs with hs | hs | hs <;> rw [addressStep, hs]
  · exact latch
  · exact compare
  · exact compare

/-- The Ring Port and the Pitch Timer on entry into JOINING, ahead of the ring loss (R14, R23). -/
def State.joins (keepAddress : Bool) (s : State) : State :=
  { s with
    ring :=
      { s.ring with
        state := .joining, badCount := 0, run := { s.ring.run with length := 0 }
        address := if keepAddress then s.ring.address else none }
    pitch :=
      { s.pitch with
        estimate := none, sequence := none, joinRef := none, measureValid := false, window := none, lastBeyond := false } }

theorem enterJoining_serving (b : Bool) (hs : s.ring.state = .locked ∨ s.ring.state = .holdover) :
    enterJoining b s = ringLoss (s.joins b) := if_pos (ringServes_iff.mpr hs)

theorem enterJoining_blind (b : Bool) (hs : s.ring.state = .blind) : enterJoining b s = s.joins b :=
  if_neg fun h => by rcases ringServes_iff.mp h with h | h <;> rw [hs] at h <;> exact RingState.noConfusion h

/-- Another hop count in LOCKED or HOLDOVER: alarm, ring loss, and the new address (R13). -/
theorem addressStep_other (hs : s.ring.state = .locked ∨ s.ring.state = .holdover) (ha : s.ring.address = some a)
    (hh : hop.toNat ≠ a.val) :
    addressStep hop s =
      (ringLoss ((raiseAlarm .addressChanged nodeByte hop.toNat a.val s).joins false)).modRing fun r =>
        { r with address := addressOf hop } := by
  have other : ¬(addressOf hop = s.ring.address ∧ s.ring.address.isSome = true) := fun h => addressOf_ne hh (h.1.trans ha)
  have old : oldAddress s = a.val := by rw [oldAddress, ha]
  have compare : addressStep hop s = compareAddress hop s := by
    rcases hs with hs | hs <;> rw [addressStep, hs]
  have state := (event_raiseAlarm s .addressChanged nodeByte hop.toNat a.val).ring
  rw [compare, compareAddress, if_neg other, old, enterJoining_serving _ (by rw [state]; exact hs)]

/-- With room, an alarm that is raised is held (R157). -/
theorem raiseAlarm_held (code : AlarmCode) (head : Byte) (m n : Nat)
    (hr : s.orq.records.length + s.orq.reservations < 48) :
    ∃ r ∈ (raiseAlarm code head m n s).orq.records, r.kind = .alarm ∧ r.code = BitVec.ofNat 8 code.code ∧ r.head = head ∧
      r.valueA = BitVec.ofNat 32 m ∧ r.valueB = BitVec.ofNat 24 n := by
  rw [raiseAlarm_room hr, appendRecord]
  refine ⟨_, List.mem_append_right _ (List.mem_singleton_self _), ?_⟩
  split
  · exact ⟨rfl, rfl, rfl, rfl, rfl⟩
  · exact ⟨rfl, rfl, rfl, rfl, rfl⟩

end

/-! ### Step 2: the carousel state (R16, R24, R110) -/

/-- What the work of heads in turn leaves: what an event leaves, the queue, the Resolver and the parts of `NodeWork`. -/
structure TurnWork (s t : State) : Prop where
  event : EventWork s t
  node : NodeWork s t
  queue : t.queue = s.queue
  resolver : t.resolver = s.resolver

section

variable {s t u : State}

theorem TurnWork.refl (s : State) : TurnWork s s := ⟨EventWork.refl s, NodeWork.refl s, rfl, rfl⟩

theorem TurnWork.trans (a : TurnWork s t) (b : TurnWork t u) : TurnWork s u :=
  ⟨a.event.trans b.event, a.node.trans b.node, b.queue.trans a.queue, b.resolver.trans a.resolver⟩

theorem HeadWork.turn {h : HeadId} (w : HeadWork h s t) : TurnWork s t := ⟨w.event, w.nodeWork, w.queue, w.resolver⟩

theorem forHeads_turn {f : HeadId → State → State} (hf : ∀ h s, HeadWork h s (f h s)) (s : State) :
    TurnWork s (forHeads f s) ∧
      ∀ h, ∃ u, u.head h = s.head h ∧ TurnWork s u ∧ (forHeads f s).head h = (f h u).head h ∧
        TurnWork (f h u) (forHeads f s) :=
  forHeads_inTurn TurnWork.refl TurnWork.trans (fun h s => (hf h s).turn) (fun h k s hk => (hf h s).others k hk) s

/-- The copy of the carousel state that a header shows, ahead of the end of step mode (R16, R24). -/
def State.shown (c : Carousel) (s : State) : State :=
  { s with
    pitch :=
      if c = .running then { s.pitch with carousel := c }
      else { s.pitch with carousel := c, estimate := none, window := none, measureValid := false }
    ring := if c = .running then s.ring else { s.ring with badCount := 0 } }

theorem takeCarousel_eq (c : Carousel) (s : State) :
    takeCarousel c s = if c = .running then forHeads endStepMode (s.shown c) else s.shown c := by
  unfold takeCarousel State.shown
  dsimp only
  split_ifs <;> rfl

theorem takeCarousel_turn (c : Carousel) (s : State) : TurnWork (s.shown c) (takeCarousel c s) := by
  rw [takeCarousel_eq]
  split
  · exact (forHeads_turn (fun h s => work_endStepMode s h) _).1
  · exact TurnWork.refl _

/-- With no head in STEP_HOLD only the heads differ, and none comes to STEP_HOLD. -/
def HeadsAlone (s t : State) : Prop :=
  (∀ h, (s.seq h).state ≠ .stepHold) → (∃ x, t = { s with heads := x }) ∧ ∀ h, (t.seq h).state ≠ .stepHold

theorem HeadsAlone.refl (s : State) : HeadsAlone s s := fun none => ⟨⟨s.heads, rfl⟩, none⟩

theorem HeadsAlone.trans (a : HeadsAlone s t) (b : HeadsAlone t u) : HeadsAlone s u := fun none => by
  obtain ⟨⟨x, hx⟩, ht⟩ := a none
  obtain ⟨⟨y, hy⟩, hu⟩ := b ht
  exact ⟨⟨y, by rw [hy, hx]⟩, hu⟩

theorem endStepMode_headsAlone (h : HeadId) (s : State) : HeadsAlone s (endStepMode h s) := fun none => by
  rw [endStepMode_eq, if_neg (none h)]
  refine ⟨⟨_, rfl⟩, fun k => ?_⟩
  by_cases hk : k = h
  · rw [hk, modSeq_seq]
    exact none h
  · rw [State.seq, State.modSeq, modHead_head_ne s h k _ hk]
    exact none k

/-- With no head in STEP_HOLD the carousel state reaches the heads alone, as step mode. -/
theorem takeCarousel_quiet (c : Carousel) (s : State) (hs : ∀ h, (s.seq h).state ≠ .stepHold) :
    ∃ x, takeCarousel c s = { s.shown c with heads := x } := by
  rw [takeCarousel_eq]
  split
  · exact ((forHeads_inTurn HeadsAlone.refl HeadsAlone.trans endStepMode_headsAlone
      (fun h k s hk => (work_endStepMode s h).others k hk) (s.shown c)).1 hs).1
  · exact ⟨s.heads, rfl⟩

/-- A head that is not in STEP_HOLD loses its step mode in RUNNING, and nothing else; no other carousel state reaches a head. -/
theorem takeCarousel_head (c : Carousel) (s : State) (h : HeadId) (hs : (s.seq h).state ≠ .stepHold ∨ c ≠ .running) :
    (takeCarousel c s).head h =
      { s.head h with seq := { s.seq h with stepMode := (s.seq h).stepMode && decide (c ≠ .running) } } := by
  rw [takeCarousel_eq]
  split
  · rename_i hc
    obtain ⟨u, hu, -, taken, -⟩ := (forHeads_turn (fun h s => work_endStepMode s h) (s.shown c)).2 h
    have seq : u.seq h = s.seq h := congrArg Head.seq hu
    rw [taken, endStepMode_eq, if_neg (by rw [seq]; exact hs.resolve_right (not_not_intro hc)), modSeq_head, hu, seq]
    simp only [hc, ne_eq, not_true_eq_false, decide_false, Bool.and_false]
    rfl
  · rename_i hc
    simp only [hc, ne_eq, not_false_eq_true, decide_true, Bool.and_true]
    rfl

theorem shown_keeps (c : Carousel) (s : State) :
    (s.shown c).ring.state = s.ring.state ∧ (s.shown c).ring.address = s.ring.address ∧ (s.shown c).ring.run = s.ring.run ∧
      (s.shown c).ring.damagePending = s.ring.damagePending := by
  unfold State.shown
  dsimp only
  split
  · exact ⟨rfl, rfl, rfl, rfl⟩
  · exact ⟨rfl, rfl, rfl, rfl⟩

theorem headerStep_eq {f : Frame} {c : Carousel} (hs : s.ring.state ≠ .failed) (hc : carouselOf f.carousel = some c) :
    headerStep f s =
      if f.kind = 1#8 then takePitchHeader f.serial f.position.toNat (takeCarousel c s) else takeCarousel c s := by
  rw [headerStep, if_neg hs, hc]

end

/-! ### A PITCH frame in JOINING (R15, R26) -/

section

variable {s : State} {serial : Half} {p : Nat}

theorem joinMeasure_eq :
    joinMeasure serial p s =
      { s with
        pitch :=
          { s.pitch with
            estimate := (joinGap serial p s).elim s.pitch.estimate fun g => some (estimateAfter s.pitch.estimate g)
            joinRef := some ⟨serial, p, s.nowUs, s.pitch.carousel⟩
            measureValid := decide (s.pitch.carousel = .running)
            lastBeyond := false } } := by
  unfold joinMeasure
  cases joinGap serial p s <;> rfl

/-- The lock run that a frame leaves (R15, R36). -/
def State.runAfter (serial : Half) (p : Nat) (s : State) : LockRun :=
  if s.pitch.lastBeyond then ⟨1, serial, p⟩ else s.ring.run.extend s.settings.nPos serial p

/-- A PITCH frame in JOINING, up to the test of its lock run. -/
def State.joined (serial : Half) (p : Nat) (s : State) : State := setWindow (joinMeasure serial p (extendRun serial p s))

/-- What a frame in JOINING makes of the Pitch Timer. -/
theorem joined_eq :
    s.joined serial p =
      { s with
        ring := { s.ring with run := s.runAfter serial p }
        pitch :=
          { s.pitch with
            estimate := (s.joined serial p).pitch.estimate
            joinRef := some ⟨serial, p, s.nowUs, s.pitch.carousel⟩
            measureValid := decide (s.pitch.carousel = .running)
            window := (s.joined serial p).pitch.window
            lastBeyond := false } } := by
  rw [State.joined, joinMeasure_eq]
  rfl

/-- No gap is measured where no join reference stands, or where its position is out of range (R26, R36). -/
theorem joined_estimate (h : s.pitch.joinRef = none ∨ s.pitch.lastBeyond = true) :
    (s.joined serial p).pitch.estimate = s.pitch.estimate := by
  have none : joinGap serial p (extendRun serial p s) = none := by
    unfold joinGap
    rcases h with h | h
    · rw [show (extendRun serial p s).pitch.joinRef = none from h]
    · split
      · rw [if_neg (by simp [show (extendRun serial p s).pitch.lastBeyond = true from h])]
      · rfl
  rw [State.joined, joinMeasure_eq, none]
  rfl

theorem joiningPitch_eq :
    joiningPitch serial p s =
      if (s.runAfter serial p).length = 2 then
        if s.ring.address.isSome then lockOn serial p (s.joined serial p)
        else (s.joined serial p).modRing fun r => { r with run := { r.run with length := 1 } }
      else s.joined serial p := by
  have run : (s.joined serial p).ring.run = s.runAfter serial p := by rw [joined_eq]
  have address : (s.joined serial p).ring.address = s.ring.address := by rw [joined_eq]
  rw [← run, ← address]
  rfl

theorem LockRun.extend_first {nPos : Nat} {r : LockRun} (h : ¬(r.length = 1 ∧ serialDistance r.serial serial = 1 ∧
    p = positionAfter nPos r.position 1)) : r.extend nPos serial p = ⟨1, serial, p⟩ := if_neg h

theorem runAfter_first (h : s.pitch.lastBeyond = true ∨ ¬(s.ring.run.length = 1 ∧
    serialDistance s.ring.run.serial serial = 1 ∧ p = positionAfter s.settings.nPos s.ring.run.position 1)) :
    s.runAfter serial p = ⟨1, serial, p⟩ := by
  unfold State.runAfter
  split
  · rfl
  · exact LockRun.extend_first (h.resolve_left ‹_›)

/-- A frame that does not follow the one before it starts a new run and becomes the join reference. -/
theorem joiningPitch_first (h : s.runAfter serial p = ⟨1, serial, p⟩) : joiningPitch serial p s = s.joined serial p := by
  rw [joiningPitch_eq, h]
  exact if_neg (Nat.ne_of_beq_eq_false rfl)

theorem pitchEvent_ring (serial : Half) (p : Nat) (k : EventKind) (s : State) : (pitchEvent serial p k s).ring = s.ring := by
  obtain ⟨u, w, e⟩ := pitchEvent_eq s serial p k
  rw [e, countEstimated]
  split
  · have b := booked_countEvent u.requestBowl .missingPitches
    rw [b]
    exact w.ring
  · exact w.ring

theorem lockOn_ring (serial : Half) (p : Nat) (s : State) : (lockOn serial p s).ring = { s.ring with state := .locked } := by
  unfold lockOn
  rw [pitchEvent_ring]
  rfl

theorem joiningPitch_address : (joiningPitch serial p s).ring.address = s.ring.address := by
  have joined : (s.joined serial p).ring.address = s.ring.address := by rw [joined_eq]
  rw [joiningPitch_eq]
  split_ifs
  · rw [lockOn_ring]
    exact joined
  · exact joined
  · exact joined

/-- A PITCH header in JOINING. -/
theorem takePitchHeader_joining (hs : s.ring.state = .joining) :
    takePitchHeader serial p s = joiningPitch serial p (s.modRing fun r => { r with badCount := 0 }) := by
  rw [takePitchHeader, show (s.modRing fun r => { r with badCount := 0 }).ring.state = .joining from hs]

end

end Sys2Proof.Machine
end

section
/-! Proofs about the address of a used frame and about a SERVICE frame: the statements O16 and O17 (R11 to R13, R16, R20, R24). -/

namespace Sys2Proof.Machine

open Sys2Proof

/-! ### A header that leaves the node in JOINING -/

/-- What a header leaves of a node whose lock run is empty in JOINING. -/
structure StaysOut (s t : State) : Prop where
  state : t.ring.state = .joining
  address : t.ring.address = s.ring.address
  badCount : s.ring.badCount = 0 → t.ring.badCount = 0
  sequence : t.pitch.sequence = s.pitch.sequence
  estimate : s.pitch.joinRef = none → s.pitch.estimate = none → t.pitch.estimate = none
  queue : t.queue = s.queue
  records : ∃ l, t.orq.records = s.orq.records ++ l
  held : ∀ h, (s.seq h).state = .held → (t.seq h).state = .held

section

variable {s t u : State}

theorem StaysOut.trans (a : StaysOut s t) (b : StaysOut t u) (joinRef : s.pitch.joinRef = none → t.pitch.joinRef = none) :
    StaysOut s u := by
  refine ⟨b.state, b.address.trans a.address, fun h => b.badCount (a.badCount h), b.sequence.trans a.sequence,
    fun h e => b.estimate (joinRef h) (a.estimate h e), b.queue.trans a.queue, ?_, fun h e => b.held h (a.held h e)⟩
  obtain ⟨l, hl⟩ := a.records
  obtain ⟨m, hm⟩ := b.records
  exact ⟨l ++ m, by rw [hm, hl, List.append_assoc]⟩

theorem takeCarousel_staysOut (c : Carousel) (hs : s.ring.state = .joining) : StaysOut s (takeCarousel c s) := by
  have w := takeCarousel_turn c s
  obtain ⟨state, address, -, -⟩ := shown_keeps c s
  refine ⟨?_, ?_, fun h => ?_, ?_, fun _ h => ?_, w.queue, w.event.records, fun h e => ?_⟩
  · rw [w.event.ring, state, hs]
  · rw [w.event.ring, address]
  · rw [w.event.ring, State.shown]
    dsimp only
    split
    · exact h
    · rfl
  · rw [w.event.pitch, State.shown]
    dsimp only
    split <;> rfl
  · rw [w.event.pitch, State.shown]
    dsimp only
    split
    · exact h
    · rfl
  · rw [State.seq, takeCarousel_head c s h (.inl (by rw [e]; decide))]
    exact e

theorem takeCarousel_joinRef (c : Carousel) (s : State) : (takeCarousel c s).pitch.joinRef = s.pitch.joinRef := by
  rw [(takeCarousel_turn c s).event.pitch, State.shown]
  dsimp only
  split <;> rfl

theorem joined_staysOut (serial : Half) (p : Nat) (hs : s.ring.state = .joining) :
    StaysOut s (State.joined serial p (s.modRing fun r => { r with badCount := 0 })) := by
  have e := joined_eq (s := s.modRing fun r => { r with badCount := 0 }) (serial := serial) (p := p)
  have estimate := joined_estimate (s := s.modRing fun r => { r with badCount := 0 }) (serial := serial) (p := p)
  refine ⟨?_, ?_, fun _ => ?_, ?_, fun hj he => (estimate (.inl hj)).trans he, ?_, ⟨[], ?_⟩, fun h hh => ?_⟩
  · rw [e]; exact hs
  · rw [e]; rfl
  · rw [e]; rfl
  · rw [e]; rfl
  · rw [e]; rfl
  · rw [e, List.append_nil]; rfl
  · rw [e]; exact hh

theorem headerStep_staysOut {f : Frame} {c : Carousel} (hs : s.ring.state = .joining) (hr : s.ring.run.length = 0)
    (hc : carouselOf f.carousel = some c) : StaysOut s (headerStep f s) := by
  have shown := takeCarousel_staysOut c hs
  rw [headerStep_eq (by rw [hs]; decide) hc]
  split
  · have run : (takeCarousel c s).ring.run.length = 0 := by
      rw [(takeCarousel_turn c s).event.ring, (shown_keeps c s).2.2.1, hr]
    rw [takePitchHeader_joining shown.state, joiningPitch_first (runAfter_first (.inr fun h => ?_))]
    · exact shown.trans (joined_staysOut _ _ shown.state) fun h => (takeCarousel_joinRef c s).trans h
    · have first : (takeCarousel c s).ring.run.length = 1 := h.1
      omega
  · exact shown

/-- A header in JOINING keeps the address. -/
theorem headerStep_address {f : Frame} {c : Carousel} (hs : s.ring.state = .joining) (hc : carouselOf f.carousel = some c) :
    (headerStep f s).ring.address = s.ring.address := by
  have shown := takeCarousel_staysOut c hs
  rw [headerStep_eq (by rw [hs]; decide) hc]
  split
  · rw [takePitchHeader_joining shown.state, joiningPitch_address]
    exact shown.address
  · exact shown.address

/-- The carousel state of a used frame is defined (R4). -/
theorem usesFrame_carousel {f : Frame} (hu : s.usesFrame f) : ∃ c, carouselOf f.carousel = some c := by
  obtain ⟨-, -, -, usable⟩ := hu
  simp only [usableFrame, Bool.and_eq_true] at usable
  exact Option.isSome_iff_exists.mp usable.2

/-- The address that a hop count stands for, in the two forms of R11 and R12. -/
theorem addressOf_forms {hop : Byte} {x : Option (Fin 32)} (h : x = addressOf hop) :
    (∀ a : Fin 32, hop.toNat = a.val → x = some a) ∧ (32 ≤ hop.toNat → x = none) :=
  ⟨fun _ ha => h.trans (addressOf_of_eq ha), fun hn => h.trans (addressOf_of_le hn)⟩

end

/-! ### The ring loss of an address change (R13) -/

section

variable {s : State}

/-- What the ring loss on entry into JOINING leaves: JOINING with its address, an empty lock run and count, the Pitch Timer
dropped, an empty queue, and each head as the ring loss has left it (R14, R49, R108). -/
structure Rejoins (b : Bool) (s t : State) : Prop where
  ring : t.ring = (s.joins b).ring
  pitch : t.pitch = (s.joins b).pitch
  queue : t.queue = ⟨[], true⟩
  records : ∃ l, t.orq.records = s.orq.records ++ l
  elapsed : ∀ h, (t.seq h).elapsed = (s.seq h).elapsed
  lost : ∀ h, s.lostAt t h
  now : t.now = s.now

theorem ringLoss_rejoins (b : Bool) (s : State) : Rejoins b s (ringLoss (s.joins b)) := by
  obtain ⟨event, queue, -, lost⟩ := ringLoss_leaves (s.joins b)
  exact ⟨event.ring, event.pitch, queue, event.records, event.elapsed,
    fun h => (lost h).congr rfl rfl rfl id, event.now⟩

end

/-- Settles O16: the address by `addressStep`, the ring loss by `ringLoss_rejoins`, and the header behind it by
`headerStep_staysOut`. -/
theorem hopCountIsTheAddress : Obligations.HopCountIsTheAddress := by
  intro time f i s hi hu
  obtain ⟨c, hc⟩ := usesFrame_carousel hu
  refine ⟨fun hs => ?_, fun old hs ha hh => ?_⟩
  · obtain ⟨t, ht, w⟩ := exec_frameWork (time := time) hi hu (by rcases hs with h | h | h <;> rw [h] <;> decide)
    have latch : ∀ u : State, (latchAddress f.hop u).ring.address = addressOf f.hop := fun u => by rw [latchAddress_eq]
    refine ⟨t, ht, ?_⟩
    rcases hs with hs | hs | hs
    · have step : addressStep f.hop (s.advance time) = latchAddress f.hop (s.advance time) := by
        rw [addressStep, show (s.advance time).ring.state = .joining from hs]
      have joining : (latchAddress f.hop (s.advance time)).ring.state = .joining := by rw [latchAddress_eq]; exact hs
      rw [step] at w
      obtain ⟨h1, h2⟩ := addressOf_forms (w.address.trans ((headerStep_address joining hc).trans (latch _)))
      exact ⟨h1, h2, fun h => by rw [hs] at h; exact RingState.noConfusion h,
        fun h => by rw [hs] at h; exact RingState.noConfusion h⟩
    · have step : addressStep f.hop (s.advance time) = latchAddress f.hop (s.advance time) := by
        rw [addressStep, show (s.advance time).ring.state = .failed from hs]
      have failed : (latchAddress f.hop (s.advance time)).ring.state = .failed := by rw [latchAddress_eq]; exact hs
      rw [step, headerStep, if_pos failed] at w
      obtain ⟨h1, h2⟩ := addressOf_forms (w.address.trans (latch _))
      exact ⟨h1, h2, fun _ => w.state.trans failed, fun h => by rw [hs] at h; exact RingState.noConfusion h⟩
    · have step : addressStep f.hop (s.advance time) = latchAddress f.hop ((s.advance time).joins false) := by
        rw [addressStep, show (s.advance time).ring.state = .blind from hs, ← enterJoining_blind (s := s.advance time) false hs]
      have joining : (latchAddress f.hop ((s.advance time).joins false)).ring.state = .joining := by
        rw [latchAddress_eq]; rfl
      have empty : (latchAddress f.hop ((s.advance time).joins false)).ring.run.length = 0 := by
        rw [latchAddress_eq]
        dsimp only
        split <;> rfl
      rw [step] at w
      have out := headerStep_staysOut joining empty hc
      obtain ⟨h1, h2⟩ := addressOf_forms (w.address.trans (out.address.trans (latch _)))
      exact ⟨h1, h2, fun h => by rw [hs] at h; exact RingState.noConfusion h, fun _ => w.state.trans out.state⟩
  · obtain ⟨t, ht, w⟩ := exec_frameWork (time := time) hi hu (by rcases hs with h | h <;> rw [h] <;> decide)
    rw [addressStep_other (s := s.advance time) hs ha hh] at w
    obtain ⟨u, hu'⟩ : ∃ u, u = raiseAlarm .addressChanged nodeByte f.hop.toNat old.val (s.advance time) := ⟨_, rfl⟩
    have alarm := event_raiseAlarm (s.advance time) .addressChanged nodeByte f.hop.toNat old.val
    have booked : Booked (s.advance time) (raiseAlarm .addressChanged nodeByte f.hop.toNat old.val (s.advance time)) :=
      booked_enterUnreserved _ _
    have held := raiseAlarm_held (s := s.advance time) .addressChanged nodeByte f.hop.toNat old.val
    rw [← hu'] at w alarm booked held
    have lost := ringLoss_rejoins false u
    obtain ⟨v, hv⟩ : ∃ v, v = ringLoss (u.joins false) := ⟨_, rfl⟩
    rw [← hv] at w lost
    have joining : (v.modRing fun r => { r with address := addressOf f.hop }).ring.state = .joining := by
      show v.ring.state = _
      rw [lost.ring]
      rfl
    have empty : (v.modRing fun r => { r with address := addressOf f.hop }).ring.run.length = 0 := by
      show v.ring.run.length = _
      rw [lost.ring]
      rfl
    have out := headerStep_staysOut joining empty hc
    obtain ⟨h1, h2⟩ := addressOf_forms (w.address.trans out.address)
    have pitch : v.pitch = (u.joins false).pitch := lost.pitch
    refine ⟨t, ht, w.state.trans out.state, w.badCount.trans (out.badCount ?_), h1, h2, w.sequence.trans (out.sequence.trans ?_),
      w.estimate.trans (out.estimate ?_ ?_), w.queue ?_ (out.queue.trans lost.queue), fun room => ?_, fun hm h hi => ?_⟩
    · show v.ring.badCount = 0
      rw [lost.ring]
      rfl
    · show v.pitch.sequence = none
      rw [pitch]
      rfl
    · show v.pitch.joinRef = none
      rw [pitch]
      rfl
    · show v.pitch.estimate = none
      rw [pitch]
      rfl
    · rw [out.state]
      decide
    · obtain ⟨r, hr, k1, k2, k3, k4, k5⟩ := held room
      obtain ⟨l1, e1⟩ := w.records (by rw [out.state]; decide) (by rw [out.state]; decide)
      obtain ⟨l2, e2⟩ := out.records
      obtain ⟨l3, e3⟩ := lost.records
      have inside : r ∈ v.orq.records := by rw [e3]; exact List.mem_append_left _ hr
      refine ⟨r, ?_, k1, k2, k3, k4.trans ?_, k5⟩
      · rw [e1, e2]
        exact List.mem_append_left _ (List.mem_append_left _ inside)
      · exact BitVec.ofNat_toNat _ _
    · have idle : (u.seq h).state = .idle := by
        have head : u.head h = s.head h := congrArg (fun v : Vector Head 8 => v[h]) booked.heads
        rw [State.seq, head]
        exact hi
      rw [w.seq hm]
      refine out.held h ?_
      show (v.seq h).state = .held
      rw [State.seq, (lost.lost h).idle idle]

/-- Settles O17, by `takeCarousel_turn`. -/
theorem serviceFrameShowsTheCarousel : Obligations.ServiceFrameShowsTheCarousel := by
  intro time f c a s hu hk hs ha hh hc
  obtain ⟨t, ht, w⟩ := exec_frameWork (time := time) (i := .serviceFrame time f) (by simp) hu
    (by rcases hs with h | h | h <;> rw [h] <;> decide)
  have step : headerStep f (addressStep f.hop (s.advance time)) = takeCarousel c (s.advance time) := by
    rw [addressStep_same (s := s.advance time) hs ha hh,
      headerStep_eq (s := s.advance time) (by rcases hs with h | h | h <;> simp [State.advance, h]) hc,
      if_neg (by rw [hk]; decide)]
  rw [step] at w
  have shown := takeCarousel_turn c (s.advance time)
  obtain ⟨u, hu'⟩ : ∃ u, u = takeCarousel c (s.advance time) := ⟨_, rfl⟩
  rw [← hu'] at w shown
  obtain ⟨state, address, run, -⟩ := shown_keeps c (s.advance time)
  have ring := shown.event.ring
  have pitch := shown.event.pitch
  refine ⟨t, ht, ?_, fun hm => ?_, ?_, ?_, ?_, ?_, ?_⟩
  · rw [w.pitch, pitch, State.shown]
    dsimp only
    split <;> rfl
  · rw [w.wholePitch hm, pitch, State.shown]
    dsimp only
    split <;> rfl
  · rw [w.state, ring, state]; rfl
  · rw [w.address, ring, address]; rfl
  · rw [w.run, ring, run]; rfl
  · rw [w.badCount, ring, State.shown]
    dsimp only
    split <;> rfl
  · rw [w.now, shown.event.now]
    rfl

end Sys2Proof.Machine
end

section
/-! Proofs about one pitch event at a head (R25, R35, R43 to R46, R90 to R92, R103 to R105): what reaches the head, stage by
stage. -/

namespace Sys2Proof.Machine

open Sys2Proof

/-! ### The infeed decision of one head (R90 to R92) -/

/-- Every head but `h` is as it was. -/
def Elsewhere (h : HeadId) (s t : State) : Prop := ∀ k, k ≠ h → t.head k = s.head k

section

variable {s t u : State} {h k : HeadId}

theorem Elsewhere.trans (a : Elsewhere h s t) (b : Elsewhere h t u) : Elsewhere h s u := fun k hk => (b k hk).trans (a k hk)

theorem Elsewhere.of_heads (e : t.heads = s.heads) : Elsewhere h s t := fun k _ => congrArg (fun v : Vector Head 8 => v[k]) e

theorem Booked.head (b : Booked s t) (k : HeadId) : t.head k = s.head k := congrArg (fun v : Vector Head 8 => v[k]) b.heads

theorem Booked.resolver (b : Booked s t) : t.resolver = s.resolver := by rw [b]

theorem elsewhere_modSeq (f : Sequencer → Sequencer) (s : State) : Elsewhere h s (s.modSeq h f) := fun k hk =>
  modHead_head_ne s h k _ hk

/-- What a NOT_SERVED record that a head makes at once leaves (R91, R155). -/
structure Immediate (h : HeadId) (r : Record) (c : CounterId) (s t : State) : Prop where
  elsewhere : Elsewhere h s t
  own : t.head h = { s.head h with seq := { s.seq h with entry := none, reserved := (t.seq h).reserved } }
  free : (s.seq h).reserved = false → (t.seq h).reserved = false
  resolver : t.resolver = s.resolver
  queue : t.queue = s.queue
  counter : t.counter c = s.counter c + 1#16
  others : ∀ x, x ≠ .recordsLost → x ≠ c → t.counter x = s.counter x
  enters : (s.seq h).reserved = false → s.roomFor 1 → s.counter c ≠ 65535#16 →
    t.orq = { s.orq with records := s.orq.records ++ [r] }

/-- An event that is counted leaves every other counter (R161). -/
theorem countEvent_counter_ne {x c : CounterId} (hx : x ≠ .recordsLost) (hne : x ≠ c) (s : State) :
    (countEvent c s).counter x = s.counter x := by
  unfold countEvent
  split
  · rw [raiseAlarm_counter _ _ _ _ hx]
    exact setCounter_counter_ne s c x _ hne
  · exact setCounter_counter_ne s c x _ hne

theorem takeReservation_orq (s : State) :
    (takeReservation h s).orq = { s.orq with reservations := s.orq.reservations + 1 } := rfl

theorem takeReservation_head (s : State) :
    (takeReservation h s).head h = { s.head h with seq := { s.seq h with reserved := true } } := modSeq_head _ h _

/-- A record placed in a reservation taken for the moment leaves the head with none. -/
theorem placedAtOnce_own (r : Record) (s : State) :
    (placeRecord h r (takeReservation h s)).head h = { s.head h with seq := { s.seq h with reserved := false } } := by
  rw [placeRecord_eq (Nat.succ_pos _)]
  show ((takeReservation h s).modSeq h fun q => { q with reserved := false }).head h = _
  rw [modSeq_head, State.seq, takeReservation_head]

theorem placedAtOnce_orq (r : Record) (hl : s.orq.lost = false) :
    (placeRecord h r (takeReservation h s)).orq = { s.orq with records := s.orq.records ++ [r] } := by
  rw [(placeRecord_reserved (s := takeReservation h s) (Nat.succ_pos _) r).1, takeReservation_orq]
  simp [hl]

theorem immediateNotServed_leaves (serial : Half) (recipe : Nat) (reason : NotServedReason) (c : CounterId)
    (hc : c ≠ .recordsLost) (s : State) :
    Immediate h (notServedRecord (headByte h) serial recipe reason (s.head h).table.position 0) c s
      (immediateNotServed h serial recipe reason c s) := by
  obtain ⟨r, hr⟩ : ∃ r, r = notServedRecord (headByte h) serial recipe reason (s.head h).table.position 0 := ⟨_, rfl⟩
  have counted := booked_countNotServed s recipe reason
  have plain := enters_countNotServed (s := s) recipe reason
  unfold immediateNotServed
  dsimp only
  rw [← hr]
  obtain ⟨u, hu⟩ : ∃ u, u = countNotServed recipe reason s := ⟨_, rfl⟩
  rw [← hu] at counted plain ⊢
  have headU : ∀ k, u.head k = s.head k := counted.head
  have seqU : u.seq h = s.seq h := congrArg Head.seq (headU h)
  have orqU : u.orq = s.orq := by rw [plain.1, List.append_nil]
  obtain ⟨v, hv⟩ : ∃ v, v = if canReserve h u then placeRecord h r (takeReservation h u) else loseRecord u := ⟨_, rfl⟩
  rw [← hv]
  have placed : v.resolver = u.resolver ∧ v.queue = u.queue ∧ (∀ x, x ≠ .recordsLost → v.counter x = u.counter x) ∧
      Elsewhere h u v ∧ ∃ b, v.head h = { u.head h with seq := { u.seq h with reserved := b } } ∧
        ((u.seq h).reserved = false → b = false) := by
    rw [hv]
    split
    · have w := work_placeRecord (takeReservation h u) h r
      have elsewhere : Elsewhere h u (takeReservation h u) := elsewhere_modSeq (h := h) _ _
      refine ⟨w.resolver, w.queue, fun x _ => ?_, elsewhere.trans w.others, false, placedAtOnce_own r u, fun _ => rfl⟩
      rw [placeRecord_eq (Nat.succ_pos _)]
      rfl
    · have b := booked_loseRecord u
      exact ⟨b.resolver, b.queue, fun x hx => loseRecord_counter hx, .of_heads b.heads, (u.seq h).reserved, b.head h, id⟩
  obtain ⟨resolver, queue, counters, elsewhere, b, own, free⟩ := placed
  have entered : (s.seq h).reserved = false → s.roomFor 1 → v.orq = { s.orq with records := s.orq.records ++ [r] } := by
    intro hf room
    have roomU : u.roomFor 1 := plain.roomFor (by simpa using room)
    have can : canReserve h u = true := by simp [canReserve, seqU, hf, roomU.orqRoom]
    rw [hv, if_pos can, placedAtOnce_orq r roomU.1, orqU]
  clear hv
  have booked := booked_countEvent v c
  have counter := countEvent_counter (s := v) hc
  have counterNe : ∀ x, x ≠ .recordsLost → x ≠ c → (countEvent c v).counter x = v.counter x := fun x hx hne =>
    countEvent_counter_ne hx hne v
  have noWrap : v.counter c ≠ 65535#16 → (countEvent c v).orq = v.orq := fun h => by rw [countEvent_eq h]; rfl
  obtain ⟨w, hw⟩ : ∃ w, w = countEvent c v := ⟨_, rfl⟩
  rw [← hw] at booked counter noWrap ⊢
  simp only [← hw] at counterNe
  have ownT : (w.modSeq h fun q => { q with entry := none }).head h =
      { s.head h with seq := { s.seq h with entry := none, reserved := b } } := by
    rw [modSeq_head, State.seq, booked.head h, own, headU h, seqU]
  have reservedT : ((w.modSeq h fun q => { q with entry := none }).seq h).reserved = b := by rw [State.seq, ownT]
  have countersU : u.counters = s.counters := plain.2
  have counterV : v.counter c = s.counter c := (counters c hc).trans (congrArg (fun z : Vector Half 10 => z[c.id]) countersU)
  refine ⟨?_, ?_, fun hf => reservedT.trans (free (by rw [seqU]; exact hf)), ?_, ?_, ?_, fun x hx hne => ?_,
    fun hf room hw' => ?_⟩
  · exact ((Elsewhere.of_heads counted.heads).trans elsewhere).trans ((Elsewhere.of_heads booked.heads).trans
      (elsewhere_modSeq _ w))
  · rw [reservedT, ownT]
  · exact booked.resolver.trans (resolver.trans counted.resolver)
  · exact booked.queue.trans (queue.trans counted.queue)
  · show w.counter c = _
    rw [counter, counterV]
  · show w.counter x = _
    rw [counterNe x hx hne, counters x hx]
    exact congrArg (fun z : Vector Half 10 => z[x.id]) countersU
  · show w.orq = _
    rw [noWrap (by rw [counterV]; exact hw'), entered hf room]

theorem requestResolution_heads (h : HeadId) (n : Nat) (s : State) : (requestResolution h n s).heads = s.heads := by
  unfold requestResolution beginResolution
  split
  · rfl
  · rfl

/-- The head of a request that has its place: reserved, with a clear cycle, and RESOLVING (R92). -/
def State.requested (h : HeadId) (s : State) : State :=
  (takeReservation h s).modSeq h fun q => { q with state := .resolving, flags := CycleFlags.clear, faultPending := false }

theorem requested_head (h : HeadId) (s : State) :
    (s.requested h).head h =
      { s.head h with
        seq := { s.seq h with reserved := true, state := .resolving, flags := CycleFlags.clear, faultPending := false } } := by
  rw [State.requested, modSeq_head, State.seq, takeReservation_head]

theorem requested_others (h : HeadId) (s : State) : Elsewhere h s (s.requested h) := by
  have elsewhere : Elsewhere h s (takeReservation h s) := elsewhere_modSeq (h := h) _ _
  exact elsewhere.trans (elsewhere_modSeq _ _)

theorem requestCycle_granted (hc : canReserve h s = true) (e : QueueEntry) :
    requestCycle h e s = requestResolution h e.recipe (s.requested h) := if_pos hc

/-- A CONTAINER entry with its container: the head resolves, or stays as it is where there is no place (R91, R92). -/
theorem requestCycle_head (e : QueueEntry) (s : State) :
    Elsewhere h s (requestCycle h e s) ∧
      (requestCycle h e s).head h =
        if canReserve h s then
          { s.head h with
            seq :=
              { s.seq h with reserved := true, state := .resolving, flags := CycleFlags.clear, faultPending := false } }
        else s.head h := by
  by_cases hc : canReserve h s = true
  · have heads := requestResolution_heads h e.recipe (s.requested h)
    rw [requestCycle_granted hc, if_pos hc, ← requested_head]
    exact ⟨(requested_others h s).trans (.of_heads heads), congrArg (fun v : Vector Head 8 => v[h]) heads⟩
  · rw [requestCycle, if_neg hc, if_neg hc]
    have lost : Booked s (countUnserved e.recipe (loseRecord s)) :=
      (booked_loseRecord s).trans (booked_modTotals _ _ _)
    exact ⟨.of_heads lost.heads, lost.head h⟩

/-- The infeed decision by its cases (R91). -/
theorem infeedDecision_container {e : QueueEntry} (hk : e.kind = .container) (serial : Half) (s : State) :
    infeedDecision h serial (some e) s =
      if (s.head h).presence = .present then requestCycle h e s
      else immediateNotServed h serial e.recipe .missingContainer .missingContainers s := by
  unfold infeedDecision
  simp only [Option.map_some, hk]
  split_ifs with hp <;> simp [hp, recipeOrNone]

theorem infeedDecision_other {x : Option QueueEntry} (hx : ∀ e, x = some e → e.kind ≠ .container) (serial : Half) (s : State) :
    infeedDecision h serial x s =
      if (s.head h).presence = .present then
        immediateNotServed h serial (recipeOrNone x) .unassignedContainer .unassigned s
      else s := by
  have kind : x.map QueueEntry.kind ≠ some .container := by
    intro e
    obtain ⟨y, hy, hk⟩ := Option.map_eq_some_iff.mp e
    exact hx y hy hk
  unfold infeedDecision
  cases he : x.map QueueEntry.kind with
  | none => by_cases hp : (s.head h).presence = .present <;> simp [hp]
  | some k =>
    cases k with
    | container => exact absurd he kind
    | gap => by_cases hp : (s.head h).presence = .present <;> simp [hp]

/-- A head in its infeed decision stays IDLE, or resolves where an entry has been handed over to it. -/
theorem infeedDecision_head (x : Option QueueEntry) (serial : Half) (s : State) :
    Elsewhere h s (infeedDecision h serial x s) ∧
      (((infeedDecision h serial x s).seq h).state = (s.seq h).state ∨
        x ≠ none ∧ ((infeedDecision h serial x s).seq h).state = .resolving) := by
  have immediate : ∀ n r c, c ≠ .recordsLost → Elsewhere h s (immediateNotServed h serial n r c s) ∧
      ((immediateNotServed h serial n r c s).seq h).state = (s.seq h).state := fun n r c hc => by
    have w := immediateNotServed_leaves (h := h) serial n r c hc s
    exact ⟨w.elsewhere, by rw [State.seq, w.own]⟩
  have nothing : Elsewhere h s s := fun _ _ => rfl
  by_cases hx : ∃ e, x = some e ∧ e.kind = .container
  · obtain ⟨e, rfl, hk⟩ := hx
    rw [infeedDecision_container hk]
    split
    · obtain ⟨elsewhere, own⟩ := requestCycle_head (h := h) e s
      refine ⟨elsewhere, ?_⟩
      rw [State.seq, own]
      split
      · exact .inr ⟨by simp, rfl⟩
      · exact .inl rfl
    · obtain ⟨a, b⟩ := immediate e.recipe .missingContainer .missingContainers (by decide)
      exact ⟨a, .inl b⟩
  · rw [infeedDecision_other fun e he hk => hx ⟨e, he, hk⟩]
    split
    · obtain ⟨a, b⟩ := immediate (recipeOrNone x) .unassignedContainer .unassigned (by decide)
      exact ⟨a, .inl b⟩
    · exact ⟨nothing, .inl rfl⟩

theorem takeInfeed_off (serial : Half) (k : EventKind) (x : Option (HeadId × QueueEntry)) (s : State)
    (hs : ¬((s.seq h).state = .idle ∧ s.ring.state = .locked ∧ k = .received)) : takeInfeed serial k x h s = s := if_neg hs

theorem takeInfeed_others (serial : Half) (k : EventKind) (x : Option (HeadId × QueueEntry)) (h : HeadId) (s : State) :
    Elsewhere h s (takeInfeed serial k x h s) := by
  unfold takeInfeed
  split
  · exact (elsewhere_modSeq _ s).trans (infeedDecision_head _ serial _).1
  · exact fun _ _ => rfl

theorem takeInfeed_state (serial : Half) (k : EventKind) (x : Option (HeadId × QueueEntry)) (s : State)
    (hi : (s.seq h).state = .idle) :
    ((takeInfeed serial k x h s).seq h).state = .idle ∨
      handedTo h x ≠ none ∧ ((takeInfeed serial k x h s).seq h).state = .resolving := by
  unfold takeInfeed
  split
  · refine (infeedDecision_head (h := h) (handedTo h x) serial _).2.imp (fun e => e.trans ?_) id
    rw [modSeq_seq]
    exact hi
  · exact .inl hi

end

/-! ### The stages of a pitch event -/

/-- Behind the stale discard of a pitch event (R35, R43). -/
def State.discarded (serial : Half) (p : Nat) (s : State) : State := discardStale serial (elapseAll p s)

/-- What the queue hands over at a pitch event, with the state behind it (R44 to R46). -/
def State.handing (serial : Half) (p : Nat) (k : EventKind) (s : State) : Option (HeadId × QueueEntry) × State :=
  handOver serial p k (s.discarded serial p)

/-- Behind the infeed decisions of a pitch event (R90). -/
def State.infed (serial : Half) (p : Nat) (k : EventKind) (s : State) : State :=
  (headsAt p (s.handing serial p k).2).foldl (fun u h => takeInfeed serial k (s.handing serial p k).1 h u) (s.handing serial p k).2

theorem pitchEvent_stages (serial : Half) (p : Nat) (k : EventKind) (s : State) :
    pitchEvent serial p k s = countEstimated k (forHeads takeDeadlines (s.infed serial p k)).requestBowl := by
  simp only [pitchEvent, State.infed, State.handing, State.discarded, countEstimated, State.requestBowl]

section

variable {s t u : State} {h : HeadId} {serial : Half} {p : Nat} {k : EventKind}

theorem rearm_node (s : State) : rearm s = { s with queue := (rearm s).queue } := by
  unfold rearm
  split <;> rfl

theorem discardStale_booked (c : Half) (s : State) : ∃ q, Booked { s with queue := q } (discardStale c s) := by
  unfold discardStale
  dsimp only
  split
  · exact ⟨s.queue, Booked.refl s⟩
  · refine ⟨(rearm { s with queue := { s.queue with entries := s.queue.entries.filter fun e => !isBehind c e.serial } }).queue, ?_⟩
    refine Booked.after (Booked.foldl (fun u e => ?_) _ _) ?_
    · exact (booked_discardRecord _ _ _ e).after (booked_countEvent u _)
    · rw [rearm_node]
      rfl

theorem handOver_booked (c : Half) (p : Nat) (k : EventKind) (s : State) :
    ∃ q, Booked { s with queue := q } (handOver c p k s).2 := by
  have left : ∀ q : AssignQueue, Booked { s with queue := (rearm { s with queue := q }).queue } (rearm { s with queue := q }) :=
    fun q => by rw [rearm_node]; rfl
  unfold handOver
  split
  · dsimp only
    split_ifs
    · exact ⟨_, (booked_discardRecord _ _ _ _).after (left _)⟩
    · exact ⟨_, (booked_discardRecord _ _ _ _).after (left _)⟩
    · exact ⟨_, left _⟩
    · exact ⟨s.queue, Booked.refl s⟩
  · exact ⟨s.queue, Booked.refl s⟩

theorem elapseAll_head (p : Nat) (s : State) (h : HeadId) :
    (elapseAll p s).head h =
      { s.head h with seq := { s.seq h with elapsed := some (elapsedCount s.settings.nPos p (s.head h).table.position) } } := by
  simp [elapseAll, State.head, State.seq]

/-- The queue's work at a pitch event leaves every head but for its elapsed count. -/
theorem handing_head (h : HeadId) :
    (s.handing serial p k).2.head h =
      { s.head h with seq := { s.seq h with elapsed := some (elapsedCount s.settings.nPos p (s.head h).table.position) } } := by
  obtain ⟨q, discarded⟩ := discardStale_booked serial (elapseAll p s)
  obtain ⟨q', handed⟩ := handOver_booked serial p k (s.discarded serial p)
  rw [← elapseAll_head]
  exact (handed.head h).trans (discarded.head h)

theorem handing_event : EventWork (elapseAll p s) (s.handing serial p k).2 :=
  (event_discardStale _ serial).trans (event_handOver _ serial p k)

theorem mem_headsAt {p : Nat} : h ∈ headsAt p s ↔ (s.head h).table.position = p := by simp [headsAt, mem_allHeads]

theorem headsAt_nodup (p : Nat) (s : State) : (headsAt p s).Nodup := List.Nodup.filter _ (by decide)

/-- Head `h` takes its infeed event on a state in which it stands as the queue's work has left it. -/
theorem infed_head (serial : Half) (p : Nat) (k : EventKind) (s : State) (h : HeadId) :
    EventWork (elapseAll p s) (s.infed serial p k) ∧
      ∃ u, u.head h = (s.handing serial p k).2.head h ∧ EventWork (elapseAll p s) u ∧
        (s.infed serial p k).head h =
          if (s.head h).table.position = p then (takeInfeed serial k (s.handing serial p k).1 h u).head h else u.head h := by
  obtain ⟨event, inside, outside⟩ := foldl_inTurn (R := EventWork) (f := takeInfeed serial k (s.handing serial p k).1)
    EventWork.refl EventWork.trans (fun h s => event_takeInfeed s _ _ _ h) (fun h k s hk => takeInfeed_others _ _ _ h s k hk)
    (headsAt p (s.handing serial p k).2) (headsAt_nodup _ _) (s.handing serial p k).2
  have handing := handing_event (s := s) (serial := serial) (p := p) (k := k)
  refine ⟨handing.trans event, ?_⟩
  have at_iff : h ∈ headsAt p (s.handing serial p k).2 ↔ (s.head h).table.position = p := by
    rw [mem_headsAt, handing_head]
  by_cases hp : (s.head h).table.position = p
  · obtain ⟨u, hu, before, taken, -⟩ := inside h (at_iff.mpr hp)
    refine ⟨u, hu, handing.trans before, ?_⟩
    rw [if_pos hp]
    exact taken
  · refine ⟨(s.handing serial p k).2, rfl, handing, ?_⟩
    rw [if_neg hp]
    exact outside h (mt at_iff.mp hp)

theorem requestBowl_head (u : State) (h : HeadId) : u.requestBowl.head h = u.head h := rfl

/-- At a pitch event head `h` meets its deadlines on a state in which it stands as the infeed decisions have left it. -/
theorem pitchEvent_head (serial : Half) (p : Nat) (k : EventKind) (s : State) (h : HeadId) :
    ∃ v, v.head h = (s.infed serial p k).head h ∧ EventWork (elapseAll p s) v ∧
      (pitchEvent serial p k s).head h = (takeDeadlines h v).head h := by
  have event := (infed_head serial p k s h).1
  obtain ⟨v, hv, before, taken, -⟩ := (forHeads_turn (fun h s => work_takeDeadlines s h) (s.infed serial p k)).2 h
  refine ⟨v, hv, event.trans before.event, ?_⟩
  rw [pitchEvent_stages, countEstimated]
  split
  · rw [(booked_countEvent _ _).head h, requestBowl_head, taken]
  · rw [requestBowl_head, taken]

/-- A head outside a cycle has no deadline. -/
theorem takeDeadlines_inactive (hs : (s.seq h).state.active = false) : takeDeadlines h s = s := by
  have test : ∀ d act, testDeadline h d act s = s := fun d act => by simp [testDeadline, hs]
  rw [takeDeadlines, test, test, test]

end

end Sys2Proof.Machine
end

section
/-! Proofs about a PITCH frame in JOINING: the lock, or a new run (R15, R26, R27, R35, R109), and the statement O18. -/

namespace Sys2Proof.Machine

open Sys2Proof

/-! ### What a pitch event leaves of the node (R25, R35, R135) -/

/-- What a pitch event leaves of the node, apart from the queue and the heads. -/
structure PitchWork (p : Nat) (k : EventKind) (s t : State) : Prop where
  now : t.now = s.now
  ring : t.ring = s.ring
  pitch : t.pitch = s.pitch
  settings : t.settings = s.settings
  scanner : t.scanner = { s.scanner with request := true }
  elapsed : ∀ h, (t.seq h).elapsed = some (elapsedCount s.settings.nPos p (s.head h).table.position)
  position : ∀ h, (t.head h).table.position = (s.head h).table.position
  missing : t.counter .missingPitches = if k = .estimated then s.counter .missingPitches + 1#16 else s.counter .missingPitches
  records : ∃ l, t.orq.records = s.orq.records ++ l

section

variable {s t u : State} {serial : Half} {p : Nat} {k : EventKind}

theorem countEvent_scanner (c : CounterId) (s : State) : (countEvent c s).scanner = s.scanner := by rw [booked_countEvent s c]

theorem countEvent_ring (c : CounterId) (s : State) : (countEvent c s).ring = s.ring := by rw [booked_countEvent s c]

theorem countEstimated_booked (k : EventKind) (s : State) : Booked s (countEstimated k s) :=
  Booked.ite (fun _ => booked_countEvent s _) fun _ => Booked.refl s

theorem Booked.ring (b : Booked s t) : t.ring = s.ring := by rw [b]

theorem Booked.scanner (b : Booked s t) : t.scanner = s.scanner := by rw [b]

theorem countEstimated_records (k : EventKind) (s : State) :
    ∃ l, (countEstimated k s).orq.records = s.orq.records ++ l := by
  unfold countEstimated
  split
  · exact (request_countEvent s _).records
  · exact ⟨[], (List.append_nil _).symm⟩

theorem pitchEvent_work (serial : Half) (p : Nat) (k : EventKind) (s : State) :
    PitchWork p k s (pitchEvent serial p k s) := by
  obtain ⟨u, w, e⟩ := pitchEvent_eq s serial p k
  rw [e]
  have b := countEstimated_booked k u.requestBowl
  have seq : ∀ h, (countEstimated k u.requestBowl).seq h = u.seq h := fun h => congrArg Head.seq (b.head h)
  have count : (countEstimated k u.requestBowl).counter .missingPitches =
      if k = .estimated then u.counter .missingPitches + 1#16 else u.counter .missingPitches := by
    unfold countEstimated
    split
    · exact countEvent_counter (by decide)
    · rfl
  obtain ⟨l, hl⟩ := countEstimated_records k u.requestBowl
  obtain ⟨m, hm⟩ := w.records
  obtain ⟨v, hv⟩ : ∃ v, v = countEstimated k u.requestBowl := ⟨_, rfl⟩
  rw [← hv] at b seq count hl ⊢
  refine ⟨b.now.trans w.now, b.ring.trans w.ring, b.pitch.trans w.pitch, b.settings.trans w.settings, b.scanner.trans ?_,
    fun h => ?_, fun h => ?_, ?_, m ++ l, ?_⟩
  · rw [State.requestBowl, w.scanner]
    rfl
  · rw [seq, w.elapsed, State.seq, elapseAll_head]
  · rw [b.head h, requestBowl_head, w.position, elapseAll_head]
  · rw [count, w.missing]
    rfl
  · rw [hl, ← List.append_assoc]
    exact congrArg (· ++ l) hm

/-- Two serials at a distance (R22). -/
theorem serialDistance_eq_iff {a b : Half} {n : Nat} (hn : n < 65536) : serialDistance a b = n ↔ b = a + BitVec.ofNat 16 n := by
  unfold serialDistance
  rw [BitVec.toNat_sub]
  constructor
  · intro h
    refine BitVec.eq_of_toNat_eq ?_
    rw [BitVec.toNat_add, BitVec.toNat_ofNat]
    have := a.isLt
    have := b.isLt
    omega
  · rintro rfl
    rw [BitVec.toNat_add, BitVec.toNat_ofNat]
    have := a.isLt
    omega

theorem setWindow_eq (s : State) : setWindow s = { s with pitch := { s.pitch with window := (setWindow s).pitch.window } } := rfl

end

/-! ### The lock (R15, R27, R109) -/

section

variable {s : State} {serial : Half} {p : Nat} {h : HeadId}

/-- The node at its lock, ahead of its first pitch event. -/
def State.locking (serial : Half) (p : Nat) (s : State) : State :=
  setWindow ((releaseHeld (s.modRing fun r => { r with state := .locked })).modPitch fun q =>
    { q with sequence := some ⟨serial, p, .received, s.nowUs⟩, joinRef := none })

theorem lockOn_eq : lockOn serial p s = pitchEvent serial p .received (s.locking serial p) := rfl

theorem locking_head : (s.locking serial p).head h =
    if (s.seq h).state = .held then { s.head h with seq := { s.seq h with state := .idle } } else s.head h := by
  have released : (s.locking serial p).head h = (releaseHeld s).head h := rfl
  rw [released, State.head, releaseHeld, Fin.getElem_fin, Vector.getElem_map]
  rfl

theorem locking_position : ((s.locking serial p).head h).table.position = (s.head h).table.position := by
  rw [locking_head]
  split <;> rfl

/-- An IDLE head behind a pitch event: it resolves only where its position is at the infeed and the queue has an entry. -/
theorem pitchEvent_idle {k : EventKind} (hi : (s.seq h).state = .idle) :
    ((pitchEvent serial p k s).seq h).state ∈ [HeadState.idle, .resolving] ∧
      (s.queue.entries = [] ∨ (s.head h).table.position ≠ p → ((pitchEvent serial p k s).seq h).state = .idle) := by
  obtain ⟨event, u, hu, before, taken⟩ := infed_head serial p k s h
  obtain ⟨v, hv, -, own⟩ := pitchEvent_head serial p k s h
  have idle : (u.seq h).state = .idle := by
    rw [State.seq, hu, handing_head]
    exact hi
  have infed : (v.seq h).state = .idle ∨ ((v.seq h).state = .resolving ∧ (s.head h).table.position = p ∧
      handedTo h (s.handing serial p k).1 ≠ none) := by
    rw [State.seq, hv, taken]
    split
    · rename_i hp
      rcases takeInfeed_state serial k (s.handing serial p k).1 u idle with e | ⟨e1, e2⟩
      · exact .inl e
      · exact .inr ⟨e2, hp, e1⟩
    · exact .inl idle
  have inactive : (v.seq h).state.active = false := by
    rcases infed with e | ⟨e, -, -⟩ <;> rw [e] <;> rfl
  have state : ((pitchEvent serial p k s).seq h).state = (v.seq h).state := by
    rw [State.seq, own, takeDeadlines_inactive inactive]
    rfl
  rw [state]
  refine ⟨?_, fun none => ?_⟩
  · rcases infed with e | ⟨e, -, -⟩ <;> rw [e] <;> decide
  · refine infed.resolve_right fun ⟨_, hp, handed⟩ => ?_
    rcases none with empty | away
    · refine handed ?_
      have discarded : (s.discarded serial p).queue.entries = [] := by
        have e : (elapseAll p s).queue.entries = [] := empty
        simp [State.discarded, discardStale, e]
      have noEntry : (s.handing serial p k).1 = none := by
        unfold State.handing handOver
        rw [discarded]
        cases chosenHead p (s.discarded serial p) <;> rfl
      rw [noEntry]
      rfl
    · exact away hp

end

/-! ### A PITCH header behind its carousel state -/

/-- What a PITCH header has made of the node as its serial and position are judged: the carousel state is shown (R16, R24), and
the bad-pitch count is 0. -/
structure Shown (c : Carousel) (s u : State) : Prop where
  ring : u.ring = { s.ring with badCount := 0 }
  pitch : u.pitch = (s.shown c).pitch
  now : u.now = s.now
  settings : u.settings = s.settings
  scanner : u.scanner = s.scanner
  queue : u.queue = s.queue
  resolver : u.resolver = s.resolver
  elapsed : ∀ h, (u.seq h).elapsed = (s.seq h).elapsed
  position : ∀ h, (u.head h).table.position = (s.head h).table.position
  counters : ∀ x, x ≠ .recordsLost → x ≠ .bursts → u.counter x = s.counter x
  records : ∃ l, u.orq.records = s.orq.records ++ l
  quiet : (∀ h, (s.seq h).state ≠ .stepHold) → u.orq = s.orq ∧ u.counters = s.counters
  head : ∀ h, (s.seq h).state ≠ .stepHold ∨ c ≠ .running →
    u.head h = { s.head h with seq := { s.seq h with stepMode := (s.seq h).stepMode && decide (c ≠ .running) } }

section

variable {c : Carousel} {s t u : State} {f : Frame}

theorem shown_takeCarousel (c : Carousel) (s : State) :
    Shown c s ((takeCarousel c s).modRing fun r => { r with badCount := 0 }) := by
  have w := takeCarousel_turn c s
  refine ⟨?_, w.event.pitch, w.event.now, w.event.settings, w.event.scanner, w.queue, w.resolver, w.event.elapsed,
    w.event.position, fun x h1 h2 => ?_, w.event.records, fun hs => ?_, takeCarousel_head c s⟩
  · show ({ (takeCarousel c s).ring with badCount := 0 } : RingPort) = _
    rw [w.event.ring, State.shown]
    dsimp only
    split <;> rfl
  · exact w.node.counters x h1 h2
  · obtain ⟨x, hx⟩ := takeCarousel_quiet c s hs
    rw [hx]
    exact ⟨rfl, rfl⟩

namespace Shown

variable (w : Shown c s u)
include w

theorem missing : u.counter .missingPitches = s.counter .missingPitches := w.counters _ (by decide) (by decide)

theorem lastBeyond : u.pitch.lastBeyond = s.pitch.lastBeyond := by
  rw [w.pitch, State.shown]
  dsimp only
  split <;> rfl

theorem sequence : u.pitch.sequence = s.pitch.sequence := by
  rw [w.pitch, State.shown]
  dsimp only
  split <;> rfl

theorem carousel : u.pitch.carousel = c := by
  rw [w.pitch, State.shown]
  dsimp only
  split <;> rfl

theorem estimate : u.pitch.estimate = if c = .running then s.pitch.estimate else none := by
  rw [w.pitch, State.shown]
  dsimp only
  split <;> rfl

theorem measureValid : u.pitch.measureValid = if c = .running then s.pitch.measureValid else false := by
  rw [w.pitch, State.shown]
  dsimp only
  split <;> rfl

theorem state : u.ring.state = s.ring.state := by rw [w.ring]

theorem address : u.ring.address = s.ring.address := by rw [w.ring]

theorem run : u.ring.run = s.ring.run := by rw [w.ring]

theorem badCount : u.ring.badCount = 0 := by rw [w.ring]

theorem held {h : HeadId} (hh : (s.seq h).state = .held) : (u.seq h).state = .held := by
  rw [State.seq, w.head h (.inl (by rw [hh]; decide))]
  exact hh

end Shown

theorem headerStep_pitch (hs : s.ring.state ≠ .failed) (hc : carouselOf f.carousel = some c) (hk : f.kind = 1#8) :
    headerStep f s = takePitchHeader f.serial f.position.toNat (takeCarousel c s) := by
  rw [headerStep_eq hs hc, if_pos hk]

/-- A frame that follows the one before it in the lock run (R15). -/
theorem runAfter_second {serial : Half} {p : Nat} (h : s.pitch.lastBeyond = false) (one : s.ring.run.length = 1)
    (d : serialDistance s.ring.run.serial serial = 1) (hp : p = positionAfter s.settings.nPos s.ring.run.position 1) :
    s.runAfter serial p = ⟨2, serial, p⟩ := by
  rw [State.runAfter, if_neg (by simp [h]), LockRun.extend, if_pos ⟨one, d, hp⟩]

theorem joiningPitch_locks {serial : Half} {p : Nat} {a : Fin 32} (h : s.runAfter serial p = ⟨2, serial, p⟩)
    (ha : s.ring.address = some a) : joiningPitch serial p s = lockOn serial p (s.joined serial p) := by
  rw [joiningPitch_eq, h, ha]
  rfl

/-- What a frame in JOINING that does not lock the node leaves of it. -/
theorem runAfter_cases (serial : Half) (p : Nat) (s : State) :
    s.runAfter serial p = ⟨1, serial, p⟩ ∨ s.runAfter serial p = ⟨2, serial, p⟩ := by
  unfold State.runAfter LockRun.extend
  split_ifs
  · exact .inl rfl
  · exact .inr rfl
  · exact .inl rfl

/-- An unlatched node goes on from length 1 (R15). -/
theorem joiningPitch_unlatched {serial : Half} {p : Nat} (ha : s.ring.address = none) :
    joiningPitch serial p s = (s.joined serial p).modRing fun r => { r with run := ⟨1, serial, p⟩ } := by
  have run : (s.joined serial p).ring.run = s.runAfter serial p := by rw [joined_eq]
  obtain ⟨v, hv⟩ : ∃ v, v = s.joined serial p := ⟨_, rfl⟩
  rw [joiningPitch_eq, ha]
  rw [← hv] at run ⊢
  rcases runAfter_cases serial p s with e | e
  · rw [e, if_neg (Nat.ne_of_beq_eq_false rfl), State.modRing, ← e, ← run]
  · rw [e, if_pos rfl, if_neg (by decide), State.modRing, State.modRing, run, e]

end

/-- Settles O18: the lock by `pitchEvent_work` and `pitchEvent_idle`, any other frame by `joined_eq`. -/
theorem secondPitchFrameLocksTheNode : Obligations.SecondPitchFrameLocksTheNode := by
  refine ⟨?_, ?_⟩
  · intro time f c a s hu hk hs ha hh hc follows arrival
    obtain ⟨t, ht, w⟩ := exec_frameWork (time := time) (i := .pitchFrame time f) List.mem_cons_self hu (by rw [hs]; decide)
    rw [addressStep_same (s := s.advance time) (.inl hs) ha hh,
      headerStep_pitch (s := s.advance time) (by rw [show (s.advance time).ring.state = .joining from hs]; decide) hc hk,
      takePitchHeader_joining (takeCarousel_staysOut (s := s.advance time) c hs).state] at w
    have shown := shown_takeCarousel c (s.advance time)
    obtain ⟨u, hu'⟩ : ∃ u, u = (takeCarousel c (s.advance time)).modRing fun r => { r with badCount := 0 } := ⟨_, rfl⟩
    rw [← hu'] at w shown
    clear hu'
    have nowUs : u.nowUs = arrival := by rw [State.nowUs, shown.now]; rfl
    have address : u.ring.address = some a := shown.address.trans ha
    have followsU : follows ↔ u.pitch.lastBeyond = false ∧ u.ring.run.length = 1 ∧
        serialDistance u.ring.run.serial f.serial = 1 ∧
        f.position.toNat = positionAfter u.settings.nPos u.ring.run.position 1 := by
      rw [shown.lastBeyond, shown.run, shown.settings, serialDistance_eq_iff (by decide)]
      rfl
    have je := joined_eq (s := u) (serial := f.serial) (p := f.position.toNat)
    have same := joined_estimate (s := u) (serial := f.serial) (p := f.position.toNat)
    refine ⟨fun hf => ?_, fun hf => ?_⟩
    · obtain ⟨last, one, serial, place⟩ := followsU.mp hf
      rw [joiningPitch_locks (runAfter_second last one serial place) address, lockOn_eq] at w
      obtain ⟨v, hv⟩ : ∃ v, v = u.joined f.serial f.position.toNat := ⟨_, rfl⟩
      rw [← hv] at je w
      have work := pitchEvent_work f.serial f.position.toNat .received (v.locking f.serial f.position.toNat)
      have idle := fun h => pitchEvent_idle (s := v.locking f.serial f.position.toNat) (serial := f.serial)
        (p := f.position.toNat) (h := h) (k := .received)
      obtain ⟨x, hx⟩ : ∃ x, x = pitchEvent f.serial f.position.toNat .received (v.locking f.serial f.position.toNat) := ⟨_, rfl⟩
      rw [← hx] at w work
      simp only [← hx] at idle
      have headV : ∀ h, v.head h = u.head h := fun h => by rw [je]; rfl
      have nowV : v.nowUs = arrival := by rw [je]; exact nowUs
      have settings : (v.locking f.serial f.position.toNat).settings = s.settings := by
        show v.settings = s.settings
        rw [je]
        exact shown.settings
      have position : ∀ h, ((v.locking f.serial f.position.toNat).head h).table.position = (s.head h).table.position :=
        fun h => by rw [locking_position, headV]; exact shown.position h
      refine ⟨t, ht, ?_, ?_, ?_, ?_, ?_, fun h => ?_, fun hm => ?_, fun hm h hh => ?_⟩
      · rw [w.state, work.ring]
        rfl
      · rw [w.sequence, work.pitch, ← nowV]
        rfl
      · rw [w.joinRef, work.pitch]
        rfl
      · rw [w.badCount, work.ring]
        show v.ring.badCount = 0
        rw [je]
        exact shown.badCount
      · rw [w.address, work.ring]
        show v.ring.address = some a
        rw [je]
        exact address
      · rw [w.elapsed, work.elapsed, settings, position]
      · rw [w.scanner hm, work.scanner]
      · have free : ((v.locking f.serial f.position.toNat).seq h).state = .idle := by
          have heldV : (v.seq h).state = .held := by rw [State.seq, headV]; exact shown.held hh
          rw [State.seq, locking_head, if_pos heldV]
        obtain ⟨state, none⟩ := idle h free
        rw [w.seq hm]
        refine ⟨state, fun away => none ?_⟩
        rw [position]
        refine away.imp (fun e => ?_) id
        show v.queue.entries = []
        rw [je]
        show u.queue.entries = []
        rw [shown.queue]
        exact e
    · have first : u.runAfter f.serial f.position.toNat = ⟨1, f.serial, f.position.toNat⟩ := by
        refine runAfter_first ?_
        by_cases last : u.pitch.lastBeyond = true
        · exact .inl last
        · exact .inr fun ⟨one, serial, place⟩ => hf (followsU.mpr ⟨by simpa using last, one, serial, place⟩)
      rw [joiningPitch_first first] at w
      obtain ⟨v, hv⟩ : ∃ v, v = u.joined f.serial f.position.toNat := ⟨_, rfl⟩
      rw [← hv] at je w same
      refine ⟨t, ht, ?_, ?_, ?_, ?_, ?_, fun hm => ⟨?_, ?_⟩, fun last => ?_⟩
      · rw [w.state, je]
        exact shown.state.trans hs
      · rw [w.run, je]
        exact first
      · rw [w.sequence, je]
        exact shown.sequence
      · rw [w.joinRef, je, ← nowUs, ← shown.carousel]
      · rw [w.badCount, je]
        exact shown.badCount
      · rw [w.wholePitch hm, je]
      · rw [w.scanner hm, je]
        exact shown.scanner
      · rw [w.estimate, same (.inr (shown.lastBeyond.trans last)), shown.estimate]
        rfl
  · intro time f c s hu hk hs ha hh hc
    obtain ⟨t, ht, w⟩ := exec_frameWork (time := time) (i := .pitchFrame time f) List.mem_cons_self hu (by rw [hs]; decide)
    have step : addressStep f.hop (s.advance time) = s.advance time := by
      rw [addressStep, show (s.advance time).ring.state = .joining from hs]
      exact if_pos ((addressOf_of_le hh).trans ha.symm)
    rw [step, headerStep_pitch (s := s.advance time) (by rw [show (s.advance time).ring.state = .joining from hs]; decide) hc hk,
      takePitchHeader_joining (takeCarousel_staysOut (s := s.advance time) c hs).state] at w
    have shown := shown_takeCarousel c (s.advance time)
    obtain ⟨u, hu'⟩ : ∃ u, u = (takeCarousel c (s.advance time)).modRing fun r => { r with badCount := 0 } := ⟨_, rfl⟩
    rw [← hu'] at w shown
    clear hu'
    have nowUs : u.nowUs = max s.now time / 10 := by rw [State.nowUs, shown.now]; rfl
    rw [joiningPitch_unlatched (shown.address.trans ha)] at w
    have je := joined_eq (s := u) (serial := f.serial) (p := f.position.toNat)
    obtain ⟨v, hv⟩ : ∃ v, v = u.joined f.serial f.position.toNat := ⟨_, rfl⟩
    rw [← hv] at je w
    have pitch : v.pitch.sequence = u.pitch.sequence ∧ v.pitch.joinRef = some ⟨f.serial, f.position.toNat, u.nowUs, u.pitch.carousel⟩ := by
      rw [je]
      exact ⟨rfl, rfl⟩
    have ring : v.ring = { u.ring with run := u.runAfter f.serial f.position.toNat } := by rw [je]
    have head : ∀ h, v.head h = u.head h := fun h => by rw [je]; rfl
    refine ⟨t, ht, ?_, ?_, w.run, ?_, ?_, ?_, fun hm h hh => ?_⟩
    · rw [w.state]
      show v.ring.state = _
      rw [ring]
      exact shown.state.trans hs
    · rw [w.address]
      show v.ring.address = _
      rw [ring]
      exact shown.address.trans ha
    · rw [w.badCount]
      show v.ring.badCount = _
      rw [ring]
      exact shown.badCount
    · exact w.sequence.trans (pitch.1.trans shown.sequence)
    · rw [w.joinRef]
      show v.pitch.joinRef = _
      rw [pitch.2, nowUs, shown.carousel]
    · rw [w.seq hm]
      show (v.seq h).state = _
      rw [State.seq, head]
      exact shown.held hh

end Sys2Proof.Machine
end

section
/-! Proofs about a PITCH frame that goes on with the sequence in LOCKED or HOLDOVER: the expected pitch, the reconfirmation and
the catch-up (R18, R28 to R32), and the statements O19 and O20. -/

namespace Sys2Proof.Machine

open Sys2Proof

/-! ### The estimate and the window (R28, R29) -/

section

variable {s t u : State} {serial : Half} {p : Nat}

/-- The estimate after a measured gap, in whole numbers. -/
theorem estimateAfter_eq (i : Option Nat) (gap : Nat) :
    estimateAfter i gap =
      match i with
      | none => max 1000 (min 2000000 gap)
      | some i =>
        let k := max (i / 2) (min (2 * i) gap)
        max 1000 (min 2000000 (if i ≤ k then i + (k - i) / 8 else i - (i - k) / 8)) := by
  cases i with
  | none => rfl
  | some i =>
    simp only [estimateAfter, clampNat, clampInt]
    generalize max (i / 2) (min (2 * i) gap) = k
    have lo : (Config.estimateMin : Int) = 1000 := rfl
    have hi : (Config.estimateMax : Int) = 2000000 := rfl
    rw [lo, hi]
    split
    · rename_i h
      have e : ((k : Int) - (i : Int)).tdiv 8 = ((k - i) / 8 : Nat) := by
        rw [← Nat.cast_sub h]
        rfl
      rw [e]
      omega
    · rename_i h
      have e : ((k : Int) - (i : Int)).tdiv 8 = -(((i - k) / 8 : Nat) : Int) := by
        rw [← neg_sub, Int.neg_tdiv, ← Nat.cast_sub (Nat.le_of_lt (Nat.lt_of_not_le h))]
        rfl
      rw [e]
      omega

theorem windowFrom_eq (t : Nat) (s : State) :
    windowFrom t s = if s.pitch.carousel = .running then s.pitch.estimate.map (fun i => t + i + i / 2) else none := by
  unfold windowFrom
  cases s.pitch.carousel <;> cases s.pitch.estimate <;> simp

/-- In LOCKED and HOLDOVER the window runs from the last event time (R29). -/
theorem setWindow_serving {q : PitchSequence} (hs : s.ring.state = .locked ∨ s.ring.state = .holdover)
    (hq : s.pitch.sequence = some q) : setWindow s = { s with pitch := { s.pitch with window := windowFrom q.time s } } := by
  have window : (setWindow s).pitch.window = windowFrom q.time s := by
    rcases hs with hs | hs <;> simp only [setWindow, State.modPitch, hs, hq]
  rw [setWindow_eq, window]

/-! ### The lock run in HOLDOVER (R18) -/

theorem holdoverRun_node (s : State) : holdoverRun serial p s = { s with ring := (holdoverRun serial p s).ring } := by
  unfold holdoverRun extendRun
  dsimp only
  split_ifs <;> rfl

theorem holdoverRun_locked (hs : s.ring.state = .locked) : holdoverRun serial p s = s :=
  if_neg (by rw [hs]; decide)

theorem holdoverRun_ring (hs : s.ring.state = .holdover) :
    (holdoverRun serial p s).ring =
      { s.ring with
        run := s.runAfter serial p, state := if (s.runAfter serial p).length = 2 then .locked else .holdover } := by
  have run : (extendRun serial p s).ring = { s.ring with run := s.runAfter serial p } := rfl
  have e : holdoverRun serial p s =
      if (s.runAfter serial p).length = 2 then (extendRun serial p s).modRing fun r => { r with state := .locked }
      else extendRun serial p s := if_pos hs
  rw [e]
  split
  · rw [State.modRing, run]
  · rw [run, ← hs]

theorem holdoverRun_badCount (s : State) : (holdoverRun serial p s).ring.badCount = s.ring.badCount := by
  unfold holdoverRun extendRun
  dsimp only
  split_ifs <;> rfl

theorem runAfter_length (h : s.pitch.lastBeyond = false) :
    s.runAfter serial p =
      ⟨if s.ring.run.length = 1 ∧ serial = s.ring.run.serial + 1#16 ∧
          p = (s.ring.run.position + 1) % s.settings.nPos then 2 else 1, serial, p⟩ := by
  have one : serialDistance s.ring.run.serial serial = 1 ↔ serial = s.ring.run.serial + 1#16 :=
    serialDistance_eq_iff (by decide)
  split_ifs with follows
  · exact runAfter_second h follows.1 (one.mpr follows.2.1) follows.2.2
  · exact runAfter_first (.inr fun k => follows ⟨k.1, one.mp k.2.1, k.2.2⟩)

/-! ### A frame that goes on with the sequence -/

/-- The sequence at a received pitch `serial` at position `p`. -/
def State.sequenced (serial : Half) (p : Nat) (s : State) : PitchTimer :=
  { s.pitch with
    sequence := some ⟨serial, p, .received, s.nowUs⟩, measureValid := decide (s.pitch.carousel = .running)
    window := if s.pitch.carousel = .running then s.pitch.estimate.map (fun i => s.nowUs + i + i / 2) else none }

theorem reconfirmPitch_eq (hs : s.ring.state = .locked ∨ s.ring.state = .holdover) :
    reconfirmPitch serial p s = { s with pitch := s.sequenced serial p } := by
  rw [reconfirmPitch, setWindow_serving (s := sequenceFrom serial p s) hs rfl, windowFrom_eq]
  rfl

/-- A received pitch in LOCKED or HOLDOVER: its event, and the window from its arrival. -/
def State.receives (serial : Half) (p : Nat) (s : State) : State :=
  setWindow (pitchEvent serial p .received (sequenceFrom serial p s))

theorem receives_work (hs : s.ring.state = .locked ∨ s.ring.state = .holdover) :
    (s.receives serial p).pitch = s.sequenced serial p ∧ (s.receives serial p).now = s.now ∧
      (s.receives serial p).ring = s.ring ∧ (s.receives serial p).settings = s.settings ∧
      (s.receives serial p).scanner.request = true ∧
      (s.receives serial p).counter .missingPitches = s.counter .missingPitches ∧
      (∀ h, ((s.receives serial p).seq h).elapsed =
        some (elapsedCount s.settings.nPos p (s.head h).table.position)) ∧
      ∀ h, (s.receives serial p).head h = (pitchEvent serial p .received (sequenceFrom serial p s)).head h := by
  have w := pitchEvent_work serial p .received (sequenceFrom serial p s)
  unfold State.receives
  obtain ⟨u, hu⟩ : ∃ u, u = pitchEvent serial p .received (sequenceFrom serial p s) := ⟨_, rfl⟩
  rw [← hu] at w ⊢
  have ring : u.ring = s.ring := w.ring
  have sequence : u.pitch.sequence = some ⟨serial, p, .received, s.nowUs⟩ := by rw [w.pitch]; rfl
  rw [setWindow_serving (by rw [ring]; exact hs) sequence]
  refine ⟨?_, w.now, ring, w.settings, ?_, w.missing, w.elapsed, fun _ => rfl⟩
  · show ({ u.pitch with window := windowFrom s.nowUs u } : PitchTimer) = _
    rw [windowFrom_eq, w.pitch]
    rfl
  · show u.scanner.request = true
    rw [w.scanner]

/-- What a PITCH frame that goes on with the sequence leaves, behind the lock run of HOLDOVER. -/
structure OnPace (serial : Half) (p : Nat) (s t : State) : Prop where
  pitch : t.pitch = s.sequenced serial p
  badCount : t.ring.badCount = s.ring.badCount
  locked : s.ring.state = .locked → t.ring.state = .locked
  holdover : s.ring.state = .holdover →
    t.ring.state = (if (s.runAfter serial p).length = 2 then .locked else .holdover) ∧ t.ring.run = s.runAfter serial p

theorem holdoverRun_onPace {v : State} (pitch : v.pitch = s.sequenced serial p) (ring : v.ring = s.ring) (settings : v.settings = s.settings) :
    OnPace serial p s (holdoverRun serial p v) := by
  have run : v.runAfter serial p = s.runAfter serial p := by
    rw [State.runAfter, State.runAfter, ring, settings, pitch]
    rfl
  refine ⟨?_, (holdoverRun_badCount v).trans (by rw [ring]), fun h => ?_, fun h => ?_⟩
  · rw [holdoverRun_node]
    exact pitch
  · rw [holdoverRun_locked (by rw [ring]; exact h), ring]
    exact h
  · rw [holdoverRun_ring (by rw [ring]; exact h), run]
    exact ⟨rfl, rfl⟩

/-! ### The cases of a PITCH frame (R30 to R32) -/

theorem takePitchHeader_serving (hs : s.ring.state = .locked ∨ s.ring.state = .holdover) :
    takePitchHeader serial p s = servingPitch serial p (s.modRing fun r => { r with badCount := 0 }) := by
  rcases hs with hs | hs
  · rw [takePitchHeader, show (s.modRing fun r => { r with badCount := 0 }).ring.state = .locked from hs]
  · rw [takePitchHeader, show (s.modRing fun r => { r with badCount := 0 }).ring.state = .holdover from hs]

section

variable {q : PitchSequence} (hq : s.pitch.sequence = some q)
include hq

theorem servingPitch_expected
    (hc : pitchCase s.settings.nPos s.settings.holdover s.pitch.lastBeyond q serial p = .expected) :
    servingPitch serial p s = holdoverRun serial p (expectedPitch q serial p s) := by
  simp only [servingPitch, hq, hc]

theorem servingPitch_reconfirmation
    (hc : pitchCase s.settings.nPos s.settings.holdover s.pitch.lastBeyond q serial p = .reconfirmation) :
    servingPitch serial p s = holdoverRun serial p (reconfirmPitch serial p s) := by
  simp only [servingPitch, hq, hc]

theorem servingPitch_catchUp
    (hc : pitchCase s.settings.nPos s.settings.holdover s.pitch.lastBeyond q serial p = .catchUp) :
    servingPitch serial p s = holdoverRun serial p (catchUpPitch q serial p s) := by
  simp only [servingPitch, hq, hc]

theorem servingPitch_discontinuity
    (hc : pitchCase s.settings.nPos s.settings.holdover s.pitch.lastBeyond q serial p = .discontinuity) :
    servingPitch serial p s = discontinuity q serial s := by
  simp only [servingPitch, hq, hc]

end

theorem pitchCase_expected {nPos limit : Nat} {q : PitchSequence} (h1 : serial = q.serial + 1#16)
    (h2 : p = (q.position + 1) % nPos) : pitchCase nPos limit false q serial p = .expected := by
  rw [pitchCase, if_neg (by decide)]
  exact if_pos ⟨h1, h2⟩

theorem pitchCase_reconfirmation {nPos limit : Nat} {q : PitchSequence} (hk : q.kind = .estimated) (h1 : serial = q.serial)
    (h2 : p = q.position) (h3 : q.position < nPos) : pitchCase nPos limit false q serial p = .reconfirmation := by
  have other : ¬(serial = nextSerial q.serial ∧ p = positionAfter nPos q.position 1) := fun h => by
    have := h1.symm.trans h.1
    unfold nextSerial at this
    bv_omega
  rw [pitchCase, if_neg (by decide)]
  rw [if_neg other, if_pos ⟨h1, hk, h2, h2.symm ▸ h3⟩]

theorem pitchCase_catchUp {nPos limit n : Nat} {q : PitchSequence} (h0 : 1 ≤ n) (hn : n ≤ limit) (h16 : n ≤ 16)
    (h1 : serial = q.serial + 1#16 + BitVec.ofNat 16 n) (h2 : p = (q.position + n + 1) % nPos) :
    pitchCase nPos limit false q serial p = .catchUp ∧ serialDistance (nextSerial q.serial) serial = n := by
  have ahead : serialDistance (nextSerial q.serial) serial = n := (serialDistance_eq_iff (by omega)).mpr h1
  have both : serialDistance q.serial serial = n + 1 := by
    refine (serialDistance_eq_iff (by omega)).mpr ?_
    rw [h1]
    refine BitVec.eq_of_toNat_eq ?_
    simp only [BitVec.toNat_add, BitVec.toNat_ofNat]
    omega
  have other : ¬(serial = nextSerial q.serial ∧ p = positionAfter nPos q.position 1) := fun h => by
    rw [h.1, serialDistance, BitVec.sub_self] at ahead
    simp only [BitVec.toNat_ofNat] at ahead
    omega
  have same : ¬(serial = q.serial ∧ q.kind = .estimated ∧ p = q.position ∧ p < nPos) := fun h => by
    rw [h.1, serialDistance, BitVec.sub_self] at both
    simp only [BitVec.toNat_ofNat] at both
    omega
  refine ⟨?_, ahead⟩
  rw [pitchCase, if_neg (by decide)]
  rw [if_neg other, if_neg same, ahead, both, if_pos ⟨h0, hn, h2⟩]

/-! ### The estimated events of a catch-up (R32) -/

/-- What the estimated events of a catch-up leave. -/
structure CatchUpWork (n : Nat) (s t : State) : Prop where
  now : t.now = s.now
  ring : t.ring = s.ring
  pitch : t.pitch = s.pitch
  settings : t.settings = s.settings
  position : ∀ h, (t.head h).table.position = (s.head h).table.position
  missing : t.counter .missingPitches = s.counter .missingPitches + BitVec.ofNat 16 n

theorem catchUpEvents_work (nPos n : Nat) (e : Half) (p : Nat) (s : State) :
    CatchUpWork n s (catchUpEvents nPos n e p s) := by
  induction n generalizing e p s with
  | zero => exact ⟨rfl, rfl, rfl, rfl, fun _ => rfl, by rw [BitVec.add_zero]; rfl⟩
  | succ n ih =>
    have w := pitchEvent_work e p .estimated s
    have rest := ih (nextSerial e) (positionAfter nPos p 1) (pitchEvent e p .estimated s)
    refine ⟨rest.now.trans w.now, rest.ring.trans w.ring, rest.pitch.trans w.pitch, rest.settings.trans w.settings,
      fun h => (rest.position h).trans (w.position h), ?_⟩
    have missing := rest.missing
    rw [w.missing, if_pos rfl, BitVec.add_assoc] at missing
    rw [catchUpEvents, missing, BitVec.ofNat_add, BitVec.add_comm (1#16)]

end

/-! ### The statements -/

/-- A used PITCH frame of a node that holds its sequence, up to the case of the frame. -/
theorem exec_servingPitch {time : Ticks} {f : Frame} {c : Carousel} {a : Fin 32} {s : State} (hu : s.usesFrame f)
    (hk : f.kind = 1#8) (hs : s.ring.state = .locked ∨ s.ring.state = .holdover) (ha : s.ring.address = some a)
    (hh : f.hop.toNat = a.val) (hc : carouselOf f.carousel = some c) :
    ∃ t u, exec (.pitchFrame time f) s = .next t ∧ Shown c (s.advance time) u ∧
      FrameWork f (servingPitch f.serial f.position.toNat u) t := by
  obtain ⟨t, ht, w⟩ := exec_frameWork (time := time) (i := .pitchFrame time f) List.mem_cons_self hu
    (by rcases hs with h | h <;> rw [h] <;> decide)
  have state := (takeCarousel_turn c (s.advance time)).event.ring
  rw [addressStep_same (s := s.advance time) (.inr hs) ha hh,
    headerStep_pitch (s := s.advance time) (by rcases hs with h | h <;> simp [State.advance, h]) hc hk,
    takePitchHeader_serving (by rw [state, (shown_keeps c _).1]; exact hs)] at w
  exact ⟨t, _, ht, shown_takeCarousel c (s.advance time), w⟩

/-- Settles O19, by `receives_work` and `holdoverRun_onPace`. -/
theorem expectedPitchIsReceived : Obligations.ExpectedPitchIsReceived := by
  intro time f c q a s hu hk hs ha hh hc hq hb h1 h2 arrival gap measured
  obtain ⟨t, u, ht, shown, w⟩ := exec_servingPitch (time := time) hu hk hs ha hh hc
  have sequence : u.pitch.sequence = some q := shown.sequence.trans hq
  have last : u.pitch.lastBeyond = false := shown.lastBeyond.trans hb
  have nowUs : u.nowUs = arrival := by rw [State.nowUs, shown.now]; rfl
  have settings : u.settings = s.settings := shown.settings
  have serving : u.ring.state = .locked ∨ u.ring.state = .holdover := by rw [shown.state]; exact hs
  have kind : pitchCase u.settings.nPos u.settings.holdover u.pitch.lastBeyond q f.serial f.position.toNat = .expected := by
    rw [last, settings]
    exact pitchCase_expected h1 h2
  rw [servingPitch_expected sequence kind] at w
  obtain ⟨m, hm⟩ : ∃ m, m = if q.kind = .received ∧ u.pitch.carousel = .running ∧ u.pitch.measureValid = true then
    measure (u.nowUs - q.time) u else u := ⟨_, rfl⟩
  have node : m = { u with pitch := { u.pitch with estimate := m.pitch.estimate } } := by
    rw [hm]
    split <;> rfl
  have estimate : m.pitch.estimate =
      if c ≠ .running then none
      else if q.kind = .received ∧ s.pitch.measureValid = true then some measured
      else s.pitch.estimate := by
    have valid := shown.measureValid
    have before := shown.estimate
    rw [hm, shown.carousel]
    by_cases hr : c = .running
    · rw [if_pos hr] at valid before
      have valid' : u.pitch.measureValid = s.pitch.measureValid := valid
      have before' : u.pitch.estimate = s.pitch.estimate := before
      simp only [hr, ne_eq, not_true_eq_false, if_false, true_and, valid']
      split
      · show some (estimateAfter u.pitch.estimate (u.nowUs - q.time)) = _
        rw [before', nowUs]
        exact congrArg some (estimateAfter_eq s.pitch.estimate gap)
      · exact before'
    · rw [if_neg hr] at before
      simp only [hr, false_and, and_false, if_false, ne_eq, not_false_eq_true, if_true]
      exact before
  have expected : expectedPitch q f.serial f.position.toNat u = m.receives f.serial f.position.toNat := by
    rw [hm]
    rfl
  rw [expected] at w
  have servingM : m.ring.state = .locked ∨ m.ring.state = .holdover := by rw [node]; exact serving
  obtain ⟨pitch, now, ring, setM, request, -, elapsed, -⟩ := receives_work (serial := f.serial) (p := f.position.toNat) servingM
  obtain ⟨v, hv⟩ : ∃ v, v = m.receives f.serial f.position.toNat := ⟨_, rfl⟩
  rw [← hv] at w pitch now ring setM request
  simp only [← hv] at elapsed
  have goes := holdoverRun_onPace pitch ring setM
  have rest := holdoverRun_node (serial := f.serial) (p := f.position.toNat) v
  obtain ⟨x, hx⟩ : ∃ x, x = holdoverRun f.serial f.position.toNat v := ⟨_, rfl⟩
  rw [← hx] at w goes rest
  have carousel : m.pitch.carousel = c := by rw [node]; exact shown.carousel
  have arrivalM : m.nowUs = arrival := by rw [node]; exact nowUs
  have estimateT : t.pitch.estimate = m.pitch.estimate := by
    rw [w.estimate, goes.pitch]
    rfl
  refine ⟨t, ht, ?_, ?_, ?_, estimateT.trans estimate, ?_, fun h => ?_, fun h => ?_, fun hm => ?_, fun h => ?_⟩
  · rw [w.sequence, goes.pitch, ← arrivalM]
    rfl
  · rw [w.badCount, goes.badCount, node]
    exact shown.badCount
  · rw [w.carousel, goes.pitch]
    exact carousel
  · rw [estimateT, w.window, goes.pitch, ← arrivalM]
    show (if m.pitch.carousel = .running then m.pitch.estimate.map _ else none) = _
    rw [carousel, estimate]
    by_cases hr : c = .running
    · rw [if_pos hr]
    · rw [if_neg hr, if_pos hr]
      rfl
  · rw [w.state]
    refine goes.locked ?_
    rw [node]
    exact shown.state.trans h
  · intro r second
    obtain ⟨g1, g2⟩ := goes.holdover (by rw [node]; exact shown.state.trans h)
    have lastM : m.pitch.lastBeyond = false := by rw [node]; exact last
    have run : m.ring.run = s.ring.run := by rw [node]; exact shown.run
    have setM : m.settings = s.settings := by rw [node]; exact shown.settings
    rw [runAfter_length lastM, run, setM] at g1 g2
    rw [w.state, w.run, g1, g2]
    refine ⟨if_congr ?_ rfl rfl, rfl⟩
    by_cases two : second
    · exact iff_of_true (if_pos two) two
    · exact iff_of_false (fun e => absurd ((if_neg two).symm.trans e) (by decide)) two
  · rw [w.scanner hm, rest]
    exact request
  · have seq : (x.seq h).elapsed = (v.seq h).elapsed := by rw [rest]; rfl
    have head : m.head h = u.head h := by rw [node]; rfl
    have setM : m.settings = s.settings := by rw [node]; exact shown.settings
    rw [w.elapsed, seq, elapsed, setM, head]
    exact congrArg (fun n => some (elapsedCount _ _ n)) (shown.position h)

/-- Settles O20: the reconfirmation by `reconfirmPitch_eq`, the catch-up by `catchUpEvents_work` and `receives_work`. -/
theorem reconfirmationAndCatchUp : Obligations.ReconfirmationAndCatchUp := by
  intro time f c q a s hu hk hs ha hh hc hq hb arrival timing
  obtain ⟨t, u, ht, shown, w⟩ := exec_servingPitch (time := time) hu hk hs ha hh hc
  have sequence : u.pitch.sequence = some q := shown.sequence.trans hq
  have last : u.pitch.lastBeyond = false := shown.lastBeyond.trans hb
  have nowUs : u.nowUs = arrival := by rw [State.nowUs, shown.now]; rfl
  have settings : u.settings = s.settings := shown.settings
  have serving : u.ring.state = .locked ∨ u.ring.state = .holdover := by rw [shown.state]; exact hs
  have timed : ∀ {v : State} {x y : State} {serial : Half} {p : Nat}, v.pitch = u.pitch → v.now = u.now →
      v.ring = u.ring → OnPace serial p v x → FrameWork f x y → timing y := by
    intro v x y serial p pitch now ring goes w
    have carousel : v.pitch.carousel = c := by rw [pitch]; exact shown.carousel
    have arrivalV : v.nowUs = arrival := by rw [State.nowUs, now]; exact nowUs
    have estimateY : y.pitch.estimate = if c = .running then s.pitch.estimate else none := by
      rw [w.estimate, goes.pitch]
      show v.pitch.estimate = _
      rw [pitch, shown.estimate]
      rfl
    refine ⟨estimateY, ?_, ?_⟩
    · rw [estimateY, w.window, goes.pitch, ← arrivalV]
      show (if v.pitch.carousel = .running then v.pitch.estimate.map _ else none) = _
      rw [carousel, pitch, shown.estimate]
      by_cases hr : c = .running
      · simp only [if_pos hr]
        rfl
      · simp only [if_neg hr]
        rfl
    · rw [w.badCount, goes.badCount, ring]
      exact shown.badCount
  refine ⟨fun he h1 h2 h3 => ?_, fun n h0 hn h16 h1 h2 => ?_⟩
  · have kind : pitchCase u.settings.nPos u.settings.holdover u.pitch.lastBeyond q f.serial f.position.toNat =
        .reconfirmation := by
      rw [last, settings]
      exact pitchCase_reconfirmation he h1 h2 h3
    rw [servingPitch_reconfirmation sequence kind, reconfirmPitch_eq serving] at w
    obtain ⟨v, hv⟩ : ∃ v, v = { u with pitch := u.sequenced f.serial f.position.toNat } := ⟨_, rfl⟩
    rw [← hv] at w
    have goes : OnPace f.serial f.position.toNat u (holdoverRun f.serial f.position.toNat v) :=
      holdoverRun_onPace (by rw [hv]) (by rw [hv]) (by rw [hv])
    have rest := holdoverRun_node (serial := f.serial) (p := f.position.toNat) v
    obtain ⟨x, hx⟩ : ∃ x, x = holdoverRun f.serial f.position.toNat v := ⟨_, rfl⟩
    rw [← hx] at w goes rest
    refine ⟨t, ht, timed rfl rfl rfl goes w, ?_, fun hm => ?_, fun h => ?_⟩
    · rw [w.sequence, goes.pitch, ← h1, ← h2, ← nowUs]
      rfl
    · rw [w.scanner hm, rest, hv]
      exact shown.scanner
    · have seq : (x.seq h).elapsed = (u.seq h).elapsed := by rw [rest, hv]; rfl
      rw [w.elapsed, seq, shown.elapsed]
      rfl
  · obtain ⟨kind, distance⟩ := pitchCase_catchUp (p := f.position.toNat) (limit := u.settings.holdover) (nPos := u.settings.nPos)
      h0 (by rw [settings]; exact hn) h16 h1 (by rw [settings]; exact h2)
    rw [← last] at kind
    rw [servingPitch_catchUp sequence kind] at w
    obtain ⟨m, hm⟩ : ∃ m, m = catchUpEvents u.settings.nPos n (nextSerial q.serial) (positionAfter u.settings.nPos q.position 1) u :=
      ⟨_, rfl⟩
    have events : CatchUpWork n u m := by
      rw [hm]
      exact catchUpEvents_work _ n _ _ u
    have caught : catchUpPitch q f.serial f.position.toNat u = m.receives f.serial f.position.toNat := by
      rw [hm, ← distance]
      rfl
    rw [caught] at w
    have servingM : m.ring.state = .locked ∨ m.ring.state = .holdover := by rw [events.ring]; exact serving
    obtain ⟨pitch, now, ring, setM, request, missing, elapsed, -⟩ :=
      receives_work (serial := f.serial) (p := f.position.toNat) servingM
    obtain ⟨v, hv⟩ : ∃ v, v = m.receives f.serial f.position.toNat := ⟨_, rfl⟩
    rw [← hv] at w pitch now ring setM request missing
    simp only [← hv] at elapsed
    have goes := holdoverRun_onPace pitch ring setM
    have rest := holdoverRun_node (serial := f.serial) (p := f.position.toNat) v
    obtain ⟨x, hx⟩ : ∃ x, x = holdoverRun f.serial f.position.toNat v := ⟨_, rfl⟩
    rw [← hx] at w goes rest
    have arrivalM : m.nowUs = arrival := by rw [State.nowUs, events.now]; exact nowUs
    refine ⟨t, ht, timed events.pitch events.now events.ring goes w, ?_, fun hq => ⟨?_, ?_⟩, fun h => ?_⟩
    · rw [w.sequence, goes.pitch, ← arrivalM]
      rfl
    · have counter : x.counter .missingPitches = v.counter .missingPitches := by rw [rest]; rfl
      rw [(w.quiet hq).2, counter, missing, events.missing, shown.missing]
      rfl
    · rw [w.scanner hq, rest]
      exact request
    · have seq : (x.seq h).elapsed = (v.seq h).elapsed := by rw [rest]; rfl
      rw [w.elapsed, seq, elapsed, events.settings, settings, events.position]
      exact congrArg (fun n => some (elapsedCount _ _ n)) (shown.position h)

end Sys2Proof.Machine
end

section
/-! Proofs about a PITCH frame that breaks continuity (R21, R33, R36, R108), and the statement O21. -/

namespace Sys2Proof.Machine

open Sys2Proof

section

variable {s t u : State} {serial : Half} {p : Nat} {h : HeadId} {flags : CycleFlags}

/-- A head in the forced snift of its cycle, item by item, where it was cut at time `n` on a state in which only its sequencer,
`x`, differed from `s`. -/
theorem State.cutInto.items {v z : State} {x : Sequencer} {n : Ticks} (w : v.cutInto z h flags)
    (hv : v.head h = { s.head h with seq := x }) (hn : v.now = n) (ht : t.head h = z.head h) :
    (t.seq h).state = .forcedSnift ∧ (t.seq h).progress = .active ∧ (t.seq h).flags = flags ∧ (t.seq h).sniftBegun = true ∧
      (t.seq h).equalised = false ∧ (t.seq h).faultPending = x.faultPending ∧ (t.valve h .snift).request = true ∧
      (∀ v ∈ [ValveId.gas, .fast, .slow, .add], (t.valve h v).request = false ∧ (t.valve h v).output = false) ∧
      ∀ m, t.chan h m = (s.chan h m).cut n := by
  have seqV : v.seq h = x := congrArg Head.seq hv
  have chanV : ∀ m, v.chan h m = s.chan h m := fun m => (congrArg (fun y : Head => y.chan.get m) hv :)
  have c : v.cutInto t h flags := w.congr rfl rfl ht
  refine ⟨c.state, c.progress, c.flags, c.begun, c.equalised, c.fault.trans (by rw [seqV]), c.opened, fun y hy => c.closed y ?_,
    fun m => (c.chan m).trans (by rw [chanV, hn])⟩
  rintro rfl
  exact absurd hy (by decide)

/-- A frame that passes none of the tests of R30 to R32 (R33). -/
theorem pitchCase_none {nPos limit : Nat} {b : Bool} {q : PitchSequence} (hl : limit < 65535)
    (h1 : ¬((serial - q.serial).toNat = 1 ∧ p = (q.position + 1) % nPos))
    (h0 : ¬((serial - q.serial).toNat = 0 ∧ q.kind = .estimated ∧ p = q.position))
    (h2 : ¬(2 ≤ (serial - q.serial).toNat ∧ (serial - q.serial).toNat ≤ limit + 1 ∧
      p = (q.position + (serial - q.serial).toNat) % nPos)) :
    pitchCase nPos limit b q serial p = .discontinuity := by
  have next : ¬(serial = nextSerial q.serial ∧ p = positionAfter nPos q.position 1) := fun ⟨e, hp⟩ => by
    refine h1 ⟨?_, hp⟩
    rw [e, nextSerial]
    bv_omega
  have again : ¬(serial = q.serial ∧ q.kind = .estimated ∧ p = q.position ∧ p < nPos) := fun ⟨e, hk, hp, _⟩ =>
    h0 ⟨by rw [e, BitVec.sub_self]; rfl, hk, hp⟩
  have later : ¬(1 ≤ serialDistance (nextSerial q.serial) serial ∧ serialDistance (nextSerial q.serial) serial ≤ limit ∧
      p = positionAfter nPos q.position (serialDistance q.serial serial)) := fun ⟨e1, e2, hp⟩ => by
    refine h2 ⟨?_, ?_, hp⟩
    · unfold serialDistance nextSerial at *
      bv_omega
    · unfold serialDistance nextSerial at *
      bv_omega
  rw [pitchCase]
  rw [if_neg next, if_neg again, if_neg later]
  exact ite_self _

/-- A break of continuity: the alarm, and the ring loss on entry into JOINING, which keeps the address (R21, R33). -/
theorem discontinuity_rejoins {q : PitchSequence} (hs : s.ring.state = .locked ∨ s.ring.state = .holdover) :
    Rejoins true (raiseAlarm .pitchDiscontinuity nodeByte serial.toNat (nextSerial q.serial).toNat s) (discontinuity q serial s) := by
  have state := (event_raiseAlarm s .pitchDiscontinuity nodeByte serial.toNat (nextSerial q.serial).toNat).ring
  rw [discontinuity, enterJoining_serving _ (by rw [state]; exact hs)]
  exact ringLoss_rejoins true _

/-- RUNNING is the carousel state of code 3. -/
theorem carouselOf_running {b : Byte} {c : Carousel} (hc : carouselOf b = some c) : c = .running ↔ b = 3#8 := by
  unfold carouselOf at hc
  split_ifs at hc with h1 h2 h3
  · cases hc; simp [h1]
  · cases hc; simp [h2]
  · cases hc; simp [h3]

end

/-- Settles O21, by `pitchCase_none`, `discontinuity_rejoins` and what a ring loss leaves of a head (`State.lostAt`). -/
theorem discontinuityRejoinsTheRing : Obligations.DiscontinuityRejoinsTheRing := by
  intro time f q a s hu hk hok hs ha hh hq hd
  obtain ⟨c, hc⟩ := usesFrame_carousel hu
  have running := carouselOf_running hc
  obtain ⟨t, u, ht, shown, w⟩ := exec_servingPitch (time := time) hu hk hs ha hh hc
  have sequence : u.pitch.sequence = some q := shown.sequence.trans hq
  have serving : u.ring.state = .locked ∨ u.ring.state = .holdover := by rw [shown.state]; exact hs
  have kind : pitchCase u.settings.nPos u.settings.holdover u.pitch.lastBeyond q f.serial f.position.toNat = .discontinuity := by
    have settings : u.settings = s.settings := shown.settings
    have last : u.pitch.lastBeyond = s.pitch.lastBeyond := shown.lastBeyond
    have bounds : 2 ≤ s.settings.nPos ∧ s.settings.holdover ≤ 16 := by
      have ok : settingsOk s.settings = true := hok
      simp only [settingsOk, inRange, Bool.and_eq_true, decide_eq_true_eq] at ok
      omega
    rw [settings, last]
    rcases hd with beyond | outside | ⟨h1, h0, h2⟩
    · rw [beyond]
      exact pitchCase_beyond _ _ _ _ _
    · exact pitchCase_outside _ _ _ _ _ _ (by omega) outside
    · exact pitchCase_none (by omega) h1 h0 h2
  rw [servingPitch_discontinuity sequence kind] at w
  have lost := discontinuity_rejoins (serial := f.serial) (q := q) serving
  have booked : Booked u (raiseAlarm .pitchDiscontinuity nodeByte f.serial.toNat (nextSerial q.serial).toNat u) :=
    booked_enterUnreserved _ _
  have alarm := raiseAlarm_held (s := u) .pitchDiscontinuity nodeByte f.serial.toNat (nextSerial q.serial).toNat
  obtain ⟨v, hv⟩ : ∃ v, v = raiseAlarm .pitchDiscontinuity nodeByte f.serial.toNat (nextSerial q.serial).toNat u := ⟨_, rfl⟩
  obtain ⟨z, hz⟩ : ∃ z, z = discontinuity q f.serial u := ⟨_, rfl⟩
  rw [← hv] at lost booked alarm
  rw [← hz] at lost w
  have ring : v.ring = u.ring := booked.ring
  have joining : z.ring.state = .joining := by rw [lost.ring]; rfl
  refine ⟨t, ht, w.state.trans joining, ?_, ?_, ?_, ?_, ?_, ?_, fun h => ?_, fun hm h => ?_, fun none room => ?_⟩
  · rw [w.address, lost.ring]
    show v.ring.address = _
    rw [ring]
    exact shown.address
  · rw [w.run, lost.ring]
    rfl
  · rw [w.badCount, lost.ring]
    rfl
  · rw [w.sequence, lost.pitch]
    rfl
  · rw [w.joinRef, lost.pitch]
    rfl
  · exact w.queue (by rw [joining]; decide) lost.queue
  · rw [w.elapsed, lost.elapsed, State.seq, booked.head h]
    exact shown.elapsed h
  · intro x flags plan cut snifts
    have same : (s.seq h).state ≠ .stepHold ∨ f.carousel ≠ 3#8 → v.head h = { s.head h with seq := x } := fun e => by
      rw [booked.head h, shown.head h (e.imp id (mt running.mp))]
      have mode : decide (c ≠ .running) = decide (f.carousel ≠ 3#8) := decide_eq_decide.mpr (not_congr running)
      rw [mode]
      rfl
    have still : ∀ {y : HeadState}, x.state = y → y ≠ .stepHold → v.head h = { s.head h with seq := x } :=
      fun e hy => same (.inl (by rw [show (s.seq h).state = x.state from rfl, e]; exact hy))
    have headT : t.head h = z.head h := w.head hm h
    have at_h := lost.lost h
    have now : v.now = max s.now time := booked.now.trans shown.now
    have chans : v.head h = { s.head h with seq := x } → ∀ m, (v.chan h m).cut v.now = cut (s.chan h m) := fun e m => by
      have chan : v.chan h m = s.chan h m := (congrArg (fun y : Head => y.chan.get m) e :)
      rw [chan, now]
      rfl
    have forced : v.head h = { s.head h with seq := x } → v.cutInto z h { (v.seq h).flags with ringLoss := true } → snifts :=
      fun e cutInto => by
        have seq : v.seq h = x := congrArg Head.seq e
        rw [seq] at cutInto
        exact cutInto.items e now headT
    refine ⟨fun e => ?_, fun e => ?_, fun e => ?_, fun e => ?_, fun e b => ?_, fun y e hr b hy hk => ?_, fun e b hp => ?_⟩
    · have own := still e (by decide)
      have seq : v.seq h = x := congrArg Head.seq own
      rw [headT, at_h.idle (by rw [seq]; exact e), own, seq]
    · have own := same (.inl fun hs' => absurd e (by rw [show x.state = .stepHold from hs']; decide))
      have seq : v.seq h = x := congrArg Head.seq own
      rw [headT, at_h.free (by rw [seq]; exact e), own]
    · have own := still e (by decide)
      have seq : v.seq h = x := congrArg Head.seq own
      obtain ⟨kept, marks⟩ := at_h.resolving (by rw [seq]; exact e)
      have resolver := w.resolver hm
      rw [resolver]
      exact ⟨by rw [headT, kept, own], marks⟩
    · have own := still e (by decide)
      have seq : v.seq h = x := congrArg Head.seq own
      rw [headT, at_h.forced (by rw [seq]; exact e), own, seq]
    · have own := still e (by decide)
      have seq : v.seq h = x := congrArg Head.seq own
      obtain ⟨k1, k2, k3⟩ := at_h.underWay (by rw [seq]; exact e) (by rw [seq]; exact b)
      have chan : ∀ m, t.chan h m = z.chan h m := fun m => congrArg (fun y' : Head => y'.chan.get m) headT
      refine ⟨?_, ?_, fun m => ?_⟩
      · rw [State.seq, headT, show (z.head h).seq = _ from k1, seq]
      · rw [headT, k2, own]
      · rw [chan, k3, chans own]
    · have own := same (.inr hr)
      have seq : v.seq h = x := congrArg Head.seq own
      have plans : headPlan h v = plan := by rw [headPlan_elim, own]
      obtain ⟨k1, k2⟩ := at_h.between y (by rw [seq]; exact e) (by rw [seq]; exact b) (by rw [plans, seq]; exact hy) hk
      refine ⟨forced own k1, ?_⟩
      rw [State.seq, headT, show (z.head h).seq.planIndex = _ from k2, seq]
    · have own : v.head h = { s.head h with seq := x } := by
        rcases e with e | ⟨-, hr⟩
        · exact still e (by decide)
        · exact same (.inr hr)
      have seq : v.seq h = x := congrArg Head.seq own
      have plans : headPlan h v = plan := by rw [headPlan_elim, own]
      exact forced own (at_h.before ⟨by rw [seq]; exact e.imp id And.left, by rw [seq]; exact b, by rw [plans]; exact hp⟩)
  · obtain ⟨orq, -⟩ := shown.quiet none
    obtain ⟨r, hr, k1, k2, k3, k4, k5⟩ := alarm (by rw [orq]; exact room)
    obtain ⟨l1, e1⟩ := w.records (by rw [joining]; decide) (by rw [joining]; decide)
    obtain ⟨l2, e2⟩ := lost.records
    refine ⟨r, ?_, k1, k2, k3, k4.trans (BitVec.ofNat_toNat _ _), k5.trans (BitVec.ofNat_toNat _ _)⟩
    rw [e1, e2]
    exact List.mem_append_left _ (List.mem_append_left _ hr)

end Sys2Proof.Machine
end

section
/-! Proofs about the pitch window that closes: the bad pitch, BLIND as a ring loss, and the estimated event with the deadlines
at each head (R15 to R17, R19, R29, R49, R103 to R105, R108), and the statement O22. -/

namespace Sys2Proof.Machine

open Sys2Proof

/-! ### The deadlines at a head (R103 to R105, log 14) -/

section

variable {s : State} {h : HeadId} {c : CycleRecord} {e : Nat}

theorem takeDFill_off (hm : (s.chan h .main).state ≠ .idle) (hd : dosingEntry h s = false) : takeDFill h s = s := by
  unfold takeDFill
  rw [if_neg hm, if_neg (by simp [hd])]

theorem takeDSnift_off (hs : (s.seq h).state = .forcedSnift) : takeDSnift h s = s := by
  unfold takeDSnift
  rw [if_neg (by simp [hs])]

/-- What the deadlines leave of a head in its cycle, `e` pitches past the infeed. -/
structure MeetsDeadlines (s : State) (h : HeadId) (c : CycleRecord) (e : Nat) (t : State) : Prop where
  early : e < c.recipe.deadlines.dFill → e < c.recipe.deadlines.dSnift → e < c.recipe.deadlines.dRelease → t = s
  forced : c.recipe.deadlines.dFill ≤ e → e < c.recipe.deadlines.dSnift → e < c.recipe.deadlines.dRelease →
    (s.chan h .main).state = .idle → s.beforeSnift h → s.cutInto t h { (s.seq h).flags with deadline := true }
  settles : c.recipe.deadlines.dFill ≤ e → e < c.recipe.deadlines.dSnift → e < c.recipe.deadlines.dRelease →
    (s.chan h .main).state ≠ .idle → dosingEntry h s = true →
    t.seq h =
        { s.seq h with timer := none, progress := .settling, flags := { (s.seq h).flags with deadline := true } } ∧
      (∀ v, v = .fast ∨ v = .slow ∨ v = .add → (t.valve h v).closed) ∧ ∀ m, t.chan h m = (s.chan h m).cut s.now
  off : c.recipe.deadlines.dFill ≤ e → e < c.recipe.deadlines.dSnift → e < c.recipe.deadlines.dRelease →
    (s.chan h .main).state ≠ .idle → dosingEntry h s = false → t = s
  snift : c.recipe.deadlines.dSnift ≤ e → e < c.recipe.deadlines.dRelease → s.beforeSnift h →
    s.cutInto t h { (s.seq h).flags with deadline := true }
  release : c.recipe.deadlines.dRelease ≤ e →
    (t.seq h).state = .fault ∧ (t.seq h).entry = none ∧ (t.seq h).planIndex = 0 ∧ (t.seq h).equalised = false ∧
      ∀ v, (t.valve h v).closed

/-- D_snift behind D_fill: the cycle before its snift is forced to snift, whatever D_fill has made of it. -/
theorem takeDSnift_behind (hb : s.beforeSnift h) :
    s.cutInto (takeDSnift h (takeDFill h s)) h { (s.seq h).flags with deadline := true } := by
  by_cases hm : (s.chan h .main).state = .idle
  · have filled := takeDFill_cutInto s h hm hb
    rw [takeDSnift_off filled.state]
    exact filled
  · cases hd : dosingEntry h s with
    | false =>
      rw [takeDFill_off hm hd]
      exact takeDSnift_cutInto s h hb
    | true =>
      obtain ⟨seq, -, chan⟩ := takeDFill_settles s h hm hd
      have work := work_takeDFill s h
      obtain ⟨u, hu⟩ : ∃ u, u = takeDFill h s := ⟨_, rfl⟩
      rw [← hu] at seq work ⊢
      simp only [← hu] at chan
      have before : u.beforeSnift h := by
        refine ⟨?_, ?_, ?_⟩
        · rw [seq]; exact hb.state
        · rw [seq]; exact hb.begun
        · rw [work.plan]; exact hb.plan
      obtain ⟨c1, c2, c3, c4, c5, c6, c7, c8, c9⟩ := takeDSnift_cutInto u h before
      rw [seq] at c3 c6
      exact ⟨c1, c2, c3, c4, c5, c6, c7, c8, fun m => by rw [c9, chan, work.now, Channel.cut_cut]⟩

theorem takeDeadlines_meets (ha : (s.seq h).state.active = true) (hc : (s.head h).cycle = some c)
    (he : (s.seq h).elapsed = some e) : MeetsDeadlines s h c e (takeDeadlines h s) := by
  obtain ⟨-, -, taken⟩ := takeDeadlines_eq s h c e ha hc he
  refine ⟨fun d1 d2 d3 => ?_, fun d1 d2 d3 hm hb => ?_, fun d1 d2 d3 hm hd => ?_, fun d1 d2 d3 hm hd => ?_, fun d2 d3 hb => ?_,
    fun d3 => ?_⟩
  · rw [taken, if_neg (Nat.not_le.mpr d3), if_neg (Nat.not_le.mpr d2), if_neg (Nat.not_le.mpr d1)]
  · rw [taken, if_neg (Nat.not_le.mpr d3), if_neg (Nat.not_le.mpr d2), if_pos d1]
    exact takeDFill_cutInto s h hm hb
  · rw [taken, if_neg (Nat.not_le.mpr d3), if_neg (Nat.not_le.mpr d2), if_pos d1]
    exact takeDFill_settles s h hm hd
  · rw [taken, if_neg (Nat.not_le.mpr d3), if_neg (Nat.not_le.mpr d2), if_pos d1]
    exact takeDFill_off hm hd
  · rw [taken, if_neg (Nat.not_le.mpr d3), if_pos d2]
    split
    · exact takeDSnift_behind hb
    · exact takeDSnift_cutInto s h hb
  · rw [taken, if_pos d3]
    exact takeDRelease_ends _ h

/-- The entry in progress doses. -/
theorem dosingEntry_iff (hc : (s.head h).cycle = some c) :
    dosingEntry h s = true ↔ (s.seq h).progress = .active ∧ 1 ≤ (s.seq h).planIndex ∧
      ∃ x, c.plan[(s.seq h).planIndex - 1]? = some x ∧ (x.kind = .additive ∨ x.kind = .fill) := by
  have plan : headPlan h s = c.plan := by rw [headPlan_elim, hc]; rfl
  unfold dosingEntry
  cases hx : currentEntry h s with
  | none =>
    refine iff_of_false Bool.false_ne_true fun ⟨_, one, x, hx', _⟩ => ?_
    have := (currentEntry_iff (e := x)).mpr ⟨one, by rw [plan]; exact hx'⟩
    rw [hx] at this
    simp at this
  | some x =>
    obtain ⟨one, at_x⟩ := currentEntry_iff.mp hx
    rw [plan] at at_x
    simp only [at_x, Option.some.injEq, exists_eq_left', one, true_and, Bool.and_eq_true, beq_iff_eq, Bool.or_eq_true]

end

/-! ### The bad pitch (R16, R17, R19) -/

section

variable {s t u : State} {q : PitchSequence} {n w : Nat} {h : HeadId}

/-- The count of a bad pitch, ahead of the judgement of the ring state (R16). -/
def State.counted (s : State) : State :=
  s.modRing fun r => { r with badCount := s.ring.badCount + 1, run := { r.run with length := 0 } }

theorem badPitch_eq (s : State) :
    badPitch s =
      if s.settings.holdover < s.ring.badCount + 1 then
        ringLoss (raiseAlarm .ringBlind nodeByte (s.ring.badCount + 1) 0 (s.counted.modRing fun r => { r with state := .blind }))
      else if s.ring.state = .locked ∧ s.ring.badCount + 1 = 3 then
        raiseAlarm .ringHoldover nodeByte (s.ring.badCount + 1) 0 (s.counted.modRing fun r => { r with state := .holdover })
      else s.counted := rfl

/-- The ring losses of the heads make no record. -/
theorem forHeads_takeRingLoss_silent (s : State) : Silent s (forHeads takeRingLoss s) :=
  (forHeads_inTurn Silent.refl Silent.trans (fun h s => silent_takeRingLoss s h) takeRingLoss_others s).1

/-- With room, a ring loss records every CONTAINER entry of the queue, in queue order (R49). -/
theorem enters_ringLoss (s : State) (hr : s.roomFor (discardedRecords nodeByte .ringLoss s.queue.entries).length) :
    Enters (discardedRecords nodeByte .ringLoss s.queue.entries) s (ringLoss s) := by
  have cleared : Enters (discardedRecords nodeByte .ringLoss s.queue.entries) { s with queue := ⟨[], true⟩ }
      (clearQueue .ringLoss s) := enters_discardRecords .ringLoss s.queue.entries { s with queue := ⟨[], true⟩ } hr
  have silent := forHeads_takeRingLoss_silent (clearQueue .ringLoss s)
  exact ⟨silent.orq.trans cleared.1, silent.counters.trans cleared.2⟩

theorem discardedRecords_ringLoss (es : List QueueEntry) :
    discardedRecords nodeByte .ringLoss es =
      (es.filter fun e => decide (e.kind = .container)).map fun e =>
        ⟨.notServed, 255#8, e.serial, BitVec.ofNat 8 e.recipe, 5#8, 0#8, BitVec.ofNat 32 e.position, 0#24⟩ := rfl

/-- Behind a bad pitch that leaves the node in LOCKED or HOLDOVER: one estimated event, which the sequence holds (R29). -/
def State.estimates (w : Nat) (q : PitchSequence) (s : State) : State :=
  setWindow ((pitchEvent (nextSerial q.serial) (positionAfter s.settings.nPos q.position 1) .estimated s).modPitch fun r =>
    { r with sequence := some ⟨nextSerial q.serial, positionAfter s.settings.nPos q.position 1, .estimated, w⟩ })

theorem estimatedPitch_serving (hs : s.ring.state = .locked ∨ s.ring.state = .holdover) (hq : s.pitch.sequence = some q) :
    estimatedPitch w s = s.estimates w q := by
  rw [estimatedPitch, hq]
  exact if_pos (ringServes_iff.mpr hs)

theorem estimatedPitch_blind (hs : s.ring.state = .blind) (hq : s.pitch.sequence = some q) :
    estimatedPitch w s = { s with pitch := { s.pitch with window := none } } := by
  have window : setWindow s = { s with pitch := { s.pitch with window := none } } := by
    rw [setWindow, hs]
    rfl
  rw [estimatedPitch, hq]
  refine (if_neg fun h => ?_).trans window
  rcases ringServes_iff.mp h with h | h <;> rw [hs] at h <;> exact RingState.noConfusion h

/-- A window that closes in LOCKED or HOLDOVER. -/
theorem windowExpires_serving (hs : s.ring.state = .locked ∨ s.ring.state = .holdover) :
    windowExpires w s = estimatedPitch w (badPitch s) := by
  rcases hs with hs | hs <;> rw [windowExpires, hs]

/-- At an estimated event each head meets its deadlines with its new elapsed count, and nothing else (R90). -/
theorem estimated_head (serial : Half) (p : Nat) (s : State) (h : HeadId) :
    ∃ v, v.head h =
        { s.head h with
          seq := { s.seq h with elapsed := some (elapsedCount s.settings.nPos p (s.head h).table.position) } } ∧
      v.now = s.now ∧ (pitchEvent serial p .estimated s).head h = (takeDeadlines h v).head h := by
  obtain ⟨v, hv, event, taken⟩ := pitchEvent_head serial p .estimated s h
  obtain ⟨-, u, hu, -, infed⟩ := infed_head serial p .estimated s h
  refine ⟨v, ?_, event.now, taken⟩
  rw [hv, infed, takeInfeed_off _ _ _ _ (by simp), ite_self, hu, handing_head]

end

/-! ### The window that closes (R15 to R17, R19, R29) -/

section

variable {s : State} {q : PitchSequence} {w : Nat}

/-- The alarm of a bad pitch (R17, R19). -/
def windowAlarm (q : PitchSequence) (code : Byte) (n : Nat) : Record :=
  ⟨.alarm, 255#8, q.serial, 255#8, code, 0#8, BitVec.ofNat 32 n, 0#24⟩

theorem alarmRecord_window (code : AlarmCode) (n : Nat) (hq : s.pitch.sequence = some q) :
    alarmRecord code nodeByte n 0 s = windowAlarm q (BitVec.ofNat 8 code.code) n := by
  rw [alarmRecord_eq, hq]
  rfl

/-- A bad pitch beyond the holdover limit: BLIND, and a ring loss (R19, R49, R108). -/
structure Blinds (q : PitchSequence) (s t : State) : Prop where
  ring : t.ring =
    { s.ring with
      state := .blind, badCount := s.ring.badCount + 1, run := { s.ring.run with length := 0 } }
  now : t.now = s.now
  pitch : t.pitch = { s.pitch with window := none }
  queue : t.queue = ⟨[], true⟩
  scanner : t.scanner = s.scanner
  elapsed : ∀ h, (t.seq h).elapsed = (s.seq h).elapsed
  lost : ∀ h, s.lostAt t h
  orq : s.roomFor (discardedRecords nodeByte .ringLoss s.queue.entries).length.succ →
    t.orq =
      { s.orq with
        records := s.orq.records ++
          windowAlarm q 14#8 (s.ring.badCount + 1) :: discardedRecords nodeByte .ringLoss s.queue.entries }

theorem badPitch_blinds (hs : s.ring.state = .locked ∨ s.ring.state = .holdover) (hq : s.pitch.sequence = some q)
    (hn : s.settings.holdover < s.ring.badCount + 1) : Blinds q s (windowExpires w s) := by
  rw [windowExpires_serving hs, badPitch_eq, if_pos hn]
  obtain ⟨u, hu⟩ : ∃ u, u = s.counted.modRing fun r => { r with state := .blind } := ⟨_, rfl⟩
  have node : u = { s with ring := u.ring } := by rw [hu]; rfl
  have ring : u.ring =
      { s.ring with state := .blind, badCount := s.ring.badCount + 1, run := { s.ring.run with length := 0 } } := by
    rw [hu]
    rfl
  have sequence : u.pitch.sequence = some q := by rw [node]; exact hq
  have booked : Booked u (raiseAlarm .ringBlind nodeByte (s.ring.badCount + 1) 0 u) := booked_enterUnreserved _ _
  have enters : u.roomFor 1 → Enters [windowAlarm q 14#8 (s.ring.badCount + 1)] u
      (raiseAlarm .ringBlind nodeByte (s.ring.badCount + 1) 0 u) := fun room => by
    have e := enters_enterUnreserved room (alarmRecord .ringBlind nodeByte (s.ring.badCount + 1) 0 u)
    rw [alarmRecord_window _ _ sequence] at e
    rw [raiseAlarm, alarmRecord_window _ _ sequence]
    exact e
  rw [← hu]
  obtain ⟨v, hv⟩ : ∃ v, v = raiseAlarm .ringBlind nodeByte (s.ring.badCount + 1) 0 u := ⟨_, rfl⟩
  rw [← hv] at booked enters ⊢
  obtain ⟨event, queue, -, lost⟩ := ringLoss_leaves v
  have entersLoss := enters_ringLoss v
  obtain ⟨x, hx⟩ : ∃ x, x = ringLoss v := ⟨_, rfl⟩
  rw [← hx] at event queue lost entersLoss ⊢
  have ringX : x.ring = u.ring := event.ring.trans booked.ring
  have pitchX : x.pitch = s.pitch := event.pitch.trans (booked.pitch.trans (by rw [node]))
  have headV : ∀ h, v.head h = s.head h := fun h => (booked.head h).trans (by rw [node]; rfl)
  have nowV : v.now = s.now := booked.now.trans (by rw [node])
  have queueV : v.queue = s.queue := booked.queue.trans (by rw [node])
  rw [estimatedPitch_blind (by rw [ringX, ring]) (by rw [pitchX]; exact hq)]
  refine ⟨ringX.trans ring, event.now.trans nowV, by rw [pitchX], queue,
    event.scanner.trans (booked.scanner.trans (by rw [node])), fun h => ?_, fun h => ?_, fun room => ?_⟩
  · refine (event.elapsed h).trans ?_
    rw [State.seq, headV]
    rfl
  · exact (lost h).congr (headV h) nowV rfl id
  · have roomU : u.roomFor ([windowAlarm q 14#8 (s.ring.badCount + 1)].length +
        (discardedRecords nodeByte .ringLoss s.queue.entries).length) := by
      rw [node]
      exact room.mono (by rw [List.length_singleton, Nat.add_comm])
    have first := enters (roomU.mono (by rw [List.length_singleton]; exact Nat.le_add_right 1 _))
    have roomV := first.roomFor roomU
    rw [queueV] at entersLoss
    have both := (first.trans (entersLoss roomV)).1
    have orq : u.orq = s.orq := by rw [node]
    rw [orq] at both
    exact both

/-- A bad pitch within the holdover limit: one estimated event (R16, R17, R29). -/
structure Estimates (w : Nat) (q : PitchSequence) (s t : State) : Prop where
  ring : t.ring =
    { s.ring with
      state := if s.ring.state = .locked ∧ s.ring.badCount + 1 = 3 then .holdover else s.ring.state
      badCount := s.ring.badCount + 1, run := { s.ring.run with length := 0 } }
  now : t.now = s.now
  sequence : t.pitch.sequence = some ⟨q.serial + 1#16, (q.position + 1) % s.settings.nPos, .estimated, w⟩
  lastBeyond : t.pitch.lastBeyond = s.pitch.lastBeyond
  missing : t.counter .missingPitches = s.counter .missingPitches + 1#16
  request : t.scanner.request = true
  elapsed : ∀ h, (t.seq h).elapsed =
    some (elapsedCount s.settings.nPos ((q.position + 1) % s.settings.nPos) (s.head h).table.position)
  alarm : s.ring.state = .locked → s.ring.badCount + 1 = 3 → s.roomFor 1 →
    ∃ l, t.orq.records = s.orq.records ++ windowAlarm q 13#8 (s.ring.badCount + 1) :: l
  head : ∀ h, ∃ v, v.head h =
      { s.head h with
        seq :=
          { s.seq h with
            elapsed := some (elapsedCount s.settings.nPos ((q.position + 1) % s.settings.nPos) (s.head h).table.position) } } ∧
    v.now = s.now ∧ t.head h = (takeDeadlines h v).head h

theorem badPitch_estimates (hs : s.ring.state = .locked ∨ s.ring.state = .holdover) (hq : s.pitch.sequence = some q)
    (hn : ¬s.settings.holdover < s.ring.badCount + 1) : Estimates w q s (windowExpires w s) := by
  rw [windowExpires_serving hs, badPitch_eq, if_neg hn]
  obtain ⟨u, hu⟩ : ∃ u, u = if s.ring.state = .locked ∧ s.ring.badCount + 1 = 3 then
      raiseAlarm .ringHoldover nodeByte (s.ring.badCount + 1) 0 (s.counted.modRing fun r => { r with state := .holdover })
    else s.counted := ⟨_, rfl⟩
  obtain ⟨g, hg⟩ : ∃ g : State, g = s.counted.modRing fun r =>
      { r with state := if s.ring.state = .locked ∧ s.ring.badCount + 1 = 3 then .holdover else s.ring.state } := ⟨_, rfl⟩
  have ring : g.ring =
      { s.ring with
        state := if s.ring.state = .locked ∧ s.ring.badCount + 1 = 3 then .holdover else s.ring.state
        badCount := s.ring.badCount + 1, run := { s.ring.run with length := 0 } } := by
    rw [hg]
    rfl
  have node : g = { s with ring := g.ring } := by rw [hg]; rfl
  have sequence : g.pitch.sequence = some q := by rw [node]; exact hq
  have raised : u = if s.ring.state = .locked ∧ s.ring.badCount + 1 = 3 then
      raiseAlarm .ringHoldover nodeByte (s.ring.badCount + 1) 0 g else g := by
    rw [hu, hg]
    split
    · rfl
    · rfl
  rw [← hu]
  clear hu hg
  have booked : Booked g u := by
    rw [raised]
    exact Booked.ite (fun _ => booked_enterUnreserved _ _) fun _ => Booked.refl g
  have missing : u.counter .missingPitches = s.counter .missingPitches := by
    rw [raised]
    split
    · rw [raiseAlarm_counter _ _ _ _ (by decide), node]
      rfl
    · rw [node]
      rfl
  have enters : s.ring.state = .locked → s.ring.badCount + 1 = 3 → s.roomFor 1 →
      u.orq.records = s.orq.records ++ [windowAlarm q 13#8 (s.ring.badCount + 1)] := fun h1 h2 room => by
    have roomG : g.roomFor 1 := by rw [node]; exact room
    have orq : g.orq = s.orq := by rw [node]
    have e := (enters_enterUnreserved roomG (alarmRecord .ringHoldover nodeByte (s.ring.badCount + 1) 0 g)).1
    rw [alarmRecord_window _ _ sequence, orq] at e
    rw [raised, if_pos ⟨h1, h2⟩, raiseAlarm, alarmRecord_window _ _ sequence, e]
    rfl
  have ringU : u.ring = g.ring := booked.ring
  have serving : u.ring.state = .locked ∨ u.ring.state = .holdover := by
    rw [ringU, ring]
    dsimp only
    split
    · exact .inr rfl
    · exact hs
  have pitchU : u.pitch = s.pitch := booked.pitch.trans (by rw [node])
  have setU : u.settings = s.settings := booked.settings.trans (by rw [node])
  have nowU : u.now = s.now := booked.now.trans (by rw [node])
  have headU : ∀ h, u.head h = s.head h := fun h => (booked.head h).trans (by rw [node]; rfl)
  rw [estimatedPitch_serving serving (by rw [pitchU]; exact hq)]
  have work := pitchEvent_work (nextSerial q.serial) (positionAfter u.settings.nPos q.position 1) .estimated u
  have heads := fun h => estimated_head (nextSerial q.serial) (positionAfter u.settings.nPos q.position 1) u h
  unfold State.estimates
  obtain ⟨x, hx⟩ : ∃ x, x = pitchEvent (nextSerial q.serial) (positionAfter u.settings.nPos q.position 1) .estimated u := ⟨_, rfl⟩
  simp only [← hx] at heads
  rw [← hx] at work ⊢
  rw [setWindow_eq]
  rw [setU] at work heads ⊢
  obtain ⟨l, hl⟩ := work.records
  refine ⟨work.ring.trans (ringU.trans ring), work.now.trans nowU, rfl, ?_, ?_, ?_, fun h => ?_, fun h1 h2 room => ⟨l, ?_⟩, fun h => ?_⟩
  · show x.pitch.lastBeyond = _
    rw [work.pitch, pitchU]
  · show x.counter .missingPitches = _
    rw [work.missing, if_pos rfl, missing]
  · show x.scanner.request = true
    rw [work.scanner]
  · refine (work.elapsed h).trans ?_
    rw [setU, headU]
    rfl
  · show x.orq.records = _
    rw [hl, enters h1 h2 room, List.append_assoc]
    rfl
  · obtain ⟨v, hv, now, taken⟩ := heads h
    have seqU : u.seq h = s.seq h := congrArg Head.seq (headU h)
    rw [headU, seqU] at hv
    exact ⟨v, hv, now.trans nowU, taken⟩

end

/-- Settles O22, by `badPitch_blinds` and what a ring loss leaves of a head (`State.lostAt`), and by `badPitch_estimates` and
`takeDeadlines_meets`. -/
theorem windowExpiryIsABadPitch : Obligations.WindowExpiryIsABadPitch := by
  refine ⟨fun s hw => ?_, fun w s hw => ⟨fun hs => ?_, fun q hs hq => ?_⟩⟩
  · show execPitchWindowExpiry s = _
    rw [execPitchWindowExpiry, hw]
  · show execPitchWindowExpiry s = _
    rw [execPitchWindowExpiry, hw]
    dsimp only
    rw [windowExpires, show (s.advance (w * Config.ticksPerUs)).ring.state = .joining from hs, Nat.mul_comm]
    rfl
  · intro n now alarm plan cut beforeSnift snifts
    have run : exec .pitchWindowExpiry s = .next (windowExpires w (s.advance (w * Config.ticksPerUs))) := by
      show execPitchWindowExpiry s = _
      rw [execPitchWindowExpiry, hw]
    have nowA : (s.advance (w * Config.ticksPerUs)).now = now := by rw [Nat.mul_comm]; rfl
    by_cases hn : s.settings.holdover < n
    · have blinds : Blinds q (s.advance (w * Config.ticksPerUs)) (windowExpires w (s.advance (w * Config.ticksPerUs))) :=
        badPitch_blinds hs hq hn
      obtain ⟨t, ht⟩ : ∃ t, t = windowExpires w (s.advance (w * Config.ticksPerUs)) := ⟨_, rfl⟩
      rw [← ht] at run blinds
      refine ⟨t, run, by rw [blinds.ring]; rfl, by rw [blinds.ring], blinds.now.trans nowA, ?_, fun _ => ?_,
        fun h => absurd hn (Nat.not_lt.mpr h)⟩
      · rw [blinds.ring, if_pos hn]
      · refine ⟨by rw [blinds.pitch]; exact hq, by rw [blinds.pitch], blinds.queue, blinds.scanner, blinds.elapsed, ?_,
          fun h => ?_⟩
        · intro cs hl room
          refine blinds.orq ⟨hl, ?_⟩
          rw [discardedRecords_ringLoss, List.length_map]
          show s.orq.records.length + s.orq.reservations + (cs.length + 1) ≤ 48
          omega
        · have lost := blinds.lost h
          have items : ∀ {flags : CycleFlags}, (s.advance (w * Config.ticksPerUs)).cutInto t h flags → snifts t h flags :=
            fun c => c.items rfl nowA rfl
          refine ⟨lost.idle, lost.free, lost.resolving, lost.forced, fun hr hb => ?_, fun e he hb hp hk => ?_, fun hb => ?_⟩
          · obtain ⟨k1, k2, k3⟩ := lost.underWay hr hb
            exact ⟨k1, k2, fun m => (k3 m).trans (by rw [nowA]; rfl)⟩
          · obtain ⟨k1, k2⟩ := lost.between e he hb (by rw [headPlan_elim]; exact hp) hk
            exact ⟨items k1, k2⟩
          · exact items (lost.before ⟨hb.1, hb.2.1, by rw [headPlan_elim]; exact hb.2.2⟩)
    · have estimates : Estimates w q (s.advance (w * Config.ticksPerUs)) (windowExpires w (s.advance (w * Config.ticksPerUs))) :=
        badPitch_estimates hs hq hn
      obtain ⟨t, ht⟩ : ∃ t, t = windowExpires w (s.advance (w * Config.ticksPerUs)) := ⟨_, rfl⟩
      rw [← ht] at run estimates
      refine ⟨t, run, by rw [estimates.ring]; rfl, by rw [estimates.ring], estimates.now.trans nowA, ?_, fun h => absurd h hn,
        fun _ => ?_⟩
      · rw [estimates.ring, if_neg hn]
        rfl
      · intro p
        refine ⟨estimates.sequence, estimates.lastBeyond, estimates.missing, estimates.request, estimates.elapsed,
          fun h1 h2 hl room => estimates.alarm h1 h2 ⟨hl, room⟩, fun h c ha hc => ?_⟩
        intro d e main doses
        obtain ⟨v, hv, nowV, taken⟩ := estimates.head h
        have seqV : v.seq h = { s.seq h with elapsed := some e } := congrArg Head.seq hv
        have cycleV : (v.head h).cycle = some c := by rw [hv]; exact hc
        have active : (v.seq h).state.active = true := by
          rw [seqV]
          show (s.seq h).state.active = true
          simp only [List.mem_cons, List.not_mem_nil, or_false] at ha
          rcases ha with ha | ha | ha <;> rw [ha] <;> rfl
        have meets := takeDeadlines_meets active cycleV (show (v.seq h).elapsed = some e by rw [seqV])
        obtain ⟨z, hz⟩ : ∃ z, z = takeDeadlines h v := ⟨_, rfl⟩
        rw [← hz] at meets taken
        have chanV : ∀ m, v.chan h m = s.chan h m := fun m => (congrArg (fun y : Head => y.chan.get m) hv :)
        have seqT : t.seq h = z.seq h := congrArg Head.seq taken
        have valveT : ∀ y, t.valve h y = z.valve h y := fun y => congrArg (fun y' : Head => y'.valves.get y) taken
        have chanT : ∀ m, t.chan h m = z.chan h m := fun m => congrArg (fun y' : Head => y'.chan.get m) taken
        have planV : headPlan h v = plan h := by
          rw [headPlan_elim, hv]
          rfl
        have before : beforeSnift h → v.beforeSnift h := fun ⟨b1, b2, b3⟩ =>
          ⟨by rw [seqV]; exact b1, by rw [seqV]; exact b2, by rw [planV]; exact b3⟩
        have items : v.cutInto z h { (v.seq h).flags with deadline := true } →
            snifts t h { (s.seq h).flags with deadline := true } := fun c => by
          rw [seqV] at c
          exact c.items (s := s) (x := { s.seq h with elapsed := some e }) hv (nowV.trans nowA) taken
        have dosing : dosingEntry h v = true ↔ doses := by
          have iff := dosingEntry_iff cycleV
          rw [seqV] at iff
          exact iff
        have mainV : (v.chan h .main).state = main := by rw [chanV]
        refine ⟨fun d1 d2 d3 => ?_, fun d1 d2 d3 => ⟨fun hm hb => ?_, fun hm hd => ?_, fun hm hd => ?_⟩, fun d2 d3 hb => ?_,
          fun d3 => ?_⟩
        · rw [taken, meets.early d1 d2 d3, hv]
          rfl
        · exact items (meets.forced d1 d2 d3 (mainV.trans hm) (before hb))
        · obtain ⟨k1, k2, k3⟩ := meets.settles d1 d2 d3 (by rw [mainV]; exact hm) (dosing.mpr hd)
          rw [seqV] at k1
          rw [seqT, k1]
          refine ⟨rfl, rfl, rfl, rfl, rfl, fun y hy => ?_, fun m => ?_⟩
          · rw [valveT]
            exact k2 y (by simpa using hy)
          · rw [chanT, k3, chanV, nowV, nowA]
            rfl
        · rw [taken, meets.off d1 d2 d3 (by rw [mainV]; exact hm) (by simpa using mt dosing.mp hd), hv]
          rfl
        · exact items (meets.snift d2 d3 (before hb))
        · obtain ⟨k1, k2, k3, k4, k5⟩ := meets.release d3
          rw [seqT]
          exact ⟨k1, k2, k3, k4, fun y => by rw [valveT]; exact k5 y⟩

end Sys2Proof.Machine
end

section
/-! Proofs about a single assignment slot: how it is judged, refused or TAKEN (R39 to R42), and the statement O23. -/

namespace Sys2Proof.Machine

open Sys2Proof

section

variable {s : State} {a : AssignSlot} {c : PitchSequence}

/-! ### The checks of a slot (R39, R40) -/

theorem positionServed_iff {p : Nat} :
    positionServed p s = true ↔ ∃ h : HeadId, (s.seq h).state ≠ .off ∧ (s.head h).table.position = p := by
  rw [positionServed, any_allHeads]
  simp only [Bool.and_eq_true, decide_eq_true_eq]

theorem isAhead_iff {x y : Half} : isAhead x y = true ↔ ¬((y - x).toNat = 0 ∨ 32768 ≤ (y - x).toNat) := by
  have apart : isAhead x y = true ↔ 1 ≤ (y - x).toNat ∧ (y - x).toNat ≤ 32767 := by
    rw [isAhead, Bool.and_eq_true, decide_eq_true_iff, decide_eq_true_iff]
    rfl
  rw [apart]
  omega

theorem outOfOrder_iff {serial : Half} {es : List QueueEntry} :
    outOfOrder serial es = true ↔
      ∃ e ∈ es.getLast?, (serial - e.serial).toNat = 0 ∨ 32768 ≤ (serial - e.serial).toNat := by
  unfold outOfOrder
  cases es.getLast? with
  | none => simp
  | some e =>
    rw [Bool.not_eq_true', ← Bool.not_eq_true, isAhead_iff, not_not]
    simp

/-- The checks of R40 in their order, in the words of the manual. -/
theorem slotRefusal_eq (hc : s.pitch.sequence = some c) :
    slotRefusal a s =
      if 127 < a.recipe.toNat ∨ (a.kind ≠ 1#8 ∧ a.kind ≠ 2#8) then some .range
      else if ¬∃ h : HeadId, (s.seq h).state ≠ .off ∧ (s.head h).table.position = a.position.toNat then some .noHead
      else if (a.serial - c.serial).toNat = 0 ∨ 32768 ≤ (a.serial - c.serial).toNat then some .late
      else if 4095 < (a.serial - c.serial).toNat then some .tooFar
      else if a.position.toNat ≠ (c.position + (a.serial - c.serial).toNat) % s.settings.nPos then some .mismatch
      else if ∃ e ∈ s.queue.entries.getLast?, (a.serial - e.serial).toNat = 0 ∨ 32768 ≤ (a.serial - e.serial).toNat then
        some .order
      else if s.settings.depth ≤ s.queue.entries.length then some .full
      else none := by
  have at_c : processed s = (c.serial, c.position) := by rw [processed, hc]
  unfold slotRefusal
  rw [at_c]
  refine if_congr Iff.rfl rfl (if_congr ?_ rfl (if_congr ?_ rfl (if_congr Iff.rfl rfl (if_congr Iff.rfl rfl
    (if_congr outOfOrder_iff rfl rfl)))))
  · rw [Bool.not_eq_true', ← Bool.not_eq_true, positionServed_iff]
  · rw [Bool.not_eq_true', ← Bool.not_eq_true, isAhead_iff, not_not]

/-- The number of the check that a slot fails, 0 when it passes all (R40, R180). -/
def refusalNumber (r : Option SlotReason) : Nat := r.elim 0 SlotReason.code

theorem refusalNumber_eq_zero {r : Option SlotReason} (h : refusalNumber r = 0) : r = none := by
  cases r with
  | none => rfl
  | some r => cases r <;> exact absurd h (by decide)

/-! ### A slot that is considered (R41, R42) -/

/-- A slot for this node in LOCKED, whose kind is not EMPTY, TAKEN or REFUSED, is considered (R39). -/
theorem slotConsidered_of {n : Fin 32} (hs : s.ring.state = .locked) (ha : s.ring.address = some n)
    (hn : a.node.toNat = n.val) (hk : a.kind ∉ [0#8, 3#8, 4#8]) : slotConsidered a s = true := by
  simp only [List.mem_cons, List.not_mem_nil, or_false, not_or] at hk
  simp [slotConsidered, hs, ha, addressOf_of_eq hn, hk.1, hk.2.1, hk.2.2]

theorem slotConsidered_other (h : s.ring.state ≠ .locked ∨ ∀ n, s.ring.address = some n → a.node.toNat ≠ n.val) :
    slotConsidered a s = false := by
  rcases h with h | h
  · exact slotConsidered_unlocked h
  · cases ha : s.ring.address with
    | none => simp [slotConsidered, ha]
    | some n => simp [slotConsidered, ha, addressOf_ne (h n ha)]

theorem takeSlot_refused (h : slotConsidered a s = true) {r : SlotReason} (hr : slotRefusal a s = some r) :
    takeSlot a s = ({ a with kind := 4#8, flags := BitVec.ofNat 8 r.code }, countEvent .assignRefused s) := by
  rw [takeSlot, if_pos h, hr]

theorem takeSlot_taken (h : slotConsidered a s = true) (hr : slotRefusal a s = none) :
    takeSlot a s = ({ a with kind := 3#8 }, appendEntry (entryOfSlot a) s) := by
  rw [takeSlot, if_pos h, hr]

/-- The queue with one entry more, ahead of the near-full test (R41). -/
def State.appended (e : QueueEntry) (s : State) : State :=
  { s with queue := { s.queue with entries := s.queue.entries ++ [e] } }

/-- The near-full test behind a new entry (R42). -/
theorem appendEntry_eq (e : QueueEntry) :
    appendEntry e s =
      if s.queue.armed = true ∧ s.settings.depth ≤ s.queue.entries.length + 3 then
        raiseAlarm .queueNearFull nodeByte (s.queue.entries.length + 1) s.settings.depth
          { s with queue := ⟨s.queue.entries ++ [e], false⟩ }
      else s.appended e := by
  have free : freePlaces (s.appended e) ≤ 2 ↔ s.settings.depth ≤ s.queue.entries.length + 3 := by
    simp only [freePlaces, State.appended, List.length_append, List.length_singleton]
    omega
  have length : (s.queue.entries ++ [e]).length = s.queue.entries.length + 1 := List.length_append
  unfold appendEntry
  rw [← length]
  refine if_congr ?_ rfl rfl
  rw [Bool.and_eq_true, decide_eq_true_eq]
  exact and_congr Iff.rfl free

theorem presentAssign_eq (hr : s.resetScheduled = false) :
    presentAssign a s = { (takeSlot a s).2 with assignOut := some (takeSlot a s).1 } := by
  rw [presentAssign, takeScheduled_of_none hr]

end

/-- The three rows that bring an assignment slot (R39, R40). -/
theorem exec_assign {time : Ticks} {slot : AssignSlot} {i : Instr} {s : State}
    (hi : slot.kind = 1#8 ∧ i = .containerAssignment time slot.node slot.serial slot.position slot.recipe slot.flags ∨
      slot.kind = 2#8 ∧ i = .gapAssignment time slot.node slot.serial slot.position slot.recipe slot.flags ∨
      slot.kind ∉ [0#8, 1#8, 2#8, 3#8, 4#8] ∧ i = .assignmentOfUndefinedKind time slot) :
    exec i s = .next (presentAssign slot (s.advance time)) ∧ slot.kind ∉ [0#8, 3#8, 4#8] := by
  obtain ⟨kind, node, serial, position, recipe, flags⟩ := slot
  dsimp only at hi ⊢
  rcases hi with ⟨rfl, rfl⟩ | ⟨rfl, rfl⟩ | ⟨hk, rfl⟩
  · exact ⟨rfl, by decide⟩
  · exact ⟨rfl, by decide⟩
  · refine ⟨rfl, fun h => hk ?_⟩
    simp only [List.mem_cons, List.not_mem_nil, or_false] at h ⊢
    exact h.imp id fun h => .inr (.inr h)

/-- Settles O23, by `slotRefusal_eq` and `appendEntry_eq`. -/
theorem assignmentSlotIsJudged : Obligations.AssignmentSlotIsJudged := by
  intro time slot i s hr hi
  obtain ⟨run, kind⟩ := exec_assign (s := s) hi
  rw [run, presentAssign_eq (s := s.advance time) hr]
  refine ⟨fun h => ?_, fun a c hs ha hn hc => ?_⟩
  · rw [takeSlot_unconsidered (slotConsidered_other (s := s.advance time) h)]
    rfl
  · intro d n reason
    have considered := slotConsidered_of (s := s.advance time) hs ha hn kind
    have refusal := slotRefusal_eq (s := s.advance time) (a := slot) hc
    have number : reason = refusalNumber (slotRefusal slot (s.advance time)) := by
      rw [refusal]
      simp only [apply_ite refusalNumber]
      rfl
    clear_value reason
    refine ⟨fun h => ?_, fun h => ?_⟩
    · cases hx : slotRefusal slot (s.advance time) with
      | none => rw [number, hx] at h; exact absurd rfl h
      | some r =>
        rw [hx] at number
        rw [takeSlot_refused considered hx]
        have b := booked_countEvent (s.advance time) .assignRefused
        have totals := countEvent_totals .assignRefused (s.advance time)
        have counter := countEvent_counter (s := s.advance time) (c := .assignRefused) (by decide)
        obtain ⟨u, hu⟩ : ∃ u, u = countEvent .assignRefused (s.advance time) := ⟨_, rfl⟩
        rw [← hu] at b totals counter
        rw [← hu]
        refine ⟨_, rfl, by rw [number]; rfl, b.queue, counter, ?_⟩
        rw [b, totals]
        rfl
    · rw [takeSlot_taken considered (refusalNumber_eq_zero (number.symm.trans h)), appendEntry_eq]
      have alarms : (s.advance time).queue.armed = true ∧ (s.advance time).settings.depth ≤ (s.advance time).queue.entries.length + 3 ↔
          s.queue.armed = true ∧ s.settings.depth ≤ n + 3 := Iff.rfl
      by_cases alarm : s.queue.armed = true ∧ s.settings.depth ≤ n + 3
      · rw [if_pos (alarms.mpr alarm)]
        obtain ⟨u, hu⟩ : ∃ u : State, u = { s.advance time with queue := ⟨s.queue.entries ++ [entryOfSlot slot], false⟩ } :=
          ⟨_, rfl⟩
        have rest : { u with
            queue := s.queue, counters := s.counters, orq := s.orq, totals := s.totals, assignOut := s.assignOut, now := s.now } = s := by
          rw [hu]
          rfl
        have queue : u.queue = ⟨s.queue.entries ++ [entryOfSlot slot], false⟩ := by rw [hu]
        have orq : u.orq = s.orq := by rw [hu]; rfl
        have pitch : u.pitch.sequence = some c := by rw [hu]; exact hc
        have totalsU : u.totals = s.totals := by rw [hu]; rfl
        show ∃ t, Host.Outcome.next { raiseAlarm .queueNearFull nodeByte (n + 1) s.settings.depth
          { s.advance time with queue := ⟨s.queue.entries ++ [entryOfSlot slot], false⟩ } with
            assignOut := some { slot with kind := 3#8 } } = _ ∧ _
        rw [← hu]
        clear hu
        have b : Booked u (raiseAlarm .queueNearFull nodeByte (n + 1) s.settings.depth u) := booked_enterUnreserved _ _
        have totals : (raiseAlarm .queueNearFull nodeByte (n + 1) s.settings.depth u).totals = u.totals :=
          enterUnreserved_totals _
        have raised : raiseAlarm .queueNearFull nodeByte (n + 1) s.settings.depth u = enterUnreserved
            ⟨.alarm, 255#8, c.serial, 255#8, 11#8, 0#8, BitVec.ofNat 32 (n + 1), BitVec.ofNat 24 s.settings.depth⟩ u := by
          rw [raiseAlarm, alarmRecord_eq, pitch]
          rfl
        obtain ⟨v, hv⟩ : ∃ v, v = raiseAlarm .queueNearFull nodeByte (n + 1) s.settings.depth u := ⟨_, rfl⟩
        rw [← hv] at b totals raised ⊢
        refine ⟨_, rfl, rfl, ?_, ?_, ?_, fun _ _ hl room => ?_, fun h => ?_⟩
        · show v.queue.entries = _
          rw [b.queue, queue]
          rfl
        · show v.queue.armed = _
          rw [b.queue, queue]
          have full : ¬(n + 3 < s.settings.depth) := by omega
          simp [full]
        · rw [b, totals, totalsU]
          exact rest
        · show v.orq.records = _
          rw [raised]
          have roomU : u.roomFor 1 := by
            rw [State.roomFor, orq]
            exact ⟨hl, room⟩
          rw [(enters_enterUnreserved roomU _).1, orq]
        · rcases h with h | h
          · rw [alarm.1] at h
            exact Bool.noConfusion h
          · omega
      · rw [if_neg (mt alarms.mp alarm)]
        refine ⟨_, rfl, rfl, rfl, ?_, rfl, fun h1 h2 => absurd ⟨h1, h2⟩ alarm, fun _ => ⟨rfl, rfl⟩⟩
        show s.queue.armed = _
        by_cases armed : s.queue.armed = true
        · have free : n + 3 < s.settings.depth := by
            by_contra h
            exact alarm ⟨armed, by omega⟩
          simp [armed, free]
        · simp [armed]

end Sys2Proof.Machine
end

section
/-! Proofs about what the queue loses at a pitch event (R42 to R46), and the statement O24. -/

namespace Sys2Proof.Machine

open Sys2Proof

/-! ### The queue at a pitch event -/

section

variable {s t u : State} {c : Half} {p : Nat} {k : EventKind}

theorem isBehind_eq (c x : Half) : isBehind c x = decide (32768 ≤ (x - c).toNat) := rfl

/-- The entries that a pitch event of serial `c` discards, and those that it keeps (R43). -/
def State.stale (c : Half) (s : State) : List QueueEntry :=
  s.queue.entries.filter fun e => decide (32768 ≤ (e.serial - c).toNat)

def State.keeping (c : Half) (s : State) : List QueueEntry :=
  s.queue.entries.filter fun e => decide ((e.serial - c).toNat < 32768)

theorem keeping_eq (c : Half) (s : State) : (s.queue.entries.filter fun e => !isBehind c e.serial) = s.keeping c := by
  refine List.filter_congr fun e _ => ?_
  rw [isBehind_eq, ← decide_not]
  exact decide_eq_decide.mpr Nat.not_le

theorem stale_add_keeping (c : Half) (s : State) : (s.stale c).length + (s.keeping c).length = s.queue.entries.length := by
  rw [State.stale, ← keeping_eq]
  exact (List.length_eq_length_filter_add fun e : QueueEntry => isBehind c e.serial).symm

theorem keeping_of_stale (h : s.stale c = []) : s.keeping c = s.queue.entries := by
  refine List.filter_eq_self.mpr fun e he => ?_
  have := List.filter_eq_nil_iff.mp h e he
  simpa using this

/-- After a removal (R42). -/
theorem rearm_queue (s : State) :
    (rearm s).queue =
      ⟨s.queue.entries, s.queue.armed || decide (s.queue.entries.length + 4 ≤ s.settings.depth)⟩ := by
  have free : 4 ≤ freePlaces s ↔ s.queue.entries.length + 4 ≤ s.settings.depth := by
    unfold freePlaces
    omega
  unfold rearm
  split
  · rename_i h
    simp [free.mp h]
  · rename_i h
    simp [mt free.mpr h]

/-- The records and counts of the entries that are behind (R43, R47). -/
def discardBehind (es : List QueueEntry) (s : State) : State :=
  es.foldl (fun s e => discardRecord nodeByte .stale e (countEvent .assignStale s)) s

theorem discardStale_eq (c : Half) (s : State) :
    discardStale c s =
      if s.stale c = [] then s
      else discardBehind (s.stale c) (rearm { s with queue := ⟨s.keeping c, s.queue.armed⟩ }) := by
  unfold discardStale
  dsimp only
  rw [keeping_eq]
  exact if_congr List.isEmpty_iff rfl rfl

theorem discardBehind_booked (es : List QueueEntry) (s : State) : Booked s (discardBehind es s) :=
  Booked.foldl (fun u e => (booked_discardRecord _ _ _ e).after (booked_countEvent u _)) es s

theorem discardRecord_counter (head : Byte) (r : NotServedReason) (e : QueueEntry) {x : CounterId} (hx : x ≠ .recordsLost) :
    (discardRecord head r e s).counter x = s.counter x := by
  unfold discardRecord
  split
  · have lost := (work_enterUnreserved (countNotServed e.recipe r s) 0
      (notServedRecord head e.serial e.recipe r e.position 0))
    have counted := (enters_countNotServed (s := s) e.recipe r).2
    refine Eq.trans ?_ (congrArg (fun z : Vector Half 10 => z[x.id]) counted)
    unfold enterUnreserved
    split
    · rfl
    · exact loseRecord_counter hx
  · rfl

theorem discardBehind_counter (es : List QueueEntry) (s : State) :
    (discardBehind es s).counter .assignStale = s.counter .assignStale + BitVec.ofNat 16 es.length := by
  induction es generalizing s with
  | nil => exact (BitVec.add_zero _).symm
  | cons e es ih =>
    have one : (discardRecord nodeByte .stale e (countEvent .assignStale s)).counter .assignStale =
        s.counter .assignStale + 1#16 :=
      (discardRecord_counter _ _ _ (by decide)).trans (countEvent_counter (by decide))
    refine (ih _).trans ?_
    rw [one, List.length_cons, BitVec.ofNat_add, BitVec.add_assoc, BitVec.add_comm (1#16)]

/-- With room and no wrap, the entries behind give their records in queue order and their counts (R47, R161). -/
theorem discardBehind_records (es : List QueueEntry) (s : State)
    (hr : s.roomFor (discardedRecords nodeByte .stale es).length) (hc : (s.counter .assignStale).toNat + es.length < 65536) :
    (discardBehind es s).orq = { s.orq with records := s.orq.records ++ discardedRecords nodeByte .stale es } := by
  induction es generalizing s with
  | nil => simp [discardBehind, discardedRecords]
  | cons e es ih =>
    rw [List.length_cons] at hc
    have noWrap : s.counter .assignStale ≠ 65535#16 := fun h => by
      rw [h] at hc
      simp at hc
      omega
    have counted : countEvent .assignStale s = setCounter .assignStale (s.counter .assignStale + 1#16) s := countEvent_eq noWrap
    rw [discardedRecords_cons] at hr ⊢
    rw [List.length_append] at hr
    have room : (countEvent .assignStale s).roomFor ((discardedRecords nodeByte .stale [e]).length +
        (discardedRecords nodeByte .stale es).length) := by rw [counted]; exact hr
    have first := enters_discardRecord nodeByte .stale e (room.mono (Nat.le_add_right _ _))
    have one : (discardRecord nodeByte .stale e (countEvent .assignStale s)).counter .assignStale =
        s.counter .assignStale + 1#16 :=
      (discardRecord_counter _ _ _ (by decide)).trans (countEvent_counter (by decide))
    have orq : (countEvent .assignStale s).orq = s.orq := by rw [counted]; rfl
    have rest := ih (discardRecord nodeByte .stale e (countEvent .assignStale s)) (first.roomFor room) (by
      rw [one, BitVec.toNat_add]
      simp only [BitVec.toNat_ofNat]
      omega)
    refine rest.trans ?_
    rw [first.1, orq]
    simp only [List.append_assoc]

/-- The queue behind the stale discard (R42, R43). -/
theorem discardStale_queue (c : Half) (s : State) :
    (discardStale c s).queue =
      ⟨s.keeping c, s.queue.armed || decide (s.stale c ≠ [] ∧ (s.keeping c).length + 4 ≤ s.settings.depth)⟩ := by
  rw [discardStale_eq]
  split
  · rename_i h
    rw [keeping_of_stale h]
    simp [h]
  · rename_i h
    rw [(discardBehind_booked _ _).queue, rearm_queue]
    simp [h]

/-- A head stands at position `p` exactly when the hand-over finds one (R44). -/
theorem chosenHead_isSome : (chosenHead p s).isSome = true ↔ ∃ h : HeadId, (s.head h).table.position = p := by
  have exists_at : (∃ h : HeadId, (s.head h).table.position = p) ↔ headsAt p s ≠ [] := by
    rw [ne_eq, List.eq_nil_iff_forall_not_mem, not_forall]
    simp only [mem_headsAt, not_not]
  rw [exists_at]
  unfold chosenHead
  split
  · rename_i h found
    have := List.mem_of_find?_eq_some found
    simp only [Option.isSome_some, true_iff]
    exact List.ne_nil_of_mem this
  · simp

/-- The entry of serial `c` is handed over where a head stands at the infeed. -/
def State.gives (c : Half) (p : Nat) (s : State) : Prop :=
  (∃ e ∈ s.queue.entries.head?, e.serial = c) ∧ ∃ h : HeadId, (s.head h).table.position = p


/-- The queue behind the entry that leaves it (R42, R44). -/
def State.without (rest : List QueueEntry) (s : State) : State := rearm { s with queue := { s.queue with entries := rest } }

theorem handOver_none (h : ¬s.gives c p) : handOver c p k s = (none, s) := by
  unfold handOver
  split
  · rename_i g e rest hg hq
    refine if_neg fun he => h ⟨⟨e, by rw [hq]; rfl, he⟩, ?_⟩
    exact chosenHead_isSome.mp (by rw [hg]; rfl)
  · rfl

theorem handOver_given {g : HeadId} {e : QueueEntry} {rest : List QueueEntry} (hg : chosenHead p s = some g)
    (hq : s.queue.entries = e :: rest) (he : e.serial = c) :
    handOver c p k s =
      if (s.seq g).state ≠ .idle then (none, discardRecord (headByte g) .headUnavailable e (s.without rest))
      else if k = .estimated ∨ s.ring.state = .holdover then (none, discardRecord (headByte g) .holdover e (s.without rest))
      else (some (g, e), s.without rest) := by
  unfold handOver
  rw [hg, hq]
  exact if_pos he

theorem gives_iff : s.gives c p ↔ ∃ g e rest, chosenHead p s = some g ∧ s.queue.entries = e :: rest ∧ e.serial = c := by
  constructor
  · rintro ⟨⟨e, he, hc⟩, at_p⟩
    obtain ⟨g, hg⟩ := Option.isSome_iff_exists.mp (chosenHead_isSome.mpr at_p)
    obtain ⟨rest, hq⟩ := List.head?_eq_some_iff.mp he
    exact ⟨g, e, rest, hg, hq, hc⟩
  · rintro ⟨g, e, rest, hg, hq, he⟩
    exact ⟨⟨e, by rw [hq]; rfl, he⟩, chosenHead_isSome.mp (by rw [hg]; rfl)⟩

/-- The queue behind a hand-over (R42, R44 to R46). -/
theorem handOver_queue (h : s.gives c p) :
    (handOver c p k s).2.queue =
      ⟨s.queue.entries.tail, s.queue.armed || decide (s.queue.entries.tail.length + 4 ≤ s.settings.depth)⟩ := by
  obtain ⟨g, e, rest, hg, hq, he⟩ := gives_iff.mp h
  have left : (s.without rest).queue = ⟨rest, s.queue.armed || decide (rest.length + 4 ≤ s.settings.depth)⟩ := rearm_queue _
  rw [handOver_given hg hq he, hq, List.tail_cons, ← left]
  split_ifs
  · exact (booked_discardRecord _ _ _ e).queue
  · exact (booked_discardRecord _ _ _ e).queue
  · rfl

theorem handOver_counter {x : CounterId} (hx : x ≠ .recordsLost) : (handOver c p k s).2.counter x = s.counter x := by
  by_cases h : s.gives c p
  · obtain ⟨g, e, rest, hg, hq, he⟩ := gives_iff.mp h
    have left : (s.without rest).counter x = s.counter x := by
      rw [State.without, rearm_node]
      rfl
    rw [handOver_given hg hq he, ← left]
    split_ifs
    · exact discardRecord_counter _ _ e hx
    · exact discardRecord_counter _ _ e hx
    · rfl
  · rw [handOver_none h]

/-! ### What the infeed decisions leave of the queue -/

/-- What an infeed decision leaves: what an event leaves, the queue, and the count of stale entries. -/
structure InfeedWork (s t : State) : Prop where
  event : EventWork s t
  queue : t.queue = s.queue
  stale : t.counter .assignStale = s.counter .assignStale

theorem InfeedWork.refl (s : State) : InfeedWork s s := ⟨EventWork.refl s, rfl, rfl⟩

theorem InfeedWork.trans (a : InfeedWork s t) (b : InfeedWork t u) : InfeedWork s u :=
  ⟨a.event.trans b.event, b.queue.trans a.queue, b.stale.trans a.stale⟩

theorem requestResolution_node (h : HeadId) (n : Nat) (s : State) :
    requestResolution h n s = { s with resolver := (requestResolution h n s).resolver } := by
  unfold requestResolution beginResolution
  split
  · rfl
  · rfl

theorem infeed_requestCycle (h : HeadId) (e : QueueEntry) (s : State) : InfeedWork s (requestCycle h e s) := by
  refine ⟨event_requestCycle s h e, ?_, ?_⟩
  · by_cases hc : canReserve h s = true
    · rw [requestCycle_granted hc, requestResolution_node]
      rfl
    · rw [requestCycle, if_neg hc]
      exact ((booked_loseRecord s).trans (booked_modTotals _ _ _)).queue
  · by_cases hc : canReserve h s = true
    · rw [requestCycle_granted hc, requestResolution_node]
      rfl
    · rw [requestCycle, if_neg hc]
      have totals := (modTotals_orq (s := loseRecord s) e.recipe fun t =>
        { t with unservedCount := satAdd Config.maxVolume t.unservedCount 1 }).2
      exact (congrArg (fun z : Vector Half 10 => z[CounterId.assignStale.id]) totals).trans (loseRecord_counter (by decide))

theorem infeed_infeedDecision (h : HeadId) (serial : Half) (x : Option QueueEntry) (s : State) :
    InfeedWork s (infeedDecision h serial x s) := by
  have immediate : ∀ n r c, c ≠ .recordsLost → c ≠ .assignStale → c ≠ .missingPitches →
      InfeedWork s (immediateNotServed h serial n r c s) := fun n r c h1 h2 h3 => by
    have w := immediateNotServed_leaves (h := h) serial n r c h1 s
    exact ⟨event_immediateNotServed s h serial n r c h3, w.queue, w.others _ (by decide) h2.symm⟩
  by_cases hx : ∃ e, x = some e ∧ e.kind = .container
  · obtain ⟨e, rfl, hk⟩ := hx
    rw [infeedDecision_container hk]
    split
    · exact infeed_requestCycle h e s
    · exact immediate _ _ _ (by decide) (by decide) (by decide)
  · rw [infeedDecision_other fun e he hk => hx ⟨e, he, hk⟩]
    split
    · exact immediate _ _ _ (by decide) (by decide) (by decide)
    · exact InfeedWork.refl s

theorem infeed_takeInfeed (serial : Half) (k : EventKind) (x : Option (HeadId × QueueEntry)) (h : HeadId) (s : State) :
    InfeedWork s (takeInfeed serial k x h s) := by
  unfold takeInfeed
  split
  · have set : InfeedWork s (s.modSeq h fun q => { q with entry := handedTo h x }) :=
      ⟨event_modSeq s h _ fun _ => rfl, rfl, rfl⟩
    exact set.trans (infeed_infeedDecision h serial _ _)
  · exact InfeedWork.refl s

theorem infeed_infed (serial : Half) (p : Nat) (k : EventKind) (s : State) :
    InfeedWork (s.handing serial p k).2 (s.infed serial p k) := by
  unfold State.infed
  generalize headsAt p (s.handing serial p k).2 = hs
  generalize (s.handing serial p k).1 = x
  generalize (s.handing serial p k).2 = u
  induction hs generalizing u with
  | nil => exact InfeedWork.refl u
  | cons h hs ih => exact (infeed_takeInfeed serial k x h u).trans (ih _)

/-- What a received pitch leaves behind the hand-over, of the queue, the count of stale entries and the records. -/
theorem pitchEvent_infeed (serial : Half) (p : Nat) (s : State) :
    let u := (s.handing serial p .received).2
    (pitchEvent serial p .received s).queue = u.queue ∧
      (pitchEvent serial p .received s).counter .assignStale = u.counter .assignStale ∧
      ∃ l, (pitchEvent serial p .received s).orq.records = u.orq.records ++ l := by
  have infed := infeed_infed serial p .received s
  have turn := (forHeads_turn (fun h s => work_takeDeadlines s h) (s.infed serial p .received)).1
  have plain : pitchEvent serial p .received s = (forHeads takeDeadlines (s.infed serial p .received)).requestBowl := by
    rw [pitchEvent_stages, countEstimated, if_neg (by decide)]
  obtain ⟨v, hv⟩ : ∃ v, v = forHeads takeDeadlines (s.infed serial p .received) := ⟨_, rfl⟩
  rw [← hv] at turn plain
  obtain ⟨l, hl⟩ := infed.event.records
  obtain ⟨m, hm⟩ := turn.event.records
  rw [plain]
  refine ⟨turn.queue.trans infed.queue, (turn.node.counters _ (by decide) (by decide)).trans infed.stale, l ++ m, ?_⟩
  show v.orq.records = _
  rw [hm, hl, List.append_assoc]

end

/-! ### The expected pitch, stage by stage -/

/-- The expected PITCH frame: the header has its carousel state (`u`), the sequence takes the frame (`v`), and its one event is
taken behind it; the lock run and the window follow (`x`). -/
theorem exec_expectedPitch {time : Ticks} {f : Frame} {q : PitchSequence} {a : Fin 32} {s : State} (hu : s.usesFrame f)
    (hk : f.kind = 1#8) (hs : s.ring.state = .locked ∨ s.ring.state = .holdover) (ha : s.ring.address = some a)
    (hh : f.hop.toNat = a.val) (hq : s.pitch.sequence = some q) (hb : s.pitch.lastBeyond = false)
    (h1 : f.serial = q.serial + 1#16) (h2 : f.position.toNat = (q.position + 1) % s.settings.nPos) :
    ∃ t c u v x, exec (.pitchFrame time f) s = .next t ∧ Shown c (s.advance time) u ∧ v = { u with pitch := v.pitch } ∧
      FrameWork f x t ∧
      x = { pitchEvent f.serial f.position.toNat .received v with pitch := x.pitch, ring := x.ring } := by
  obtain ⟨c, hc⟩ := usesFrame_carousel hu
  obtain ⟨t, u, ht, shown, w⟩ := exec_servingPitch (time := time) hu hk hs ha hh hc
  have kind : pitchCase u.settings.nPos u.settings.holdover u.pitch.lastBeyond q f.serial f.position.toNat = .expected := by
    have last : u.pitch.lastBeyond = false := shown.lastBeyond.trans hb
    have settings : u.settings = s.settings := shown.settings
    rw [last, settings]
    exact pitchCase_expected h1 h2
  rw [servingPitch_expected (shown.sequence.trans hq) kind] at w
  obtain ⟨m, hm⟩ : ∃ m, m = if q.kind = .received ∧ u.pitch.carousel = .running ∧ u.pitch.measureValid = true then
    measure (u.nowUs - q.time) u else u := ⟨_, rfl⟩
  have node : m = { u with pitch := m.pitch } := by
    rw [hm]
    split <;> rfl
  have expected : expectedPitch q f.serial f.position.toNat u =
      setWindow (pitchEvent f.serial f.position.toNat .received (sequenceFrom f.serial f.position.toNat m)) := by
    rw [hm]
    rfl
  rw [expected] at w
  refine ⟨t, c, u, sequenceFrom f.serial f.position.toNat m, _, ht, shown, ?_, w, ?_⟩
  · rw [node]
    rfl
  · obtain ⟨y, hy⟩ : ∃ y, y = pitchEvent f.serial f.position.toNat .received (sequenceFrom f.serial f.position.toNat m) := ⟨_, rfl⟩
    rw [← hy, holdoverRun_node, setWindow_eq]

/-- The queue, the count of stale entries and the records behind the hand-over of a pitch event. -/
structure Handed (serial : Half) (p : Nat) (s t : State) : Prop where
  kept : ¬((∃ e ∈ (s.keeping serial).head?, e.serial = serial) ∧ ∃ h : HeadId, (s.head h).table.position = p) →
    t.queue = ⟨s.keeping serial,
      s.queue.armed || decide (s.stale serial ≠ [] ∧ (s.keeping serial).length + 4 ≤ s.settings.depth)⟩
  given : ((∃ e ∈ (s.keeping serial).head?, e.serial = serial) ∧ ∃ h : HeadId, (s.head h).table.position = p) →
    t.queue = ⟨(s.keeping serial).tail,
      s.queue.armed || decide (s.stale serial ≠ [] ∧ (s.keeping serial).length + 4 ≤ s.settings.depth) ||
        decide ((s.keeping serial).tail.length + 4 ≤ s.settings.depth)⟩
  counter : t.counter .assignStale = s.counter .assignStale + BitVec.ofNat 16 (s.stale serial).length
  records : s.roomFor (discardedRecords nodeByte .stale (s.stale serial)).length →
    (s.counter .assignStale).toNat + (s.stale serial).length < 65536 →
    ∃ l, t.orq.records = s.orq.records ++ discardedRecords nodeByte .stale (s.stale serial) ++ l

theorem handing_handed (serial : Half) (p : Nat) (k : EventKind) (s : State) :
    Handed serial p s (s.handing serial p k).2 := by
  have queue : (s.discarded serial p).queue = _ := discardStale_queue serial (elapseAll p s)
  have position : ∀ h, ((s.discarded serial p).head h).table.position = (s.head h).table.position := fun h => by
    obtain ⟨_, b⟩ := discardStale_booked serial (elapseAll p s)
    rw [State.discarded, b.head h]
    show ((elapseAll p s).head h).table.position = _
    rw [elapseAll_head]
  have settings : (s.discarded serial p).settings = s.settings := (event_discardStale (elapseAll p s) serial).settings
  have gives : (s.discarded serial p).gives serial p ↔
      (∃ e ∈ (s.keeping serial).head?, e.serial = serial) ∧ ∃ h : HeadId, (s.head h).table.position = p := by
    unfold State.gives
    rw [queue]
    simp only [position]
    exact Iff.rfl
  refine ⟨fun h => ?_, fun h => ?_, ?_, fun room wrap => ?_⟩
  · rw [State.handing, handOver_none (mt gives.mp h), queue]
    rfl
  · rw [State.handing, handOver_queue (gives.mpr h), queue, settings]
    rfl
  · rw [State.handing, handOver_counter (by decide), State.discarded, discardStale_eq]
    split
    · rename_i h
      have none : s.stale serial = [] := h
      rw [none]
      exact (BitVec.add_zero _).symm
    · rw [discardBehind_counter, rearm_node]
      rfl
  · obtain ⟨l, hl⟩ := (event_handOver (s.discarded serial p) serial p k).records
    refine ⟨l, ?_⟩
    have discarded : (s.discarded serial p).orq.records =
        s.orq.records ++ discardedRecords nodeByte .stale (s.stale serial) := by
      rw [State.discarded, discardStale_eq]
      split
      · rename_i h
        have none : s.stale serial = [] := h
        rw [none]
        exact (List.append_nil _).symm
      · have behind := discardBehind_records (s.stale serial)
          (rearm { elapseAll p s with queue := ⟨(elapseAll p s).keeping serial, (elapseAll p s).queue.armed⟩ })
        rw [rearm_node] at behind ⊢
        exact congrArg Orq.records (behind room wrap)
    rw [← discarded]
    exact hl

/-- Settles O24, by `handing_handed` and `pitchEvent_infeed`. -/
theorem queueFollowsThePitch : Obligations.QueueFollowsThePitch := by
  intro time f q a s hu hk hs ha hh hq hb h1 h2 hm hslots es kept
  obtain ⟨t, c, u, v, x, ht, shown, hv, w, hx⟩ := exec_expectedPitch (time := time) hu hk hs ha hh hq hb h1 h2
  obtain ⟨queueT, countersT, orqT⟩ := w.plain hm hslots
  obtain ⟨queueP, counterP, l, recordsP⟩ := pitchEvent_infeed f.serial f.position.toNat v
  have handed := handing_handed f.serial f.position.toNat .received v
  obtain ⟨y, hy⟩ : ∃ y, y = (v.handing f.serial f.position.toNat .received).2 := ⟨_, rfl⟩
  obtain ⟨z, hz⟩ : ∃ z, z = pitchEvent f.serial f.position.toNat .received v := ⟨_, rfl⟩
  rw [← hy] at handed queueP counterP recordsP
  rw [← hz] at queueP counterP recordsP hx
  have queueV : v.queue = s.queue := by rw [hv]; exact shown.queue
  have settingsV : v.settings = s.settings := by rw [hv]; exact shown.settings
  have keepV : v.keeping f.serial = kept := by rw [State.keeping, queueV]
  have staleV : v.stale f.serial = es.filter fun e => decide (32768 ≤ (e.serial - f.serial).toNat) := by
    rw [State.stale, queueV]
  have positionV : ∀ h, (v.head h).table.position = (s.head h).table.position := fun h => by
    have head : v.head h = u.head h := by rw [hv]; rfl
    rw [head]
    exact shown.position h
  have counterV : v.counter .assignStale = s.counter .assignStale := by
    have counter : v.counter .assignStale = u.counter .assignStale := by rw [hv]; rfl
    rw [counter]
    exact shown.counters _ (by decide) (by decide)
  have lengths : (v.stale f.serial).length + kept.length = es.length := by
    have := stale_add_keeping f.serial v
    rw [keepV, queueV] at this
    exact this
  have queueX : t.queue = y.queue := by rw [queueT, hx]; exact queueP
  have given : ((∃ e ∈ kept.head?, e.serial = f.serial) ∧ ∃ h : HeadId, (s.head h).table.position = f.position.toNat) ↔
      (∃ e ∈ (v.keeping f.serial).head?, e.serial = f.serial) ∧ ∃ h : HeadId, (v.head h).table.position = f.position.toNat := by
    rw [keepV]
    simp only [positionV]
  have some_stale : v.stale f.serial ≠ [] ↔ kept.length < es.length := by
    rw [← List.length_pos_iff]
    omega
  refine ⟨t, ht, ?_, ?_, ?_, ?_⟩
  · have counterX : t.counter .assignStale = y.counter .assignStale := by
      rw [State.counter, countersT, hx]
      exact counterP
    rw [counterX, handed.counter, counterV]
    exact congrArg (fun n => s.counter .assignStale + BitVec.ofNat 16 n) (by omega)
  · rw [queueX]
    split
    · rename_i h
      rw [handed.given (given.mp h), keepV]
    · rename_i h
      rw [handed.kept (mt given.mpr h), keepV]
  · rw [queueX]
    by_cases h : (∃ e ∈ kept.head?, e.serial = f.serial) ∧ ∃ h : HeadId, (s.head h).table.position = f.position.toNat
    · have tail : kept.tail.length < kept.length := by
        obtain ⟨⟨e, he, -⟩, -⟩ := h
        obtain ⟨rest, hr⟩ := List.head?_eq_some_iff.mp he
        rw [hr]
        exact Nat.lt_succ_self _
      rw [handed.given (given.mp h), keepV, queueV, settingsV, Bool.or_assoc, ← Bool.decide_or]
      refine congrArg (s.queue.armed || ·) (decide_eq_decide.mpr ⟨fun e => ?_, fun e => .inr e.2⟩)
      rcases e with ⟨-, e⟩ | e
      · exact ⟨by dsimp only; omega, by dsimp only; omega⟩
      · exact ⟨by dsimp only; omega, e⟩
    · rw [handed.kept (mt given.mpr h), keepV, queueV, settingsV]
      exact congrArg (s.queue.armed || ·) (decide_eq_decide.mpr (and_congr some_stale Iff.rfl))
  · intro stale records none full lost room wrap
    obtain ⟨orq, counters⟩ := shown.quiet none
    have orqV : v.orq = s.orq := by rw [hv]; exact orq
    have recordsV : discardedRecords nodeByte .stale (v.stale f.serial) = records := by
      rw [staleV]
      rfl
    have staleLength : (v.stale f.serial).length = stale.length := by rw [staleV]
    obtain ⟨l', hl'⟩ := handed.records
      (by rw [State.roomFor, orqV, recordsV]; exact ⟨lost, room⟩)
      (by rw [counterV, staleLength]; exact wrap)
    refine ⟨l' ++ l, ?_⟩
    have recordsX : t.orq.records = z.orq.records := by rw [orqT full, hx]
    rw [recordsX, recordsP, hl', orqV, recordsV, List.append_assoc]

end Sys2Proof.Machine
end

section
/-! Proofs about the heads at the infeed (R44 to R47, R77, R90 to R92, R155), and the statement O25. -/

namespace Sys2Proof.Machine

open Sys2Proof

section

variable {s t u : State} {h : HeadId} {serial : Half} {p : Nat} {e : QueueEntry} {rest : List QueueEntry}

/-! ### The head that takes the entry (R44) -/

theorem headsAt_sorted (p : Nat) (s : State) : (headsAt p s).Pairwise (· < ·) :=
  List.Pairwise.filter _ (by decide)

/-- The lowest IDLE head at the infeed takes the entry. -/
theorem chosenHead_lowest (hp : (s.head h).table.position = p) (hi : (s.seq h).state = .idle)
    (low : ∀ k : HeadId, k < h → (s.head k).table.position = p → (s.seq k).state ≠ .idle) : chosenHead p s = some h := by
  have inside : h ∈ headsAt p s := mem_headsAt.mpr hp
  have found : (headsAt p s).find? (fun k => decide ((s.seq k).state = .idle)) = some h := by
    obtain ⟨front, back, split⟩ := List.append_of_mem inside
    have sorted := headsAt_sorted p s
    rw [split] at sorted
    refine List.find?_eq_some_iff_append.mpr ⟨decide_eq_true hi, front, back, split, fun k hk => ?_⟩
    have before : k < h := (List.pairwise_append.mp sorted).2.2 k hk h List.mem_cons_self
    have at_p : (s.head k).table.position = p := mem_headsAt.mp (by rw [split]; exact List.mem_append_left _ hk)
    simpa using low k before at_p
  rw [chosenHead, found]

/-- A head that stands alone at the infeed is concerned, whatever its state. -/
theorem headsAt_alone (alone : ∀ k : HeadId, (s.head k).table.position = p ↔ k = h) : headsAt p s = [h] := by
  have mem : ∀ k, k ∈ headsAt p s ↔ k = h := fun k => mem_headsAt.trans (alone k)
  have nodup := headsAt_nodup p s
  cases hl : headsAt p s with
  | nil =>
    rw [hl] at mem
    exact absurd ((mem h).mpr rfl) List.not_mem_nil
  | cons x l =>
    rw [hl] at mem nodup
    have first : x = h := (mem x).mp List.mem_cons_self
    cases l with
    | nil => rw [first]
    | cons y l =>
      have second : y = h := (mem y).mp (List.mem_cons_of_mem _ List.mem_cons_self)
      exact absurd (by rw [first, second]; exact List.mem_cons_self) (List.nodup_cons.mp nodup).1

theorem chosenHead_alone (alone : ∀ k : HeadId, (s.head k).table.position = p ↔ k = h) : chosenHead p s = some h := by
  rw [chosenHead, headsAt_alone alone]
  by_cases hi : (s.seq h).state = .idle
  · simp only [List.find?_cons, hi, decide_true]
  · simp only [List.find?_cons, hi, decide_false, List.find?_nil, List.head?_cons]

/-! ### A pitch event that discards nothing -/

theorem discarded_none (hst : s.stale serial = []) : s.discarded serial p = elapseAll p s := by
  rw [State.discarded, discardStale_eq]
  exact if_pos hst

theorem elapseAll_seq (p : Nat) (s : State) (h : HeadId) :
    (elapseAll p s).seq h =
      { s.seq h with elapsed := some (elapsedCount s.settings.nPos p (s.head h).table.position) } := by
  rw [State.seq, elapseAll_head]

theorem elapseAll_position (p : Nat) (s : State) (h : HeadId) :
    ((elapseAll p s).head h).table.position = (s.head h).table.position := by rw [elapseAll_head]

theorem without_head (rest : List QueueEntry) (s : State) (h : HeadId) : (s.without rest).head h = s.head h := by
  rw [State.without, rearm_node]
  rfl

theorem without_node (rest : List QueueEntry) (s : State) : s.without rest = { s with queue := (s.without rest).queue } := by
  rw [State.without, rearm_node]

/-- The state at the infeed decisions when the entry `e` is handed over, and nothing was discarded. -/
theorem handing_granted (hst : s.stale serial = []) (hl : s.ring.state = .locked) (hq : s.queue.entries = e :: rest)
    (he : e.serial = serial) (hg : chosenHead p (elapseAll p s) = some h) (hi : (s.seq h).state = .idle) :
    s.handing serial p .received = (some (h, e), (elapseAll p s).without rest) := by
  have idle : ((elapseAll p s).seq h).state = .idle := by rw [elapseAll_seq]; exact hi
  have locked : (elapseAll p s).ring.state = .locked := hl
  rw [State.handing, discarded_none hst, handOver_given hg hq he, if_neg (not_not_intro idle)]
  exact if_neg (by simp [locked])

theorem handedTo_self (h : HeadId) (e : QueueEntry) : handedTo h (some (h, e)) = some e := if_pos rfl

theorem handedTo_other {k : HeadId} (hk : k ≠ h) (e : QueueEntry) : handedTo k (some (h, e)) = none := if_neg hk.symm

/-! ### The requests (R77) -/

theorem requestResolution_busy {r : Resolution} (hr : s.resolver.current = some r) (h : HeadId) (n : Nat) :
    (requestResolution h n s).resolver = ⟨s.resolver.requests ++ [⟨h, n, false⟩], some r⟩ := by
  simp only [requestResolution, beginResolution, hr]

theorem requestResolution_free (hr : s.resolver.current = none) (h : HeadId) (n : Nat) {x : ResRequest} {l : List ResRequest}
    (hx : s.resolver.requests ++ [⟨h, n, false⟩] = x :: l) :
    (requestResolution h n s).resolver =
      ⟨l, some ⟨x.head, x.recipe, 0, Fixed.empty, .following x.recipe, [], 0, x.overtaken⟩⟩ := by
  simp only [requestResolution, beginResolution, hr, hx]

/-- A head that takes its infeed event without an entry leaves the Resolver. -/
theorem takeInfeed_resolver {k : EventKind} {x : Option (HeadId × QueueEntry)} (hx : handedTo h x = none) (s : State) :
    (takeInfeed serial k x h s).resolver = s.resolver := by
  unfold takeInfeed
  split
  · rw [hx, infeedDecision_other fun _ hn => absurd hn (Option.some_ne_none _).symm]
    split
    · exact (immediateNotServed_leaves (h := h) serial _ .unassignedContainer .unassigned (by decide) _).resolver
    · rfl
  · rfl

/-- Heads that are not IDLE pass their infeed event by. -/
theorem foldl_takeInfeed_off {k : EventKind} (x : Option (HeadId × QueueEntry)) (l : List HeadId) (s : State)
    (hs : ∀ g ∈ l, (s.seq g).state ≠ .idle) : l.foldl (fun u g => takeInfeed serial k x g u) s = s := by
  induction l with
  | nil => rfl
  | cons g l ih =>
    rw [List.foldl_cons, takeInfeed_off serial k x s fun e => hs g List.mem_cons_self e.1]
    exact ih fun y hy => hs y (List.mem_cons_of_mem _ hy)

/-- Heads other than `h`, without an entry, leave head `h` and the Resolver. -/
theorem foldl_takeInfeed_others {k : EventKind} (e : QueueEntry) (l : List HeadId) (hl : h ∉ l) (s : State) :
    (l.foldl (fun u g => takeInfeed serial k (some (h, e)) g u) s).head h = s.head h ∧
      (l.foldl (fun u g => takeInfeed serial k (some (h, e)) g u) s).resolver = s.resolver := by
  induction l generalizing s with
  | nil => exact ⟨rfl, rfl⟩
  | cons g l ih =>
    obtain ⟨hg, hl⟩ := not_or.mp (mt List.mem_cons.mpr hl)
    obtain ⟨head, resolver⟩ := ih hl (takeInfeed serial k (some (h, e)) g s)
    refine ⟨head.trans (takeInfeed_others serial k _ g s h hg), resolver.trans ?_⟩
    exact takeInfeed_resolver (handedTo_other (Ne.symm hg) e) s

/-! ### The head that begins its cycle (R91, R92) -/

/-- A CONTAINER entry with its container and a place: the head resolves. -/
theorem takeInfeed_granted (hl : s.ring.state = .locked) (hi : (s.seq h).state = .idle) (hf : (s.seq h).reserved = false)
    (hp : (s.head h).presence = .present) (hk : e.kind = .container)
    (hr : s.orq.records.length + s.orq.reservations < 48) :
    (takeInfeed serial .received (some (h, e)) h s).head h =
        { s.head h with
          seq :=
            { s.seq h with
              entry := some e, reserved := true, state := .resolving, flags := CycleFlags.clear, faultPending := false } } ∧
      ∃ u, u.resolver = s.resolver ∧
        (takeInfeed serial .received (some (h, e)) h s).resolver = (requestResolution h e.recipe u).resolver := by
  obtain ⟨u, hu⟩ : ∃ u, u = s.modSeq h fun q => { q with entry := some e } := ⟨_, rfl⟩
  have head : u.head h = { s.head h with seq := { s.seq h with entry := some e } } := by rw [hu, modSeq_head]
  have orq : u.orq = s.orq := by rw [hu]; rfl
  have can : canReserve h u = true := by
    have free : (u.seq h).reserved = false := by rw [State.seq, head]; exact hf
    have room : orqRoom u = true := orqRoom_iff.mpr (by rw [orq]; exact hr)
    rw [canReserve, free, room]
    rfl
  have taken : takeInfeed serial .received (some (h, e)) h s = requestResolution h e.recipe (u.requested h) := by
    have decided : takeInfeed serial .received (some (h, e)) h s = infeedDecision h serial (some e) u := by
      rw [takeInfeed, if_pos ⟨hi, hl, rfl⟩, handedTo_self, hu]
    rw [decided, infeedDecision_container hk, if_pos (by rw [head]; exact hp), requestCycle_granted can]
  rw [taken]
  refine ⟨?_, u.requested h, ?_, rfl⟩
  · have heads := requestResolution_heads h e.recipe (u.requested h)
    refine (congrArg (fun v : Vector Head 8 => v[h]) heads).trans ((requested_head h u).trans ?_)
    rw [State.seq, head]
  · rw [hu]
    rfl

theorem infed_granted (hst : s.stale serial = []) (hl : s.ring.state = .locked) (hq : s.queue.entries = e :: rest)
    (he : e.serial = serial) (hk : e.kind = .container) (hp : (s.head h).table.position = p) (hi : (s.seq h).state = .idle)
    (hf : (s.seq h).reserved = false) (present : (s.head h).presence = .present)
    (low : ∀ k : HeadId, k < h → (s.head k).table.position = p → (s.seq k).state ≠ .idle)
    (hr : s.orq.records.length + s.orq.reservations < 48) :
    (s.infed serial p .received).head h =
        { s.head h with
          seq :=
            { s.seq h with
              elapsed := some (elapsedCount s.settings.nPos p p)
              entry := some e, reserved := true, state := .resolving, flags := CycleFlags.clear, faultPending := false } } ∧
      ∃ u, u.resolver = s.resolver ∧ (s.infed serial p .received).resolver = (requestResolution h e.recipe u).resolver := by
  have position : ∀ k, ((elapseAll p s).head k).table.position = (s.head k).table.position := elapseAll_position p s
  have state : ∀ k, ((elapseAll p s).seq k).state = (s.seq k).state := fun k => by rw [elapseAll_seq]
  have chosen : chosenHead p (elapseAll p s) = some h :=
    chosenHead_lowest (by rw [position]; exact hp) (by rw [state]; exact hi) fun k hk hk' => by
      rw [state]
      exact low k hk (by rw [← position]; exact hk')
  have handing := handing_granted hst hl hq he chosen hi
  obtain ⟨w, hw⟩ : ∃ w, w = (elapseAll p s).without rest := ⟨_, rfl⟩
  have node : w = { elapseAll p s with queue := w.queue } := by
    rw [hw]
    exact without_node rest _
  have head : ∀ k, w.head k = (elapseAll p s).head k := fun k => by rw [node]; rfl
  have seq : ∀ k, w.seq k = (elapseAll p s).seq k := fun k => congrArg Head.seq (head k)
  rw [← hw] at handing
  have inside : h ∈ headsAt p w := mem_headsAt.mpr (by rw [head, position]; exact hp)
  obtain ⟨front, back, split⟩ := List.append_of_mem inside
  have sorted := headsAt_sorted p w
  have nodup := headsAt_nodup p w
  rw [split] at sorted nodup
  have off : ∀ k ∈ front, (w.seq k).state ≠ .idle := fun k hk => by
    have before : k < h := (List.pairwise_append.mp sorted).2.2 k hk h List.mem_cons_self
    have at_p : (w.head k).table.position = p := mem_headsAt.mp (by rw [split]; exact List.mem_append_left _ hk)
    rw [seq, state]
    exact low k before (by rw [← position, ← head]; exact at_p)
  have behind : h ∉ back := (List.nodup_cons.mp (List.nodup_append.mp nodup).2.1).1
  have infed : s.infed serial p .received =
      back.foldl (fun u g => takeInfeed serial .received (some (h, e)) g u) (takeInfeed serial .received (some (h, e)) h w) := by
    rw [State.infed, handing]
    dsimp only
    rw [split, List.foldl_append, foldl_takeInfeed_off _ front w off, List.foldl_cons]
  have headW : w.head h = { s.head h with seq := { s.seq h with elapsed := some (elapsedCount s.settings.nPos p p) } } := by
    rw [head, elapseAll_head, hp]
  have seqW : w.seq h = { s.seq h with elapsed := some (elapsedCount s.settings.nPos p p) } := congrArg Head.seq headW
  have ringW : w.ring = s.ring := by rw [node]; rfl
  have orqW : w.orq = s.orq := by rw [node]; rfl
  have resolverW : w.resolver = s.resolver := by rw [node]; rfl
  obtain ⟨own, u, hu, asked⟩ := takeInfeed_granted (serial := serial) (s := w) (h := h) (by rw [ringW]; exact hl)
    (by rw [seqW]; exact hi) (by rw [seqW]; exact hf) (by rw [headW]; exact present) hk (by rw [orqW]; exact hr)
  obtain ⟨others, resolver⟩ := foldl_takeInfeed_others (serial := serial) (k := .received) e back behind
    (takeInfeed serial .received (some (h, e)) h w)
  rw [infed]
  refine ⟨?_, u, hu.trans resolverW, resolver.trans asked⟩
  rw [others, own, headW, seqW]

theorem requestBowl_resolver (u : State) : u.requestBowl.resolver = u.resolver := rfl

/-- The deadlines leave the Resolver, and a head outside a cycle. -/
theorem pitchEvent_resolver (serial : Half) (p : Nat) (k : EventKind) (s : State) :
    (pitchEvent serial p k s).resolver = (s.infed serial p k).resolver := by
  have turn := (forHeads_turn (fun h s => work_takeDeadlines s h) (s.infed serial p k)).1
  rw [pitchEvent_stages, (countEstimated_booked _ _).resolver, requestBowl_resolver, turn.resolver]

theorem pitchEvent_inactive {k : EventKind} (ha : ((s.infed serial p k).seq h).state.active = false) :
    (pitchEvent serial p k s).head h = (s.infed serial p k).head h := by
  obtain ⟨v, hv, -, own⟩ := pitchEvent_head serial p k s h
  have seq : v.seq h = (s.infed serial p k).seq h := congrArg Head.seq hv
  rw [own, takeDeadlines_inactive (by rw [seq]; exact ha), hv]

/-! ### A head that stands alone at the infeed (R44 to R47, R91, R155) -/

/-- Where no head is in a cycle no deadline is met. -/
theorem forHeads_takeDeadlines_off (ha : ∀ k, (s.seq k).state.active = false) : forHeads takeDeadlines s = s := by
  unfold forHeads
  induction allHeads with
  | nil => rfl
  | cons k l ih => rw [List.foldl_cons, takeDeadlines_inactive (ha k), ih]

theorem pitchEvent_off (ha : ∀ k, ((s.infed serial p .received).seq k).state.active = false) :
    pitchEvent serial p .received s = (s.infed serial p .received).requestBowl := by
  rw [pitchEvent_stages, countEstimated, if_neg (by decide), forHeads_takeDeadlines_off ha]

/-- The entry that the queue names for the pitch of serial `serial`. -/
def State.named (serial : Half) (s : State) : Option QueueEntry :=
  s.queue.entries.head?.filter fun e => decide (e.serial = serial)

theorem named_some (hn : s.named serial = some e) : s.queue.entries = e :: s.queue.entries.tail ∧ e.serial = serial := by
  obtain ⟨he, hs⟩ := Option.filter_eq_some_iff.mp hn
  obtain ⟨rest, hr⟩ := List.head?_eq_some_iff.mp he
  exact ⟨by rw [hr]; rfl, of_decide_eq_true hs⟩

theorem named_none (hn : s.named serial = none) : ¬s.gives serial p := by
  rintro ⟨⟨e, he, hs⟩, -⟩
  have : s.named serial = some e := Option.filter_eq_some_iff.mpr ⟨he, decide_eq_true hs⟩
  rw [hn] at this
  exact absurd this (Option.some_ne_none e).symm

section

variable (alone : ∀ k : HeadId, (s.head k).table.position = p ↔ k = h)
include alone

theorem elapsed_alone : chosenHead p (elapseAll p s) = some h :=
  chosenHead_alone fun k => by rw [elapseAll_position]; exact alone k

variable (hst : s.stale serial = [])
include hst

/-- An IDLE head alone at the infeed in LOCKED decides with the entry that the queue names. -/
theorem infed_alone (hl : s.ring.state = .locked) (hi : (s.seq h).state = .idle) :
    ∃ u : State, s.infed serial p .received = infeedDecision h serial (s.named serial) u ∧
      u.head h =
        { s.head h with
          seq :=
            { s.seq h with
              elapsed := some (elapsedCount s.settings.nPos p (s.head h).table.position), entry := s.named serial } } ∧
      (∀ k, (u.seq k).state = (s.seq k).state) ∧ u.orq = s.orq ∧ u.counters = s.counters ∧ u.resolver = s.resolver := by
  have chosen := elapsed_alone alone
  obtain ⟨w, handing, node⟩ : ∃ w : State, s.handing serial p .received = ((s.named serial).map fun e => (h, e), w) ∧
      w = { elapseAll p s with queue := w.queue } := by
    cases hn : s.named serial with
    | none =>
      refine ⟨elapseAll p s, ?_, rfl⟩
      have none : ¬(elapseAll p s).gives serial p := named_none (s := elapseAll p s) hn
      rw [State.handing, discarded_none hst, handOver_none none]
      rfl
    | some e =>
      obtain ⟨hq, he⟩ := named_some hn
      exact ⟨_, handing_granted hst hl hq he chosen hi, without_node _ _⟩
  have head : ∀ k, w.head k = (elapseAll p s).head k := fun k => by rw [node]; rfl
  have seq : ∀ k, w.seq k = (elapseAll p s).seq k := fun k => congrArg Head.seq (head k)
  have at_p : headsAt p w = [h] := headsAt_alone fun k => by rw [head, elapseAll_position]; exact alone k
  have handed : handedTo h ((s.named serial).map fun e => (h, e)) = s.named serial := by
    cases s.named serial with
    | none => rfl
    | some e => exact handedTo_self h e
  have idle : (w.seq h).state = .idle := by rw [seq, elapseAll_seq]; exact hi
  have locked : w.ring.state = .locked := by rw [node]; exact hl
  refine ⟨w.modSeq h fun q => { q with entry := s.named serial }, ?_, ?_, fun k => ?_, ?_, ?_, ?_⟩
  · rw [State.infed, handing]
    dsimp only
    rw [at_p, List.foldl_cons, List.foldl_nil, takeInfeed, if_pos ⟨idle, locked, rfl⟩, handed]
  · rw [modSeq_head, seq, head, elapseAll_head, elapseAll_seq]
  · by_cases hk : k = h
    · rw [hk, modSeq_seq, seq, elapseAll_seq]
    · rw [State.seq, elsewhere_modSeq _ w k hk, head, elapseAll_head]
  · show w.orq = s.orq
    rw [node]
    rfl
  · show w.counters = s.counters
    rw [node]
    rfl
  · show w.resolver = s.resolver
    rw [node]
    rfl

/-- A head alone at the infeed that does not decide: its entry is lost with its record, and the head goes on (R45, R46). -/
theorem infed_lost (hn : s.named serial = some e) (hk : e.kind = .container)
    (hs : (s.seq h).state ≠ .idle ∨ s.ring.state = .holdover) (room : s.roomFor 1) :
    (∃ l, (s.infed serial p .received).orq.records =
      s.orq.records ++ notServedRecord (headByte h) e.serial e.recipe
        (if (s.seq h).state ≠ .idle then .headUnavailable else .holdover) e.position 0 :: l) ∧
    (s.infed serial p .received).head h =
      { s.head h with
        seq := { s.seq h with elapsed := some (elapsedCount s.settings.nPos p (s.head h).table.position) } } := by
  have chosen := elapsed_alone alone
  obtain ⟨hq, he⟩ := named_some hn
  have stateE : ((elapseAll p s).seq h).state = (s.seq h).state := by rw [elapseAll_seq]
  obtain ⟨reason, hr⟩ : ∃ reason : NotServedReason,
    reason = if (s.seq h).state ≠ .idle then .headUnavailable else .holdover := ⟨_, rfl⟩
  obtain ⟨w, hw⟩ : ∃ w, w = (elapseAll p s).without s.queue.entries.tail := ⟨_, rfl⟩
  have node : w = { elapseAll p s with queue := w.queue } := by
    rw [hw]
    exact without_node _ _
  have handing : s.handing serial p .received = (none, discardRecord (headByte h) reason e w) := by
    rw [State.handing, discarded_none hst, handOver_given chosen hq he, stateE, hr, hw]
    by_cases hi : (s.seq h).state = .idle
    · have holdover : (elapseAll p s).ring.state = .holdover := hs.resolve_left (not_not_intro hi)
      rw [if_neg (not_not_intro hi), if_neg (not_not_intro hi), if_pos (.inr holdover)]
    · rw [if_pos hi, if_pos hi]
  have booked := booked_discardRecord w (headByte h) reason e
  have enters := enters_discardRecord (s := w) (headByte h) reason e
  have single : discardedRecords (headByte h) reason [e] =
      [notServedRecord (headByte h) e.serial e.recipe reason e.position 0] := by simp [discardedRecords, hk]
  rw [single] at enters
  obtain ⟨x, hx⟩ : ∃ x, x = discardRecord (headByte h) reason e w := ⟨_, rfl⟩
  rw [← hx] at handing booked enters
  have orqW : w.orq = s.orq := by rw [node]; rfl
  have headW : ∀ k, x.head k = (elapseAll p s).head k := fun k => (booked.head k).trans (by rw [node]; rfl)
  have ring : x.ring = s.ring := booked.ring.trans (by rw [node]; rfl)
  have at_p : headsAt p x = [h] := headsAt_alone fun k => by rw [headW, elapseAll_position]; exact alone k
  have off : ¬((x.seq h).state = .idle ∧ x.ring.state = .locked ∧ EventKind.received = .received) := by
    rintro ⟨idle, locked, -⟩
    rw [State.seq, headW, elapseAll_head] at idle
    rw [ring] at locked
    rcases hs with h' | h'
    · exact h' idle
    · rw [locked] at h'
      exact RingState.noConfusion h'
  have infed : s.infed serial p .received = x := by
    rw [State.infed, handing]
    dsimp only
    rw [at_p, List.foldl_cons, List.foldl_nil, takeInfeed_off _ _ _ _ off]
  rw [infed, ← hr]
  refine ⟨⟨[], ?_⟩, ?_⟩
  · have orq := (enters (by rw [State.roomFor, orqW]; exact room)).1
    rw [orq, orqW]
  · rw [headW, elapseAll_head]

end

/-! ### The cases of the decision (R91, R155) -/

theorem pitchEvent_records (serial : Half) (p : Nat) (s : State) :
    ∃ l, (pitchEvent serial p .received s).orq.records = (s.infed serial p .received).orq.records ++ l := by
  have turn := (forHeads_turn (fun h s => work_takeDeadlines s h) (s.infed serial p .received)).1
  obtain ⟨v, hv⟩ : ∃ v, v = forHeads takeDeadlines (s.infed serial p .received) := ⟨_, rfl⟩
  rw [pitchEvent_stages, countEstimated, if_neg (by decide)]
  rw [← hv] at turn ⊢
  exact turn.event.records

/-- Behind the decision of a head that was IDLE, where no other head is in a cycle, no deadline is met. -/
theorem decision_inactive {x : Option QueueEntry} (hi : (s.seq h).state = .idle)
    (others : ∀ k, k ≠ h → (s.seq k).state.active = false) (k : HeadId) :
    ((infeedDecision h serial x s).seq k).state.active = false := by
  obtain ⟨elsewhere, own⟩ := infeedDecision_head (h := h) x serial s
  by_cases hk : k = h
  · rw [hk]
    rcases own with e | ⟨-, e⟩
    · rw [e, hi]
      rfl
    · rw [e]
      rfl
  · rw [State.seq, elsewhere k hk]
    exact others k hk

/-- A cycle that is declined for want of a place: its record is lost (R155, R157). -/
theorem requestCycle_declined (hr : orqRoom s = false) (e : QueueEntry) :
    (requestCycle h e s).head h = s.head h ∧ (requestCycle h e s).resolver = s.resolver ∧
      (s.counter .recordsLost ≠ 65535#16 →
        (requestCycle h e s).counter .recordsLost = s.counter .recordsLost + 1#16 ∧
          (requestCycle h e s).orq = { s.orq with lost := true }) := by
  have no : ¬canReserve h s = true := by simp [canReserve, hr]
  have b : Booked s (countUnserved e.recipe (loseRecord s)) := (booked_loseRecord s).trans (booked_modTotals _ _ _)
  obtain ⟨orq, counters⟩ := modTotals_orq (s := loseRecord s) e.recipe fun t =>
    { t with unservedCount := satAdd Config.maxVolume t.unservedCount 1 }
  rw [requestCycle, if_neg no]
  refine ⟨b.head h, b.resolver, fun hw => ?_⟩
  have lost : loseRecord s = { setCounter .recordsLost (s.counter .recordsLost + 1#16) s with
      orq := { s.orq with lost := true } } := by
    unfold loseRecord
    dsimp only
    rw [if_neg hw]
    rfl
  refine ⟨(congrArg (fun z : Vector Half 10 => z[CounterId.recordsLost.id]) counters).trans ?_, orq.trans ?_⟩
  · show (loseRecord s).counter .recordsLost = _
    rw [lost]
    exact setCounter_counter s .recordsLost _
  · rw [lost]

end

/-! ### The state ahead of the event -/

theorem active_eq_false {x : HeadState} (h : x ∉ [HeadState.running, .forcedSnift, .stepHold]) : x.active = false := by
  revert h
  cases x <;> decide

/-- The node as the expected pitch finds it, where no head is in STEP_HOLD. -/
structure Before (c : Carousel) (s v : State) : Prop where
  head : ∀ k, v.head k = { s.head k with
    seq := { s.seq k with stepMode := (s.seq k).stepMode && decide (c ≠ .running) } }
  queue : v.queue = s.queue
  orq : v.orq = s.orq
  counters : v.counters = s.counters
  resolver : v.resolver = s.resolver
  state : v.ring.state = s.ring.state
  settings : v.settings = s.settings

theorem Before.seq {c : Carousel} {s v : State} (b : Before c s v) (k : HeadId) :
    v.seq k = { s.seq k with stepMode := (s.seq k).stepMode && decide (c ≠ .running) } := congrArg Head.seq (b.head k)

theorem Before.of_shown {c : Carousel} {s u v : State} (shown : Shown c s u) (hv : v = { u with pitch := v.pitch })
    (none : ∀ k, (s.seq k).state ≠ .stepHold) : Before c s v := by
  obtain ⟨orq, counters⟩ := shown.quiet none
  rw [hv]
  exact ⟨fun k => shown.head k (.inl (none k)), shown.queue, orq, counters, shown.resolver, shown.state, shown.settings⟩

theorem Before.stale {c : Carousel} {s v : State} (b : Before c s v) {serial : Half}
    (h : ∀ x ∈ s.queue.entries, (x.serial - serial).toNat < 32768) : v.stale serial = [] := by
  rw [State.stale, b.queue, List.filter_eq_nil_iff]
  intro x hx
  simpa using h x hx

/-- Settles O25: the first part by `infed_granted`, the second by `infed_alone`, `infed_lost` and the cases of the decision. -/
theorem infeedStartsTheResolution : Obligations.InfeedStartsTheResolution := by
  refine ⟨?_, ?_⟩
  · intro time f q a h e rest s hu hk hs ha hh hq hb h1 h2 hm none hp hi hf low present hes he hc hrest room
    obtain ⟨t, c, u, v, x, ht, shown, hv, w, hx⟩ := exec_expectedPitch (time := time) hu hk (.inl hs) ha hh hq hb h1 h2
    have b : Before c (s.advance time) v := Before.of_shown shown hv none
    have stale : v.stale f.serial = [] := b.stale fun y hy => by
      rcases List.mem_cons.mp (hes ▸ hy : y ∈ e :: rest) with rfl | hy
      · rw [he, BitVec.sub_self]
        decide
      · exact hrest y hy
    obtain ⟨own, z, hz, asked⟩ := infed_granted (s := v) (h := h) (p := f.position.toNat) stale (b.state.trans hs)
      (by rw [b.queue]; exact hes) he hc (by rw [b.head]; exact hp) (by rw [b.seq]; exact hi) (by rw [b.seq]; exact hf)
      (by rw [b.head]; exact present) (fun k hk hk' => by rw [b.seq]; exact low k hk (by rw [b.head] at hk'; exact hk'))
      (by rw [b.orq]; exact room)
    have inactive : ((v.infed f.serial f.position.toNat .received).seq h).state.active = false := by
      rw [State.seq, own]
      rfl
    have head := pitchEvent_inactive inactive
    have resolver := pitchEvent_resolver f.serial f.position.toNat .received v
    obtain ⟨y, hy⟩ : ∃ y, y = pitchEvent f.serial f.position.toNat .received v := ⟨_, rfl⟩
    rw [← hy] at hx head resolver
    have seqT : t.seq h = { v.seq h with
        elapsed := some (elapsedCount v.settings.nPos f.position.toNat f.position.toNat)
        entry := some e, reserved := true, state := .resolving, flags := CycleFlags.clear, faultPending := false } := by
      rw [w.seq hm, hx]
      show (y.head h).seq = _
      rw [head, own]
    have resolverT : t.resolver = (requestResolution h e.recipe z).resolver := by
      rw [w.resolver hm, hx]
      exact resolver.trans asked
    have resolverZ : z.resolver = s.resolver := hz.trans b.resolver
    have here : elapsedCount v.settings.nPos f.position.toNat f.position.toNat = 0 := by
      rw [elapsedCount, sub_self, Int.zero_emod]
      rfl
    rw [here] at seqT
    refine ⟨t, ht, by rw [seqT], by rw [seqT], by rw [seqT], by rw [seqT]; rfl, by rw [seqT], ?_⟩
    intro requests
    refine ⟨fun r hr => ?_, fun y l hr hy => ?_⟩
    · rw [resolverT, requestResolution_busy (by rw [resolverZ]; exact hr), resolverZ]
    · rw [resolverT, requestResolution_free (by rw [resolverZ]; exact hr) h e.recipe (by rw [resolverZ]; exact hy)]
      rfl
  · intro time f q a h s hu hk hs ha hh hq hb h1 h2 hm hslots hfull alone others hstep hrest hlost present named container idle
      room record
    have none : ∀ k, (s.seq k).state ≠ .stepHold := fun k => by
      by_cases hk : k = h
      · rw [hk]; exact hstep
      · exact fun e => others k hk (by rw [e]; decide)
    obtain ⟨t, c, u, v, x, ht, shown, hv, w, hx⟩ := exec_expectedPitch (time := time) hu hk hs ha hh hq hb h1 h2
    have b : Before c (s.advance time) v := Before.of_shown shown hv none
    have stale : v.stale f.serial = [] := b.stale hrest
    have nameV : v.named f.serial = named := by rw [State.named, b.queue]; rfl
    have aloneV : ∀ k : HeadId, (v.head k).table.position = f.position.toNat ↔ k = h := fun k => by
      rw [b.head]
      exact alone k
    have othersV : ∀ k, k ≠ h → (v.seq k).state.active = false := fun k hk => by
      rw [b.seq]
      exact active_eq_false (others k hk)
    obtain ⟨queueT, countersT, orqT⟩ := w.plain hm hslots
    obtain ⟨queueP, -, -⟩ := pitchEvent_infeed f.serial f.position.toNat v
    have records := pitchEvent_records f.serial f.position.toNat v
    have handed := handing_handed f.serial f.position.toNat .received v
    have off := pitchEvent_off (s := v) (serial := f.serial) (p := f.position.toNat)
    have ownHead := pitchEvent_inactive (s := v) (serial := f.serial) (p := f.position.toNat) (h := h) (k := .received)
    obtain ⟨y, hy⟩ : ∃ y, y = pitchEvent f.serial f.position.toNat .received v := ⟨_, rfl⟩
    rw [← hy] at hx queueP records off ownHead
    have queueY : t.queue = y.queue := by rw [queueT, hx]
    have countersY : t.counters = y.counters := by rw [countersT, hx]
    have orqY : t.orq = y.orq := by rw [orqT hfull, hx]
    have seqY : t.seq h = y.seq h := by rw [w.seq hm, hx]; rfl
    have resolverY : t.resolver = y.resolver := by rw [w.resolver hm, hx]
    have roomV : room → v.roomFor 1 := fun hr => by
      rw [State.roomFor, b.orq]
      exact ⟨hlost, hr⟩
    refine ⟨t, ht, fun e he => ?_, fun hi hf => ?_, fun e he hc hr => ⟨fun hi => ?_, fun hi hl => ?_⟩⟩
    · obtain ⟨-, hs⟩ := named_some (nameV.trans he)
      have entries : v.keeping f.serial = s.queue.entries := by rw [keeping_of_stale stale, b.queue]; rfl
      have head : s.queue.entries.head? = some e := (Option.filter_eq_some_iff.mp he).1
      rw [queueY, queueP, handed.given ⟨⟨e, by rw [entries]; exact head, hs⟩, h, (aloneV h).mpr rfl⟩, entries]
    · obtain ⟨z, infed, headZ, stateZ, orqZ, countersZ, resolverZ⟩ :=
        infed_alone aloneV stale (b.state.trans hi.2) (by rw [b.seq]; exact hi.1)
      have idleZ : (z.seq h).state = .idle := by rw [stateZ, b.seq]; exact hi.1
      rw [nameV] at infed headZ
      have inactive : ∀ k, ((infeedDecision h f.serial named z).seq k).state.active = false :=
        decision_inactive idleZ fun k hk => by rw [stateZ]; exact othersV k hk
      rw [infed] at off
      have decided : y = (infeedDecision h f.serial named z).requestBowl := off inactive
      have seqZ : z.seq h = { v.seq h with
          elapsed := some (elapsedCount v.settings.nPos f.position.toNat (v.head h).table.position), entry := named } :=
        congrArg Head.seq headZ
      have entryZ : (z.seq h).entry = named := by rw [seqZ]
      have freeZ : (z.seq h).reserved = false := by rw [seqZ, b.seq]; exact hf
      have positionZ : (z.head h).table.position = (s.head h).table.position := by rw [headZ, b.head]; rfl
      have presentZ : (z.head h).presence = .present ↔ present := by rw [headZ, b.head]; exact Iff.rfl
      have orqS : z.orq = s.orq := orqZ.trans b.orq
      have countersS : z.counters = s.counters := countersZ.trans b.counters
      have counterS : ∀ k, z.counter k = s.counter k := fun k => congrArg (fun l : Vector Half 10 => l[k.id]) countersS
      have roomZ : room → z.roomFor 1 := fun hr => by
        rw [State.roomFor, orqS]
        exact ⟨hlost, hr⟩
      obtain ⟨i, hi'⟩ : ∃ i, i = infeedDecision h f.serial named z := ⟨_, rfl⟩
      rw [← hi'] at decided
      have orqI : t.orq = i.orq := by rw [orqY, decided]; rfl
      have countersI : t.counters = i.counters := by rw [countersY, decided]; rfl
      have counterI : ∀ k, t.counter k = i.counter k := fun k => congrArg (fun l : Vector Half 10 => l[k.id]) countersI
      have seqI : t.seq h = i.seq h := by rw [seqY, decided]; rfl
      have resolverI : t.resolver = i.resolver := by rw [resolverY, decided]; rfl
      refine ⟨fun e he hc hp => ?_, fun hc hp => ?_, fun hc hp => ?_, fun ⟨e, he, hc⟩ hp hr => ?_⟩
      · rw [he, infeedDecision_container hc, if_neg (mt presentZ.mp hp)] at hi'
        have left := immediateNotServed_leaves (h := h) f.serial e.recipe .missingContainer .missingContainers (by decide) z
        rw [← hi', positionZ] at left
        have own : i.seq h = _ := congrArg Head.seq left.own
        refine ⟨by rw [seqI, own]; exact idleZ, by rw [seqI, own], by rw [seqI]; exact left.free freeZ,
          by rw [counterI, left.counter, counterS], fun hr hw => ?_⟩
        rw [orqI, left.enters freeZ (roomZ hr) (by rw [counterS]; exact hw), orqS]
        rfl
      · rw [infeedDecision_other (fun e he hk => hc ⟨e, he, hk⟩), if_pos (presentZ.mpr hp)] at hi'
        have left := immediateNotServed_leaves (h := h) f.serial (recipeOrNone named) .unassignedContainer .unassigned (by decide) z
        rw [← hi', positionZ] at left
        have own : i.seq h = _ := congrArg Head.seq left.own
        have recipe : BitVec.ofNat 8 (recipeOrNone named) = named.elim 255#8 fun e => BitVec.ofNat 8 e.recipe := by
          cases named <;> rfl
        refine ⟨by rw [seqI, own]; exact idleZ, by rw [seqI, own], by rw [seqI]; exact left.free freeZ,
          by rw [counterI, left.counter, counterS], fun hr hw => ?_⟩
        rw [orqI, left.enters freeZ (roomZ hr) (by rw [counterS]; exact hw), orqS, ← recipe]
        rfl
      · rw [infeedDecision_other (fun e he hk => hc ⟨e, he, hk⟩), if_neg (mt presentZ.mp hp)] at hi'
        exact ⟨by rw [seqI, hi']; exact idleZ, by rw [seqI, hi']; exact entryZ, by rw [orqI, hi', orqS],
          by rw [countersI, hi', countersS]⟩
      · rw [he, infeedDecision_container hc, if_pos (presentZ.mpr hp)] at hi'
        have full : orqRoom z = false := by
          rw [← Bool.not_eq_true, orqRoom_iff, orqS]
          exact hr
        obtain ⟨head, resolver, lost⟩ := requestCycle_declined (h := h) full e
        rw [← hi'] at head resolver lost
        have own : i.seq h = z.seq h := congrArg Head.seq head
        refine ⟨by rw [seqI, own]; exact idleZ, by rw [seqI, own]; exact entryZ,
          by rw [resolverI, resolver, resolverZ]; exact b.resolver, fun hw => ?_⟩
        obtain ⟨counter, orq⟩ := lost (by rw [counterS]; exact hw)
        exact ⟨by rw [counterI, counter, counterS], by rw [orqI, orq, orqS]⟩
    · obtain ⟨l, hl⟩ := records
      obtain ⟨⟨l', hl'⟩, -⟩ := infed_lost aloneV stale (nameV.trans he) hc (.inl (by rw [b.seq]; exact hi)) (roomV hr)
      obtain ⟨-, hs⟩ := named_some (nameV.trans he)
      have state : (v.seq h).state ≠ .idle := by rw [b.seq]; exact hi
      rw [if_pos state, b.orq, hs] at hl'
      refine ⟨l' ++ l, ?_⟩
      rw [orqY, hl, hl', List.append_assoc]
      rfl
    · obtain ⟨l, hl'⟩ := records
      have holdover : v.ring.state = .holdover := b.state.trans hl
      obtain ⟨⟨l', hl''⟩, own⟩ := infed_lost aloneV stale (nameV.trans he) hc (.inr holdover) (roomV hr)
      obtain ⟨-, hs⟩ := named_some (nameV.trans he)
      have state : (v.seq h).state = .idle := by rw [b.seq]; exact hi
      rw [if_neg (not_not_intro state), b.orq, hs] at hl''
      have inactive : ((v.infed f.serial f.position.toNat .received).seq h).state.active = false := by
        rw [State.seq, own]
        show (v.seq h).state.active = false
        rw [state]
        rfl
      have seqT : t.seq h = { v.seq h with
          elapsed := some (elapsedCount v.settings.nPos f.position.toNat (v.head h).table.position) } := by
        rw [seqY, State.seq, ownHead inactive, own]
      refine ⟨by rw [seqT]; exact state, by rw [seqT, b.seq]; rfl, l' ++ l, ?_⟩
      rw [orqY, hl', hl'', List.append_assoc]
      rfl

end Sys2Proof.Machine
end
